-- ==== Sys2Proof/Word.lean ====
section
/-! DEFINITION. The word types of the SF-212 and the form in which sparse tables are held. -/

namespace Sys2Proof

/-- One byte of shared memory or of a rack frame. -/
abbrev Byte := BitVec 8

/-- One register of the window, or one address of shared memory as the host writes it. -/
abbrev Word := BitVec 32

/-- A table over natural-number keys held as the list of its entries that differ from a default,
keys strictly rising. Shared memory, the Occupancy Map, the Coupling Table, the cache ways, the status
sequences and the kept fields are held so. -/
abbrev Sparse (β : Type) := List (Nat × β)

end Sys2Proof
end

