-- ==== Sys2Proof/Config.lean ====
section
/-! DEFINITION. The constants the manual fixes for the part, and the one value that it leaves open: which of the two
works over the Occupancy Map comes to its next bin first. -/

namespace Sys2Proof.Config

/-- NONE in a code field (R1). -/
def noCode : Nat := 65535
/-- "No carrier" in a carrier ID field (Conventions, R46). -/
def noId : Nat := 65535
/-- Codes of the grid, 0..8959 (R1). -/
def codes : Nat := 8960
/-- Stages of the site (Conventions). -/
def stages : Nat := 12
/-- Carrier numbers of one stage (Conventions). -/
def numbers : Nat := 96
/-- Air Set entries (R25). -/
def airCapacity : Nat := 200
/-- Swap Request List entries (R73). -/
def requestCapacity : Nat := 8
/-- Command Queue entries, and the count below which a plan-class offer is accepted (R133). -/
def queueCapacity : Nat := 8
def planLimit : Nat := 6
/-- Rack Roster entries of a line (R130). -/
def rosterCapacity : Nat := 8
/-- Spare status records (R162, R163). -/
def spareRecords : Nat := 64
/-- Beats of one burst (R183). -/
def burstBeats : Nat := 16
/-- Steps between stop word readings (R68). -/
def stopSteps : Nat := 64
/-- Lock failures in a row that end a sweep (R116). -/
def lockFailures : Nat := 8
/-- The layout_version of a good anchor (R189). -/
def layoutVersion : Nat := 3
/-- IDENT (R194). -/
def ident : Word := 0x02120001
/-- The sum modulo 256 of a good settings block (R191). -/
def settingsSum : Nat := 0xA5
/-- Bytes of the settings block (R191). -/
def settingsBytes : Nat := 24
/-- Addresses of shared memory. -/
def addresses : Nat := 4294967296

/-- How many micro-steps one command may let a block make before it waits for another command.
DESIGN CHOICE (log 33): more than any command can need. -/
def microSteps : Nat := 8192

/-- How many ticks a command may wait for the work over the map to end. DESIGN CHOICE (log 33): more than a band and
eight services can need. -/
def tickBound : Nat := 32768

/-- Whether the map's order, and not the engine's reading, comes to its next bin at the choice of that number: a free
value. R104 and R106 give both bin by bin and no pace of one against the other, so nothing is known of it (log 10). -/
opaque bandNext : Nat → Bool

end Sys2Proof.Config
end

