-- ==== Sys2Proof/Syntax.lean ====
section
/-! DEFINITION. The commands of the SF-212: one constructor for each row of spec/opcode_table.json.
The table gives its rows no operands; the operands below are what the event brings to the part. -/

namespace Sys2Proof

/-- A command: an event that arrives at the part from its host, its bus, its field ports or its timers, or
the taking of a hand-off between two of its blocks. -/
inductive Instr where
  /-- RESET (R193): the RESET pin or power-on; `beats` of a burst in progress have completed. -/
  | reset (beats : Nat)
  /-- RUN_START (R187, R189): a host write of CONTROL with RUN 1 and the given NUDGE. -/
  | runStart (nudge : Bool)
  /-- HALT (R187, R190): a host write of CONTROL with RUN 0 and the given NUDGE. -/
  | halt (nudge : Bool)
  /-- RUN_ZERO_IN_STARTING (R187): a host write of CONTROL with RUN 0 during the start. -/
  | runZeroInStarting (nudge : Bool)
  /-- NUDGE (R166, R187): a host write of CONTROL with NUDGE 1 and the given RUN. -/
  | nudge (run : Bool)
  /-- CLEAR_CAUSE (R188): a host write of `value` to STATUS. -/
  | clearCause (value : Word)
  /-- REGISTER_WRITE (R186): a host write of a register with the given byte enables. -/
  | registerWrite (offset : Nat) (value : Word) (enables : BitVec 4)
  /-- ANCHOR_READ_DONE (R189): the anchor read's answer is taken and the anchor judged. -/
  | anchorReadDone
  /-- STATUS_REWRITE_COMPLETE (R189). -/
  | statusRewriteComplete
  /-- HALT_COMPLETE (R190). -/
  | haltComplete
  /-- BUS_GRANT (R183): the grant comes; `writes` are the bytes the host stored since the last burst. -/
  | busGrant (writes : List (Nat × Byte))
  /-- BURST_COMPLETE (R183): the last beat of the burst completes. -/
  | burstComplete
  /-- TRANSFER_TIMEOUT (R184): the monitor period expires after `beats` beats have completed. -/
  | transferTimeout (beats : Nat)
  /-- BUS_ERROR (R184): the memory controller signals an error on beat `beat`, counted from 0. -/
  | busError (beat : Nat)
  /-- SURVEY_TIMER (R166). -/
  | surveyTimer
  /-- SURVEY (R167): a survey that has begun makes its reads. -/
  | survey
  /-- SURVEY_AGAIN (R166). -/
  | surveyAgain
  /-- ORDER_COMPLETION (R172): the oldest end of the completion list is written. -/
  | orderCompletion
  /-- ENGINE_STEP_BOUNDARY (R68). -/
  | engineStepBoundary
  /-- SWAP_ANSWER (R151): the Watch Unit takes the oldest answer of the engine. -/
  | swapAnswer
  /-- QUEUE_ROOM_NOTICE (R134): a notice of `line` is taken; `engineFirst` says whose offer is first. -/
  | queueRoomNotice (line : Fin 4) (engineFirst : Bool)
  /-- TUNE_OUTCOME_RECORD (R36): the engine takes the oldest outcome of `line`. -/
  | tuneOutcomeRecord (line : Fin 4)
  /-- TUNING_WORD_SENT (R112). -/
  | tuningWordSent
  /-- LOCK_COMES (R113). -/
  | lockComes
  /-- LOCK_LIMIT_EXPIRY (R113). -/
  | lockLimitExpiry
  /-- DWELL_END (R114): the dwell ends with LOCK as sampled. -/
  | dwellEnd (lock : Bool)
  /-- CONVERSION_COMPLETE (R114): the conversion gives a 10-bit reading. -/
  | conversionComplete (reading : BitVec 10)
  /-- BUFFER_WRITE_DONE (R115). -/
  | bufferWriteDone
  /-- PROGRESS_WRITE_DONE (R117). -/
  | progressWriteDone
  /-- SWEEP_STOP_WORD_READ_DONE (R118). -/
  | sweepStopWordReadDone
  /-- REQUEST_FRAME_SENT (R123). -/
  | requestFrameSent (line : Fin 4)
  /-- REPLY_FRAME (R127, R128): a reply frame that has ended is judged. -/
  | replyFrame (line : Fin 4)
  /-- GAP_TIMEOUT (R127). -/
  | gapTimeout (line : Fin 4)
  /-- REPLY_TIMEOUT (R128). -/
  | replyTimeout (line : Fin 4)
  /-- FAILED_EXCHANGE_WAIT_END (R128). -/
  | failedExchangeWaitEnd (line : Fin 4)
  /-- UNSOLICITED_CHARACTER (R129): a character on RXD; `samples` holds the three samples of each of its
  eleven bits, bit 3i+j being sample j (ticks 7, 8, 9) of bit i. -/
  | unsolicitedCharacter (line : Fin 4) (samples : BitVec 33)
  /-- POLL_TIMER (R135). -/
  | pollTimer (line : Fin 4)
  /-- REPORT_ENTRY (R146): the Watch Unit takes the oldest report entry of `line`. -/
  | reportEntry (line : Fin 4)
  /-- LIVE_TUNE_OUTCOME (R152): the Watch Unit takes the oldest live outcome of `line`. -/
  | liveTuneOutcome (line : Fin 4)
  /-- BLIND_NOTICE (R156): the Watch Unit takes the oldest notice of `line`, a BLIND notice. -/
  | blindNotice (line : Fin 4)
  /-- UNBLIND_NOTICE (R157): the Watch Unit takes the oldest notice of `line`, an UNBLIND notice. -/
  | unblindNotice (line : Fin 4)
  /-- STATUS_RECORD_WRITE (R176): the Status Writer takes the head of its list. -/
  | statusRecordWrite
  /-- SETTINGS_WRITE_DONE (R192). -/
  | settingsWriteDone
  /-- CHARACTER_RECEIVED (R127): a character on RXD, samples as for UNSOLICITED_CHARACTER. -/
  | characterReceived (line : Fin 4) (samples : BitVec 33)
  /-- GOOD_EXCHANGE_WAIT_END (R128). -/
  | goodExchangeWaitEnd (line : Fin 4)
  deriving DecidableEq, Repr

end Sys2Proof
end

