-- ==== Sys2Proof/WellFormed.lean ====
section
/-! DEFINITION. Which commands are well formed: operands within the ranges the manual gives. -/

namespace Sys2Proof

/-- The eight registers of the window, at offsets 0x00 to 0x1C (R186, R194). -/
def registerOffsetOk (offset : Nat) : Bool := offset % 4 == 0 && decide (offset < 32)

/-- A list of host stores names bytes of the 32-bit address space. -/
def storesOk (writes : List (Nat × Byte)) : Bool := writes.all fun w => decide (w.1 < Config.addresses)

/-- A count of completed beats of one burst (R183: at most 16). -/
def beatsOk (beats : Nat) : Bool := decide (beats ≤ Config.burstBeats)

/-- Well-formedness of a command. Operands of a fixed width need no check. -/
def Instr.wellFormed : Instr → Bool
  | .reset beats => beatsOk beats
  | .runStart _ => true
  | .halt _ => true
  | .runZeroInStarting _ => true
  | .nudge _ => true
  | .clearCause _ => true
  | .registerWrite offset _ _ => registerOffsetOk offset
  | .anchorReadDone => true
  | .statusRewriteComplete => true
  | .haltComplete => true
  | .busGrant writes => storesOk writes
  | .burstComplete => true
  | .transferTimeout beats => beatsOk beats
  | .busError beat => decide (beat < Config.burstBeats)
  | .surveyTimer => true
  | .survey => true
  | .surveyAgain => true
  | .orderCompletion => true
  | .engineStepBoundary => true
  | .swapAnswer => true
  | .queueRoomNotice _ _ => true
  | .tuneOutcomeRecord _ => true
  | .tuningWordSent => true
  | .lockComes => true
  | .lockLimitExpiry => true
  | .dwellEnd _ => true
  | .conversionComplete _ => true
  | .bufferWriteDone => true
  | .progressWriteDone => true
  | .sweepStopWordReadDone => true
  | .requestFrameSent _ => true
  | .replyFrame _ => true
  | .gapTimeout _ => true
  | .replyTimeout _ => true
  | .failedExchangeWaitEnd _ => true
  | .unsolicitedCharacter _ _ => true
  | .pollTimer _ => true
  | .reportEntry _ => true
  | .liveTuneOutcome _ => true
  | .blindNotice _ => true
  | .unblindNotice _ => true
  | .statusRecordWrite => true
  | .settingsWriteDone => true
  | .characterReceived _ _ => true
  | .goodExchangeWaitEnd _ => true

end Sys2Proof
end

