-- ==== Sys2Proof/Machine/State.lean ====
section
/-! DEFINITION. The state of the SF-212, block by block, and its reset values. -/

namespace Sys2Proof.Machine

/-! ### Run control, faults of shared memory, windows -/

/-- Run control (R187). -/
inductive RunControl where
  | stopped | starting | running | halting
  deriving DecidableEq, Repr

/-- The seven causes of STATUS, in the order of bits 8 to 14 (R188, R194). -/
inductive Cause where
  | orderEnded | statusChanged | alert | memoryFault | halted | anchorBad | settingsDefaulted
  deriving DecidableEq, Repr

/-- Kinds of memory fault (R185). -/
inductive FaultKind where
  | window | timeout | busError
  deriving DecidableEq, Repr

/-- Requesters of shared memory (R185). -/
inductive Requester where
  | board | engine | cache | sweep | status
  deriving DecidableEq, Repr

/-- The fault record (R185). -/
structure FaultRecord where
  address : Word
  kind : Option FaultKind
  requester : Option Requester
  count : Nat
  deriving DecidableEq, Repr

/-- Access of a window (R181). -/
inductive Access where
  | none | read | readWrite
  deriving DecidableEq, Repr

/-- A window of the Window Table (R181). Size 0 is an unused window. -/
structure Window where
  base : Nat
  size : Nat
  access : Access
  deriving DecidableEq, Repr

/-- What the last good RUN start latched from the anchor (R189); after a reset none has: 0 stages, 0 slots and 0
addresses are a DESIGN CHOICE (log 38; unsafe), while that no status address is latched is R175. -/
structure Latch where
  stages : Nat
  dirAddr : Nat
  boardAddr : Nat
  boardSlots : Nat
  statusAddr : Option Nat
  deriving DecidableEq, Repr

/-! ### Memory Port -/

/-- The five sources of the port, in their cyclic order (R183). -/
inductive Source where
  | board | engine | cache | sweep | status
  deriving DecidableEq, Repr

/-- Who waits for a transfer. The anchor read and the settings destination's read go out on the Board
Handler's source (R183). -/
inductive Owner where
  | anchor | board | settings | engine | cache | sweep | status
  deriving DecidableEq, Repr

/-- A transfer presented to the port: `addr` is the first byte not yet moved, `left` the bytes still to
move. For a write `data` holds those bytes; for a read it holds the bytes already received. -/
structure Transfer where
  owner : Owner
  write : Bool
  addr : Nat
  left : Nat
  data : List Byte
  deriving DecidableEq, Repr

/-- The bus phase of the port (R183): the bus request is raised from `requesting` on. -/
inductive BusPhase where
  | free
  | requesting (source : Source)
  | granted (source : Source)
  deriving DecidableEq, Repr

/-- The Memory Port's arbiter (R183). -/
structure Port where
  transfers : List Transfer
  phase : BusPhase
  lastServed : Source
  deriving DecidableEq, Repr

/-- The end of a transfer as its requester receives it (R184): the data of a read (empty for a write), or
a fault. -/
inductive Answer where
  | ok (data : List Byte)
  | fault
  deriving DecidableEq, Repr

/-- Ends of transfers that their owners have not yet taken. -/
structure Mail where
  anchor : Option Answer
  board : Option Answer
  settings : Option Answer
  engine : Option Answer
  cache : Option Answer
  sweep : Option Answer
  status : Option Answer
  deriving DecidableEq, Repr

/-! ### Settings Store -/

/-- The three values of a rack line (R121). -/
structure LineValues where
  divisor : Nat
  replyTimeout : Nat
  pollInterval : Nat
  deriving DecidableEq, Repr

/-- The working copy of the settings (R191). -/
structure WorkingCopy where
  wide : Bool
  monitorPeriod : Nat
  surveyInterval : Nat
  lines : Vector LineValues 4
  deriving DecidableEq, Repr

/-- What the settings destination is doing (R192). -/
inductive SettingsJob where
  | idle
  | reading (slot : Nat)
  | writing (slot : Nat) (block : List Byte)
  deriving DecidableEq, Repr

/-- The Settings Store and its destination (R191, R192). -/
structure Settings where
  block : List Byte
  copy : WorkingCopy
  job : SettingsJob
  deriving DecidableEq, Repr

/-! ### Orders -/

/-- The order kinds of the catalogue (9.4). -/
inductive OrderKind where
  | setParams | loadCoupling | sparesLoad | sparesRelease | flushCache | airJoin | airLeave | changeover
  | retune | check | sweep | storeSettings | markBand | watchSetup | watchRelease | lineSetup | rackRoster
  | rackTune
  deriving DecidableEq, Repr

/-- The body of an order slot as read (R165, R194). Addresses have their low two bits 0 (R183). -/
structure OrderBody where
  stop : Nat
  kind : Nat
  priority : Nat
  listA : Nat
  listACount : Nat
  listBCount : Nat
  listB : Nat
  result : Nat
  capacity : Nat
  p0 : Nat
  p1 : Nat
  p2 : Nat
  p3 : Nat
  deriving DecidableEq, Repr

/-- Result codes (R194). -/
inductive ResultCode where
  | ok | partialDone | conflicts | truncated | badOrder | stopped | halted | memory | permission | notOnAir
  | notOffAir | noCandidate | duplicate | tunerFault | nothingDone | refusedConflict | searchLimit
  deriving DecidableEq, Repr

/-- The destinations that hold orders (R169). -/
inductive HeldDest where
  | engine | sweep | settings
  deriving DecidableEq, Repr

/-- The end of one order (R172). -/
structure Completion where
  slot : Nat
  failed : Bool
  result : ResultCode
  count1 : Nat
  count2 : Nat
  deriving DecidableEq, Repr

/-- A sound candidate of a survey (R167). -/
structure Candidate where
  slot : Nat
  kind : OrderKind
  body : OrderBody
  deriving DecidableEq, Repr

/-! ### Board Handler -/

/-- Where the Board Handler stands in a survey or in a completion write (R166 to R172). Positions ending in
`Wait` wait for the answer of a transfer; `begun` waits for the command SURVEY; the others go on at once. -/
inductive BoardPos where
  | idle
  | begun
  /-- the state words from slot `next` on are still to be read; `found` lists the POSTED slots so far -/
  | states (next : Nat) (found : List Nat)
  | stateWait (slot : Nat) (found : List Nat)
  /-- the bodies of `left` are still to be read; `sound` lists the sound candidates so far -/
  | bodies (left : List Nat) (sound : List Candidate)
  | bodyWait (slot : Nat) (left : List Nat) (sound : List Candidate)
  /-- a screening answer is written: its result burst, then its state word -/
  | screenResultWait (c : Completion) (left : List Nat) (sound : List Candidate)
  | screenStateWait (c : Completion) (left : List Nat) (sound : List Candidate)
  /-- the next order is chosen among `sound` -/
  | choose (sound : List Candidate)
  | takenWait (c : Candidate) (sound : List Candidate)
  | rosterWait (c : Candidate) (sound : List Candidate)
  /-- a RACK_TUNE already decided: its TAKEN write -/
  | tuneTakenWait (c : Completion) (sound : List Candidate)
  /-- the map carries a MARK_BAND -/
  | bandWait (sound : List Candidate)
  /-- the completion of an immediate order is written -/
  | immResultWait (c : Completion) (sound : List Candidate)
  | immStateWait (c : Completion) (sound : List Candidate)
  /-- the head of the completion list is written -/
  | listResultWait (c : Completion)
  | listStateWait (c : Completion)
  deriving DecidableEq, Repr

/-- The Board Handler (R164). -/
structure Board where
  pos : BoardPos
  cursor : Nat
  timerOn : Bool
  again : Bool
  ending : Bool
  heldEngine : Option Nat
  heldSweep : Option Nat
  heldSettings : Option Nat
  completions : List Completion
  deriving DecidableEq, Repr

/-! ### Carriers -/

/-- Kind of a carrier (R47). -/
inductive CarrierKind where
  | mic | iem
  deriving DecidableEq, Repr

/-- A rack position (R24). -/
structure Rack where
  line : Fin 4
  addr : Nat
  slot : Nat
  deriving DecidableEq, Repr

/-- The contents of a carrier record as the Cache reads it (R47, R50, R52). An absent rack is the marking
"no rack". -/
structure CarrierInfo where
  kind : CarrierKind
  powerClass : Nat
  locked : Bool
  autoSwap : Bool
  watched : Bool
  tuneLow : Nat
  tuneHigh : Nat
  tuneStep : Nat
  preferred : Nat
  rack : Option Rack
  assigned : Nat
  source : Nat
  deriving DecidableEq, Repr

/-- A way of the Carrier Cache that is valid (R52). -/
structure CacheWay where
  tag : Nat
  info : CarrierInfo
  deriving DecidableEq, Repr

/-- Air state of an entry (R24). -/
inductive AirState where
  | pending | onAir
  deriving DecidableEq, Repr

/-- rack_confirmed of an entry (R24). -/
inductive Confirmed where
  | unconfirmed | applied | refused | noReply
  deriving DecidableEq, Repr

/-- An Air Set entry (R24). -/
structure AirEntry where
  id : Nat
  stage : Nat
  code : Nat
  power : Nat
  kind : CarrierKind
  locked : Bool
  autoSwap : Bool
  watched : Bool
  tuneLow : Nat
  tuneHigh : Nat
  tuneStep : Nat
  rack : Option Rack
  air : AirState
  confirmed : Confirmed
  owner : Option Nat
  deriving DecidableEq, Repr

/-- The Plan Parameters (R42). -/
structure PlanParams where
  gcc : Nat
  g3 : Nat
  g5 : Nat
  gocc : Nat
  reuse : Nat
  t3 : Int
  t5 : Int
  threeTone : Bool
  fifthOrder : Bool
  searchLimit : Nat
  cacheOff : Bool
  deriving DecidableEq, Repr

/-- State of a spare (R162). -/
inductive SpareState where
  | available | used | barred
  deriving DecidableEq, Repr

/-- A Spare List entry (R162). Bit k of the mask names stage k. -/
structure Spare where
  code : Nat
  mask : BitVec 12
  state : SpareState
  user : Option Nat
  deriving DecidableEq, Repr

/-! ### Plan Engine -/

/-- Outcomes of list items (R84 to R93, R194). -/
inductive ItemOutcome where
  | placed | kept | left | refusedConflict | noFrequency | outOfRange | unknownCarrier | recordDamaged
  | alreadyOnAir | notOnAir | searchLimit | airSetFull | withdrawn | permission
  deriving DecidableEq, Repr

/-- An item outcome record being built (R72); `code` is the code a LEFT carrier held. -/
structure ItemRecord where
  id : Nat
  outcome : ItemOutcome
  code : Nat
  deriving DecidableEq, Repr

/-- Phases of an order (R69). Orders without boundaries stay in `whole`. -/
inductive Phase where
  | whole | items | leave | place | commit | search | victims | spares
  deriving DecidableEq, Repr

/-- A candidate walk (R81): `index` numbers the next point (0 is p, odd numbers lie above, even below);
`low` and `high` bound the range on the grid; `skip` is the point that RETUNE excludes (R93). -/
structure Walk where
  start : Int
  step : Nat
  low : Int
  high : Int
  lattice : Int
  skip : Option Int
  index : Nat
  upDone : Bool
  downDone : Bool
  examined : Nat
  limit : Nat
  deriving DecidableEq, Repr

/-- How the carrier in hand is being placed (R88, R92). -/
inductive Placing where
  /-- a LOCKED joiner at its assigned_code -/
  | locked
  /-- an unlocked joiner at its assigned_code, walked if refused -/
  | assigned
  /-- a RETUNE target -/
  | target
  | walk
  deriving DecidableEq, Repr

/-- The joiner of a CHANGEOVER, the carrier of a RETUNE, or the item of an AIR_JOIN whose tests read the map, in
hand. -/
structure Joiner where
  id : Nat
  info : CarrierInfo
  placing : Placing
  candidate : Nat
  /-- the first test of R18 to R22 that the last examination failed, if any -/
  failedTest : Option Nat
  walk : Option Walk
  deriving DecidableEq, Repr

/-- What the last step of the order in hand was. -/
inductive StepKind where
  /-- a list item handled, or a lookup that ended the step with MEMORY -/
  | item
  | examined
  | victim
  | spare
  /-- a phase that ended without a step of its own (log 22) -/
  | phaseEnd
  deriving DecidableEq, Repr

/-- What a boundary leads to (R68). -/
inductive Ahead where
  /-- a further step of the same phase, or an end decided by the step's own result -/
  | same
  /-- a step of the next phase -/
  | next
  /-- no further step: the boundary after the last step of the last phase -/
  | last
  deriving DecidableEq, Repr

/-- The order that the Plan Engine holds (R66). -/
structure EngineOrder where
  slot : Nat
  kind : OrderKind
  body : OrderBody
  phase : Phase
  listA : List Nat
  listB : List Nat
  cursor : Nat
  stepCounter : Nat
  outcomes : List ItemRecord
  haltMark : Bool
  faultMark : Bool
  stopMark : Bool
  last : StepKind
  ahead : Ahead
  joiner : Option Joiner
  /-- CHECK: code and ID of the last victim, index of the last spare, conflicts found, records written -/
  victim : Option (Nat × Nat)
  spareAt : Option Nat
  found : Nat
  written : Nat
  /-- COMMIT: some write-back answered FAULT; write-backs that did not end WRITTEN -/
  commitFault : Bool
  notWritten : Nat
  deriving DecidableEq, Repr

/-- Where the Plan Engine stands in its work. Positions ending in `Wait` wait for a transfer, `boundary`
for ENGINE_STEP_BOUNDARY and `tuneHeld` for room in a queue (COMMIT_WAIT, R66); the others go on at once. -/
inductive EnginePos where
  | idle
  /-- an order is taken; swaps being served end first (R67) -/
  | taken
  | listAWait
  | listBWait
  /-- the next step of the present phase begins -/
  | step
  /-- a carrier is looked up for the item, joiner or RETUNE in hand -/
  | lookup (id : Nat)
  /-- conflict records still to be written -/
  | conflictWait (left : List (List Byte))
  /-- the step has ended -/
  | boundary
  /-- the boundary serves swaps, then reads the stop word when due, then decides (R68) -/
  | serve
  | stopWait
  | decide
  /-- write-backs of a COMMIT still to be made -/
  | commitWrite (left : List Nat)
  /-- the write-back of the head is in progress -/
  | commitWriteWait (left : List Nat)
  /-- TUNEs still to be offered; `waited` when the head has been refused before -/
  | tune (left : List Nat) (waited : Bool)
  | tuneHeld (left : List Nat)
  /-- the outcome list is being written, then the order ends so -/
  | outcomeWait (failed : Bool) (result : ResultCode) (count1 count2 : Nat)
  deriving DecidableEq, Repr

/-- Where a lookup stands (R54 to R57). -/
inductive LookupStage where
  | ask
  | dirWait
  | recordWait (addr : Nat)
  | rereadWait (addr : Nat)
  deriving DecidableEq, Repr

/-- Where a write-back stands (R61). -/
inductive WriteBackStage where
  | ask
  | dirWait
  | writeWait
  deriving DecidableEq, Repr

/-- A write-back in progress (R61). -/
structure WriteBack where
  id : Nat
  code : Nat
  swap : Bool
  stage : WriteBackStage
  deriving DecidableEq, Repr

/-- A status record (R174). -/
inductive RecId where
  | stage (s : Nat)
  | carrier (id : Nat)
  | line (k : Fin 4)
  | spare (i : Nat)
  deriving DecidableEq, Repr

/-- The reading of a range of bins (R12, R19): the bins still to be read, in their order, and whether some bin
read so far was MARKED or EXCLUDED. -/
structure BinRead where
  left : List Nat
  taken : Bool
  deriving DecidableEq, Repr

/-- The service of a swap request (R75 to R77), to the end of its write-back. -/
inductive Service where
  /-- the spares from index `next` on are still to be tried for carrier `id` -/
  | search (id next : Nat)
  /-- the swap of carrier `id` is applied, and its write-back is in progress; `changed` lists the records of the
  spares it changed -/
  | writing (id : Nat) (changed : List RecId)
  deriving DecidableEq, Repr

/-- The Plan Engine's control state and the Swap Request List (R66, R73). -/
structure Engine where
  pos : EnginePos
  order : Option EngineOrder
  lookup : Option LookupStage
  wb : Option WriteBack
  reading : Option BinRead
  service : Option Service
  airChanged : Bool
  requests : List Nat
  deriving DecidableEq, Repr

/-! ### Occupancy Map and Sweep Unit -/

/-- A bin of the Occupancy Map (R97). -/
structure Bin where
  counter : Nat
  excluded : Bool
  deriving DecidableEq, Repr

/-- The state of a bin as it is read (R97). -/
inductive BinState where
  | clear | marked | excluded
  deriving DecidableEq, Repr

/-- The MARK_BAND order that the map holds (R102 to R104): its operation, the next bin, the bins still to be
reached, the bins of the band, and those whose state has changed so far. -/
structure Band where
  slot : Nat
  op : Nat
  next : Nat
  left : Nat
  length : Nat
  changed : Nat
  deriving DecidableEq, Repr

/-- The order that the Sweep Unit holds: its slot and its decoded fields (R108, R109). -/
structure SweepOrder where
  slot : Nat
  slotAddr : Nat
  first : Nat
  last : Nat
  step : Nat
  dwell : Nat
  passes : Nat
  lockLimit : Nat
  threshold : Nat
  buffer : Nat
  capacity : Nat
  deriving DecidableEq, Repr

/-- The Sweep Unit's counters and marks (R108), and the outcome of the point in hand. -/
structure SweepCount where
  points : Nat
  index : Nat
  passCount : Nat
  failRun : Nat
  failTotal : Nat
  haltMark : Bool
  /-- the level code of the point in hand, and whether the point is a lock failure -/
  level : Nat
  lockFailed : Bool
  /-- the point in hand ended a pass -/
  passEnded : Bool
  deriving DecidableEq, Repr

/-- Where the Sweep Unit stands (R108): DWELL is `dwell` and `converting`, STORING the last three. -/
inductive SweepPos where
  | idle | tuning | lockWait | dwell | converting | bufferWait | progressWait | stopWait
  deriving DecidableEq, Repr

/-- The levels of the tuner line (R112). -/
structure TunerLine where
  clk : Bool
  data : Bool
  latch : Bool
  deriving DecidableEq, Repr

/-- The Sweep Unit and its tuner line (R108, R112). -/
structure Sweep where
  pos : SweepPos
  order : Option SweepOrder
  count : SweepCount
  line : TunerLine
  deriving DecidableEq, Repr

/-! ### Rack Lines -/

/-- State of a rack (R130). -/
inductive RackState where
  | unknown | answering | silent | lost
  deriving DecidableEq, Repr

/-- A roster entry (R130). -/
structure RosterEntry where
  addr : Nat
  state : RackState
  missed : Nat
  cursor : Nat
  deriving DecidableEq, Repr

/-- An entry of a Command Queue, or a TUNE that the Watch Unit holds for a line (R133, R143). -/
structure Tune where
  live : Bool
  addr : Nat
  slot : Nat
  id : Nat
  code : Nat
  deriving DecidableEq, Repr

/-- Outcome of a TUNE (R138). -/
inductive TuneOutcome where
  | applied | refused | outOfRange | noReply
  deriving DecidableEq, Repr

/-- A transaction (R136, R137). `reloaded` marks a poll during which the roster was loaded (R131). -/
inductive Transaction where
  | tune (entry : Tune) (attempt : Nat)
  | poll (addr : Nat) (first : Nat) (reloaded : Bool)
  deriving DecidableEq, Repr

/-- How a reply frame ended with its own characters (R127). -/
inductive FrameEnd where
  | complete | badLength | broken
  deriving DecidableEq, Repr

/-- The frame assembler (R127): the data bytes taken so far, from the address on. -/
structure Assembler where
  bytes : List Byte
  noisy : Bool
  framed : Bool
  ended : Option FrameEnd
  deriving DecidableEq, Repr

/-- The exchange phase of a line (R123, R127, R128): DIR is high while `sending`. -/
inductive LinePhase where
  | quiet
  | sending (frame : List Byte)
  | awaiting (asm : Assembler)
  | goodWait
  | failedWait
  deriving DecidableEq, Repr

/-- A report entry on its way to the Watch Unit (R136). -/
structure Report where
  addr : Nat
  slot : Nat
  rf : Nat
  pilot : Bool
  errors : Nat
  deriving DecidableEq, Repr

/-- A TUNE outcome on its way to the engine or the Watch Unit (R138). -/
structure OutcomeMsg where
  id : Nat
  code : Nat
  outcome : TuneOutcome
  deriving DecidableEq, Repr

/-- A BLIND or UNBLIND notice on its way to the Watch Unit (R131, R132). -/
structure RackNotice where
  blind : Bool
  addr : Nat
  deriving DecidableEq, Repr

/-- One rack line (chapter 7). -/
structure Line where
  values : LineValues
  pendingSetup : Option LineValues
  live : List Tune
  plan : List Tune
  roster : List RosterEntry
  rotation : Nat
  noise : Nat
  framing : Nat
  check : Nat
  gap : Nat
  timeout : Nat
  unsolicited : Nat
  pollDue : Bool
  txn : Option Transaction
  phase : LinePhase
  roomNotices : Nat
  reports : List Report
  outcomes : List OutcomeMsg
  liveOutcomes : List OutcomeMsg
  notices : List RackNotice
  deriving DecidableEq, Repr

/-! ### Watch Unit -/

/-- Watch states of a watched carrier (R143). -/
inductive WatchState where
  | quiet | suspect | confirmed | swapWait | retuning | settling | alerted | held | blind
  deriving DecidableEq, Repr

/-- A watch record (R143). Its held TUNE stands in `Watch.heldTunes`. -/
structure WatchRec where
  id : Nat
  state : WatchState
  run : Nat
  settle : Nat
  swaps : Nat
  lastRf : Option Nat
  lastErrors : Option Nat
  deriving DecidableEq, Repr

/-- The Watch Parameters (R144). -/
structure WatchParams where
  foreign : Nat
  error : Nat
  confirm : Nat
  settle : Nat
  swapLimit : Nat
  deriving DecidableEq, Repr

/-- A live-class TUNE that the Watch Unit holds for a line (R159). -/
structure HeldTune where
  line : Fin 4
  tune : Tune
  deriving DecidableEq, Repr

/-- The Watch Unit. -/
structure Watch where
  records : List WatchRec
  params : WatchParams
  heldTunes : List HeldTune
  deriving DecidableEq, Repr

/-- An answer of the engine to a swap request, on its way to the Watch Unit (R77, R151). -/
structure SwapAnswer where
  id : Nat
  swapped : Bool
  deriving DecidableEq, Repr

/-! ### Status Writer -/

/-- rack_confirm of a carrier status record (R138, R194). -/
inductive RackConfirm where
  | unconfirmed | applied | refused | noReply | outOfRange
  deriving DecidableEq, Repr

/-- The kept fields of one carrier (R174). -/
structure Kept where
  rackConfirm : RackConfirm
  lastRf : Nat
  lastErrors : Nat
  deriving DecidableEq, Repr

/-- The write that the Status Writer has in progress (R176). `counts` when it is one of the RUN-start
rewrite's (log 34). -/
inductive StatusJob where
  | idle
  | recordWait (r : RecId) (counts : Bool)
  | stageWait (r : RecId) (counts : Bool)
  deriving DecidableEq, Repr

/-- The Status Writer (R174). -/
structure StatusWriter where
  seqs : Sparse (BitVec 16)
  marks : List RecId
  kept : Sparse Kept
  epoch : Word
  job : StatusJob
  deriving DecidableEq, Repr

/-! ### The whole -/

/-- The state of the part, the shared memory and the tuner that it reaches, and the queue of commands waiting.
`tuner` is the word that the tuner last took, if any (R112). `paces` is the model's own and no state of the part: how
many choices between the map's order and the engine's reading have been made, which the free value of log 10 is asked
for. -/
structure State where
  pending : List Instr
  run : RunControl
  runBit : Bool
  anchor : Word
  intEnable : BitVec 7
  causes : BitVec 7
  fault : FaultRecord
  latch : Latch
  windows : Vector Window 4
  rewrite : Option (List RecId)
  mem : Sparse Byte
  port : Port
  mail : Mail
  settings : Settings
  board : Board
  engine : Engine
  air : List AirEntry
  coupling : Sparse Nat
  params : PlanParams
  spares : List Spare
  cache : Sparse (Option CacheWay)
  alt : Sparse Bool
  bins : Sparse Bin
  band : Option Band
  occThreshold : Nat
  sweep : Sweep
  tuner : Option (BitVec 16)
  lines : Vector Line 4
  watch : Watch
  swapAnswers : List SwapAnswer
  status : StatusWriter
  paces : Nat
  deriving DecidableEq, Repr

/-- Faults that stop the model. The part has none: every memory fault is recorded and handled by the
block concerned (R184, R185), so this type has no constructor. -/
inductive Fault where
  deriving DecidableEq, Repr

/-- Refusals of the model. -/
inductive Refusal where
  /-- Raised only by an arm of `exec` whose command has no meaning yet; safe. No arm raises it. -/
  | notModelled (mnemonic : String)
  deriving DecidableEq, Repr

/-! ### Reset values -/

/-- The factory defaults of one line (R191). -/
def LineValues.factory : LineValues := ⟨40, 20, 10⟩

/-- The factory defaults (R191). -/
def WorkingCopy.factory : WorkingCopy := ⟨true, 50, 20, Vector.replicate 4 LineValues.factory⟩

/-- The settings block in the part as shipped. DESIGN CHOICE (log 11): the factory defaults, laid out under
R194 with a check byte that makes the sum 0xA5. -/
def Settings.shipped : List Byte :=
  [0, 50, 20, 0, 40, 0, 20, 10, 40, 0, 20, 10, 40, 0, 20, 10, 40, 0, 20, 10, 0, 0, 0, 0x47]

/-- A window as a reset leaves it: unused, so of size 0 (R181). R181 gives no base and no access of such a window:
DESIGN CHOICE (log 63; unsafe): base 0 and access NONE. -/
def Window.unused : Window := ⟨0, 0, .none⟩

/-- A line after reset with its starting values (R121, R129, R130, R133, R135). -/
def Line.reset (v : LineValues) : Line :=
  { values := v, pendingSetup := none, live := [], plan := [], roster := [], rotation := 0
    noise := 0, framing := 0, check := 0, gap := 0, timeout := 0, unsolicited := 0
    pollDue := false, txn := none, phase := .quiet, roomNotices := 0
    reports := [], outcomes := [], liveOutcomes := [], notices := [] }

/-- The Plan Parameters after reset (R42). -/
def PlanParams.reset : PlanParams :=
  { gcc := 12, g3 := 4, g5 := 2, gocc := 2, reuse := 40, t3 := -30, t5 := -40
    threeTone := true, fifthOrder := true, searchLimit := 1000, cacheOff := false }

/-- The Watch Parameters after reset (R144). -/
def WatchParams.reset : WatchParams := ⟨40, 8, 3, 2, 3⟩

/-- The kept fields after reset (R174). -/
def Kept.reset : Kept := ⟨.unconfirmed, 255, 0⟩

/-- A bin after reset (R97). -/
def Bin.reset : Bin := ⟨0, false⟩

/-- The Board Handler after reset (R164). -/
def Board.reset : Board :=
  { pos := .idle, cursor := 0, timerOn := false, again := false, ending := false
    heldEngine := none, heldSweep := none, heldSettings := none, completions := [] }

/-- The Plan Engine after reset (R66). -/
def Engine.reset : Engine :=
  { pos := .idle, order := none, lookup := none, wb := none, reading := none, service := none, airChanged := false
    requests := [] }

/-- The Sweep Unit's counters after reset: each 0 (R108). The point count of a pass, the halt mark and the outcome of
the point in hand belong to an order, and R108 gives them no value without one: DESIGN CHOICE (log 64; unsafe): 0 and
clear. -/
def SweepCount.reset : SweepCount := ⟨0, 0, 0, 0, 0, false, 0, false, false⟩

/-- The Sweep Unit after reset (R108): IDLE, every counter 0, and its line low. What else
`SweepCount.reset` fills in is log 64. -/
def Sweep.reset : Sweep := ⟨.idle, none, SweepCount.reset, ⟨false, false, false⟩⟩

/-- The Memory Port after reset: the Status Writer counts as served last (R183). -/
def Port.reset : Port := ⟨[], .free, .status⟩

/-- No answers waiting. -/
def Mail.empty : Mail := ⟨none, none, none, none, none, none, none⟩

/-- The Status Writer after reset (R174). -/
def StatusWriter.reset : StatusWriter := ⟨[], [], [], 0, .idle⟩

/-- The machine right after a reset whose settings block gives `copy` (R193). The nonvolatile block, shared
memory, the tuner's word (R108) and the queue of commands are no part of what a reset changes (log 35), nor is the
model's own count of choices (log 10). -/
def State.resetWith (block : List Byte) (copy : WorkingCopy) (causes : BitVec 7) (mem : Sparse Byte)
    (tuner : Option (BitVec 16)) (pending : List Instr) (paces : Nat) : State :=
  { pending := pending
    run := .stopped
    runBit := false
    anchor := 0
    intEnable := 0
    causes := causes
    fault := ⟨0, none, none, 0⟩
    latch := ⟨0, 0, 0, 0, none⟩
    windows := Vector.replicate 4 Window.unused
    rewrite := none
    mem := mem
    port := Port.reset
    mail := Mail.empty
    settings := ⟨block, copy, .idle⟩
    board := Board.reset
    engine := Engine.reset
    air := []
    coupling := []
    params := PlanParams.reset
    spares := []
    cache := []
    alt := []
    bins := []
    band := none
    occThreshold := 60
    sweep := Sweep.reset
    tuner := tuner
    lines := #v[Line.reset (copy.lines.get 0), Line.reset (copy.lines.get 1), Line.reset (copy.lines.get 2),
      Line.reset (copy.lines.get 3)]
    watch := ⟨[], WatchParams.reset, []⟩
    swapAnswers := []
    status := StatusWriter.reset
    paces := paces }

/-- The machine right after reset (R193), with the block of log 11, empty memory, a tuner that has taken no word,
an empty queue and no choice made (0, the model's own: log 10). -/
def State.reset : State :=
  State.resetWith Settings.shipped WorkingCopy.factory 0 [] none [] 0

end Sys2Proof.Machine
end

