-- ==== Sys2Proof/Machine/Flags.lean ====
section
/-! DEFINITION. The cause flags of STATUS, their enables, and the interrupt line (R188). -/

namespace Sys2Proof.Machine

/-- The position of a cause within `causes` and `intEnable`; its bit in STATUS is 8 more (R194). -/
def causeIndex : Cause → Nat
  | .orderEnded => 0
  | .statusChanged => 1
  | .alert => 2
  | .memoryFault => 3
  | .halted => 4
  | .anchorBad => 5
  | .settingsDefaulted => 6

/-- The flag of one cause alone. -/
def causeBit (c : Cause) : BitVec 7 := BitVec.twoPow 7 (causeIndex c)

/-- Whether a cause flag is set. -/
def State.hasCause (s : State) (c : Cause) : Bool := s.causes.getLsbD (causeIndex c)

/-- A setting event of a cause (R188): the flag is set, whatever it was. -/
def State.setCause (s : State) (c : Cause) : State := { s with causes := s.causes ||| causeBit c }

/-- A host write of `value` to STATUS (R188): a 1 in a cause's bit clears its flag. -/
def State.clearCauses (s : State) (value : Word) : State :=
  { s with causes := s.causes &&& ~~~ (value.extractLsb' 8 7) }

/-- INT is asserted while some cause flag is set with its enable (R188). -/
def State.intAsserted (s : State) : Bool := (s.causes &&& s.intEnable) != 0

end Sys2Proof.Machine
end

