-- ==== Sys2Proof/Machine/Ops.lean ====
section
/-! DEFINITION. Operations over shared memory, the Memory Port, status marks, the Air Set and the lines. -/

namespace Sys2Proof.Machine

/-! ### Sparse tables -/

/-- The value at a key; a key not listed has the default `d`. -/
def sparseGet {β : Type} (d : β) : Sparse β → Nat → β
  | [], _ => d
  | (k', v) :: m, k => if k = k' then v else sparseGet d m k

/-- Lists `v` at `k`, keeping the keys rising. -/
def sparsePut {β : Type} : Sparse β → Nat → β → Sparse β
  | [], k, v => [(k, v)]
  | (k', v') :: m, k, v =>
    if k < k' then (k, v) :: (k', v') :: m
    else if k = k' then (k, v) :: m
    else (k', v') :: sparsePut m k v

/-- Takes the key `k` off the list. -/
def sparseErase {β : Type} (m : Sparse β) (k : Nat) : Sparse β := m.filter fun e => e.1 != k

/-- Sets the value at a key, keeping the canonical form: a value equal to the default is not listed. -/
def sparseSet {β : Type} [DecidableEq β] (d : β) (m : Sparse β) (k : Nat) (v : β) : Sparse β :=
  if v = d then sparseErase m k else sparsePut m k v

/-- Every key of a table is at least `k`, and they rise strictly. -/
def keysFrom {β : Type} : Nat → Sparse β → Bool
  | _, [] => true
  | k, (k', _) :: m => decide (k ≤ k') && keysFrom (k' + 1) m

/-- The canonical form: keys strictly rising, no entry equal to the default. -/
def sparseWf {β : Type} [DecidableEq β] (d : β) (m : Sparse β) : Bool :=
  keysFrom 0 m && m.all fun e => decide (e.2 ≠ d)

/-! ### Shared memory -/

/-- What a byte of shared memory reads as before anything has written it. DESIGN CHOICE (log 2). -/
def unwritten : Byte := 0

/-- One byte of shared memory. -/
def State.byte (s : State) (a : Nat) : Byte := sparseGet unwritten s.mem (a % Config.addresses)

/-- `n` bytes from address `a` on. -/
def memRead (m : Sparse Byte) (a n : Nat) : List Byte :=
  (List.range n).map fun i => sparseGet unwritten m ((a + i) % Config.addresses)

/-- Stores bytes from address `a` on. -/
def memWrite (m : Sparse Byte) (a : Nat) : List Byte → Sparse Byte
  | [] => m
  | b :: bs => memWrite (sparseSet unwritten m (a % Config.addresses) b) (a + 1) bs

/-- The host's stores, in the order in which it made them (log 1). -/
def hostStores (m : Sparse Byte) (writes : List (Nat × Byte)) : Sparse Byte :=
  writes.foldl (fun m w => sparseSet unwritten m (w.1 % Config.addresses) w.2) m

/-- The canonical form of shared memory. -/
def Memory.wf (m : Sparse Byte) : Bool := sparseWf unwritten m

/-! ### Byte order (00, "Byte order") -/

/-- Byte `i` of a record, as a number. -/
def byteAt (bs : List Byte) (i : Nat) : Nat := (bs.getD i 0).toNat

/-- The 16-bit field at `i`. -/
def half (bs : List Byte) (i : Nat) : Nat := byteAt bs i + 256 * byteAt bs (i + 1)

/-- The 32-bit field at `i`. -/
def word (bs : List Byte) (i : Nat) : Nat := half bs i + 65536 * half bs (i + 2)

/-- Byte `n` of a parameter, from the least significant (R194). -/
def paramByte (p n : Nat) : Nat := p / 256 ^ n % 256

/-- A 16-bit field as stored. -/
def halfBytes (n : Nat) : List Byte := [BitVec.ofNat 8 n, BitVec.ofNat 8 (n / 256)]

/-- One byte as stored. -/
def oneByte (n : Nat) : Byte := BitVec.ofNat 8 n

/-- The sum of bytes taken as unsigned values. -/
def byteSum (bs : List Byte) : Nat := (bs.map BitVec.toNat).sum

/-- The signed value of a byte. -/
def signed8 (n : Nat) : Int := (BitVec.ofNat 8 n).toInt

/-- An address with its low two bits taken as 0 (R183). -/
def align4 (a : Nat) : Nat := a - a % 4

/-! ### Windows and the fault record -/

/-- Whether a window's access suffices for a read or a write (R182). -/
def accessOk : Access → Bool → Bool
  | .readWrite, _ => true
  | .read, write => !write
  | .none, _ => false

/-- Whether one window covers every byte of an area with sufficient access (R181, R182). -/
def Window.covers (w : Window) (write : Bool) (a n : Nat) : Bool :=
  accessOk w.access write && decide (w.base ≤ a) && decide (a + n ≤ w.base + w.size) &&
    decide (a + n ≤ Config.addresses)

/-- The window test of R182. -/
def State.allowed (s : State) (write : Bool) (a n : Nat) : Bool :=
  s.windows.toList.any fun w => w.covers write a n

/-- A memory fault reaches the fault record (R185). -/
def State.recordFault (s : State) (addr : Nat) (kind : FaultKind) (req : Requester) : State :=
  if s.hasCause .memoryFault then
    { s with fault := { s.fault with count := min 255 (s.fault.count + 1) } }
  else
    { s with fault := ⟨BitVec.ofNat 32 addr, some kind, some req, 1⟩ }.setCause .memoryFault

/-! ### The Memory Port -/

/-- The source that carries an owner's transfers (R183). -/
def Owner.source : Owner → Source
  | .anchor => .board
  | .board => .board
  | .settings => .board
  | .engine => .engine
  | .cache => .cache
  | .sweep => .sweep
  | .status => .status

/-- The requester under which an owner's faults are recorded (R185). -/
def Owner.requester : Owner → Requester
  | .anchor => .board
  | .board => .board
  | .settings => .board
  | .engine => .engine
  | .cache => .cache
  | .sweep => .sweep
  | .status => .status

/-- The answer waiting for an owner. -/
def Mail.get (m : Mail) : Owner → Option Answer
  | .anchor => m.anchor
  | .board => m.board
  | .settings => m.settings
  | .engine => m.engine
  | .cache => m.cache
  | .sweep => m.sweep
  | .status => m.status

/-- Puts or takes away the answer of an owner. -/
def Mail.put (m : Mail) (o : Owner) (a : Option Answer) : Mail :=
  match o with
  | .anchor => { m with anchor := a }
  | .board => { m with board := a }
  | .settings => { m with settings := a }
  | .engine => { m with engine := a }
  | .cache => { m with cache := a }
  | .sweep => { m with sweep := a }
  | .status => { m with status := a }

/-- Gives an owner the end of its transfer, or takes it away with `none`. -/
def State.setMail (s : State) (o : Owner) (a : Option Answer) : State :=
  { s with mail := s.mail.put o a }

/-- An owner presents a transfer. Every transfer but the anchor read is tested against the windows; one that
fails is not issued and ends at once with fault WINDOW (R182, R189). The test is made here, when the transfer is
presented: R182 has it made before the first beat and does not say when (log 50). -/
def State.present (s : State) (o : Owner) (write : Bool) (addr len : Nat) (data : List Byte) : State :=
  if o ≠ .anchor ∧ s.allowed write addr len = false then
    (s.recordFault addr .window o.requester).setMail o (some .fault)
  else
    { s with port := { s.port with transfers := s.port.transfers ++ [⟨o, write, addr, len, data⟩] } }

/-- Presents a read of `len` bytes. -/
def State.presentRead (s : State) (o : Owner) (addr len : Nat) : State := s.present o false addr len []

/-- Presents a write of the given bytes. -/
def State.presentWrite (s : State) (o : Owner) (addr : Nat) (data : List Byte) : State :=
  s.present o true addr data.length data

/-- The bytes of one beat (R183). -/
def State.beatBytes (s : State) : Nat := if s.settings.copy.wide then 4 else 2

/-- The bytes of the burst that begins a transfer at `addr` with `left` bytes to go: up to 16 aligned beats. -/
def burstLength (beat addr left : Nat) : Nat := min left (Config.burstBeats * beat - addr % beat)

/-- The bytes moved by the first `k` beats of a burst of `len` bytes. -/
def beatsMoved (beat addr len k : Nat) : Nat := if k = 0 then 0 else min len (k * beat - addr % beat)

/-- The beats of a burst of `len` bytes. -/
def burstBeatCount (beat addr len : Nat) : Nat := (addr % beat + len + beat - 1) / beat

/-- The address of beat `k` of a burst (log 15). -/
def beatAddress (beat addr k : Nat) : Nat := if k = 0 then addr else addr - addr % beat + k * beat

/-- The sources in the order in which they are served after `last` (R183). -/
def rotation : Source → List Source
  | .board => [.engine, .cache, .sweep, .status, .board]
  | .engine => [.cache, .sweep, .status, .board, .engine]
  | .cache => [.sweep, .status, .board, .engine, .cache]
  | .sweep => [.status, .board, .engine, .cache, .sweep]
  | .status => [.board, .engine, .cache, .sweep, .status]

/-- The burst that a source presents: the first of its transfers (log 29). -/
def Port.burstOf (p : Port) (src : Source) : Option Transfer :=
  p.transfers.find? fun t => decide (t.owner.source = src)

/-- A free port serves the sources that present bursts in rotation: it raises the bus request (R183). -/
def State.serveBus (s : State) : State :=
  match s.port.phase with
  | .free =>
    match (rotation s.port.lastServed).find? fun src => (s.port.burstOf src).isSome with
    | some src => { s with port := { s.port with phase := .requesting src } }
    | none => s
  | _ => s

/-- The source of the burst in progress, from the bus request on. -/
def BusPhase.source : BusPhase → Option Source
  | .free => none
  | .requesting src => some src
  | .granted src => some src

/-- The transfer whose burst is in progress. -/
def State.inProgress (s : State) : Option Transfer := s.port.phase.source.bind s.port.burstOf

/-- The port after a burst: the bus is released, and the source counts as the one served last. One whose burst ends in a
timeout before its grant counts so too: R183 does not say (log 62). -/
def Port.release (p : Port) : Port :=
  { p with phase := .free, lastServed := (p.phase.source).getD p.lastServed }

/-- Takes an owner's transfer off the port. -/
def Port.drop (p : Port) (o : Owner) : Port :=
  { p with transfers := p.transfers.filter fun t => decide (t.owner ≠ o) }

/-- Replaces an owner's transfer. -/
def Port.advance (p : Port) (t' : Transfer) : Port :=
  { p with transfers := p.transfers.map fun t => if t.owner = t'.owner then t' else t }

/-- Shared memory after the first `n` bytes of a transfer's burst have moved. -/
def Transfer.store (t : Transfer) (m : Sparse Byte) (n : Nat) : Sparse Byte :=
  if t.write then memWrite m t.addr (t.data.take n) else m

/-- A transfer after a burst of `n` bytes. -/
def Transfer.advanced (t : Transfer) (m : Sparse Byte) (n : Nat) : Transfer :=
  { t with
    addr := t.addr + n
    left := t.left - n
    data := if t.write then t.data.drop n else t.data ++ memRead m t.addr n }

/-- The last beat of the burst that `t` has begun, counted from 0. -/
def State.lastBeat (s : State) (t : Transfer) : Nat :=
  burstBeatCount s.beatBytes t.addr (burstLength s.beatBytes t.addr t.left) - 1

/-- The last beat of the burst of `t` completes (R183): a transfer with bytes left presents its next burst,
and one without ends. -/
def State.endBurst (s : State) (t : Transfer) : State :=
  let n := burstLength s.beatBytes t.addr t.left
  let t' := t.advanced s.mem n
  let s' := { s with mem := t.store s.mem n, port := s.port.release }
  if t'.left = 0 then
    { s' with port := s'.port.drop t.owner }.setMail t.owner
      (some (.ok (if t.write then [] else t'.data)))
  else
    { s' with port := s'.port.advance t' }

/-- The burst of `t` ends in a fault after `k` beats (R184): those beats stay written, the whole transfer
ends, the bus is released and the fault is recorded. -/
def State.faultBurst (s : State) (t : Transfer) (k addr : Nat) (kind : FaultKind) : State :=
  let n := beatsMoved s.beatBytes t.addr (burstLength s.beatBytes t.addr t.left) k
  let s' := { s with mem := t.store s.mem n, port := s.port.release.drop t.owner }
  (s'.recordFault addr kind t.owner.requester).setMail t.owner (some .fault)

/-! ### Status marks -/

/-- Whether a carrier ID has a status record (R174). -/
def idHasRecord (id : Nat) : Bool := decide (id / 256 < Config.stages) && decide (id % 256 < Config.numbers)

/-- Whether a record exists (R174). -/
def RecId.exists : RecId → Bool
  | .stage s => decide (s < Config.stages)
  | .carrier id => idHasRecord id
  | .line _ => true
  | .spare i => decide (i < Config.spareRecords)

/-- The key of a record among the sequences. -/
def RecId.index : RecId → Nat
  | .stage s => s
  | .line k => 12 + k.val
  | .spare i => 16 + i
  | .carrier id => 80 + id / 256 * 96 + id % 256

/-- A mark reaches the Status Writer (R174, R175). -/
def State.mark (s : State) (r : RecId) : State :=
  if r.exists ∧ r ∉ s.status.marks then
    { s with status := { s.status with marks := s.status.marks ++ [r] } }
  else s

/-- Marks reach the Status Writer one after another. -/
def State.markAll (s : State) (rs : List RecId) : State := rs.foldl State.mark s

/-- The kept fields of a carrier (R174). -/
def State.kept (s : State) (id : Nat) : Kept := sparseGet Kept.reset s.status.kept id

/-- Sets the kept fields of a carrier and marks its record (R175). A carrier without a record has none. -/
def State.keep (s : State) (id : Nat) (k : Kept) : State :=
  if idHasRecord id then
    { s with status := { s.status with kept := sparseSet Kept.reset s.status.kept id k } }.mark (.carrier id)
  else s

/-! ### The Air Set -/

/-- Air Set order: ascending code, then ascending carrier ID (R26). -/
def airBefore (a b : AirEntry) : Bool :=
  decide (a.code < b.code) || (decide (a.code = b.code) && decide (a.id < b.id))

/-- Puts an entry at the position its code and ID give it (R26). -/
def airInsert (e : AirEntry) : List AirEntry → List AirEntry
  | [] => [e]
  | x :: xs => if airBefore e x then e :: x :: xs else x :: airInsert e xs

/-- Removes a carrier's entry. -/
def airRemove (id : Nat) (l : List AirEntry) : List AirEntry := l.filter fun e => e.id != id

/-- The entry of a carrier. -/
def State.airEntry (s : State) (id : Nat) : Option AirEntry := s.air.find? fun e => e.id == id

/-- The ON_AIR entry of a carrier. -/
def State.onAirEntry (s : State) (id : Nat) : Option AirEntry :=
  s.air.find? fun e => e.id == id && decide (e.air = .onAir)

/-- Replaces a carrier's entry in its place, for changes that do not move it (R26). -/
def State.changeEntry (s : State) (id : Nat) (f : AirEntry → AirEntry) : State :=
  { s with air := s.air.map fun e => if e.id = id then f e else e }

/-! ### The lines -/

/-- A line's state. -/
def State.line (s : State) (k : Fin 4) : Line := s.lines.get k

/-- Replaces a line's state. -/
def State.setLine (s : State) (k : Fin 4) (l : Line) : State := { s with lines := s.lines.set k.val l k.isLt }

/-- Changes a line's state. -/
def State.onLine (s : State) (k : Fin 4) (f : Line → Line) : State := s.setLine k (f (s.line k))

/-- A count that saturates at 65535. -/
def raise16 (n : Nat) : Nat := min 65535 (n + 1)

end Sys2Proof.Machine
end

