-- ==== Sys2Proof/Machine/Operands.lean ====
section
/-! DEFINITION. The operand forms: records of shared memory, settings, characters and frames as the part
reads and writes them (R194 and the readings of the chapters). -/

namespace Sys2Proof.Machine

/-! ### Codes (R194) -/

/-- The order kind that a kind byte names. -/
def orderKind : Nat → Option OrderKind
  | 1 => some .setParams
  | 2 => some .loadCoupling
  | 3 => some .sparesLoad
  | 4 => some .sparesRelease
  | 5 => some .flushCache
  | 6 => some .airJoin
  | 7 => some .airLeave
  | 8 => some .changeover
  | 9 => some .retune
  | 10 => some .check
  | 11 => some .sweep
  | 12 => some .storeSettings
  | 13 => some .markBand
  | 14 => some .watchSetup
  | 15 => some .watchRelease
  | 16 => some .lineSetup
  | 17 => some .rackRoster
  | 18 => some .rackTune
  | _ => none

def resultCode : ResultCode → Nat
  | .ok => 0
  | .partialDone => 1
  | .conflicts => 2
  | .truncated => 3
  | .badOrder => 4
  | .stopped => 5
  | .halted => 6
  | .memory => 7
  | .permission => 8
  | .notOnAir => 9
  | .notOffAir => 10
  | .noCandidate => 11
  | .duplicate => 12
  | .tunerFault => 13
  | .nothingDone => 14
  | .refusedConflict => 15
  | .searchLimit => 16

/-- The result word of an item outcome record: its group in bits 15..14, then the final code or the outcome
code. -/
def outcomeWord (o : ItemOutcome) (code : Nat) : Nat :=
  match o with
  | .placed => code % 16384
  | .kept => 16384 + code % 16384
  | .left => 32768 + code % 16384
  | .refusedConflict => 49152 + 3
  | .noFrequency => 49152 + 4
  | .outOfRange => 49152 + 5
  | .unknownCarrier => 49152 + 6
  | .recordDamaged => 49152 + 7
  | .alreadyOnAir => 49152 + 8
  | .notOnAir => 49152 + 9
  | .searchLimit => 49152 + 10
  | .airSetFull => 49152 + 11
  | .withdrawn => 49152 + 12
  | .permission => 49152 + 13

def faultKindCode : Option FaultKind → Nat
  | none => 0
  | some .window => 1
  | some .timeout => 2
  | some .busError => 3

def requesterCode : Option Requester → Nat
  | none => 0
  | some .board => 1
  | some .engine => 2
  | some .cache => 3
  | some .sweep => 4
  | some .status => 5

def watchStateCode : Option WatchState → Nat
  | none => 0
  | some .quiet => 1
  | some .suspect => 2
  | some .confirmed => 3
  | some .swapWait => 4
  | some .retuning => 5
  | some .settling => 6
  | some .alerted => 7
  | some .held => 8
  | some .blind => 9

def rackConfirmCode : RackConfirm → Nat
  | .unconfirmed => 0
  | .applied => 1
  | .refused => 2
  | .noReply => 3
  | .outOfRange => 4

def rackStateCode : RackState → Nat
  | .unknown => 0
  | .answering => 1
  | .silent => 2
  | .lost => 3

def spareStateCode : SpareState → Nat
  | .available => 0
  | .used => 1
  | .barred => 2

/-! ### Order slots -/

/-- The body of a slot from its 62 bytes, slot bytes 2 to 63 (log 16). -/
def orderBody (bs : List Byte) : OrderBody :=
  { stop := half bs 0
    kind := byteAt bs 2
    priority := byteAt bs 3
    listA := align4 (word bs 6)
    listACount := half bs 10
    listBCount := half bs 12
    listB := align4 (word bs 14)
    result := align4 (word bs 18)
    capacity := word bs 22
    p0 := word bs 26
    p1 := word bs 30
    p2 := word bs 34
    p3 := word bs 38 }

/-- The low half of a parameter. -/
def lowHalf (p : Nat) : Nat := p % 65536

/-- The high half of a parameter. -/
def highHalf (p : Nat) : Nat := p / 65536 % 65536

/-- The 16-bit items of a list. -/
def halfList (bs : List Byte) (n : Nat) : List Nat := (List.range n).map fun i => half bs (2 * i)

/-! ### Carrier records (R47 to R51) -/

/-- A record passes its check (R49). -/
def recordPasses (bs : List Byte) : Bool := byteSum (bs.take 24) % 256 == 0

/-- A tuning step as read (R47). -/
def readStep (n : Nat) : Nat := if n = 0 then 1 else min n 64

/-- The rack named by a record's fields, or the marking "no rack" (R47). -/
def readRack (line addr slot : Nat) : Option Rack :=
  if h : line < 4 then
    if 1 ≤ addr ∧ addr ≤ 30 then some ⟨⟨line, h⟩, addr, slot⟩ else none
  else none

/-- The contents of a carrier record (R47, R50). -/
def carrierInfo (bs : List Byte) : CarrierInfo :=
  let b0 := bs.getD 0 0
  { kind := if b0.getLsbD 0 then .iem else .mic
    powerClass := (b0.extractLsb' 1 2).toNat
    locked := b0.getLsbD 3
    autoSwap := b0.getLsbD 4
    watched := b0.getLsbD 5
    tuneLow := half bs 4
    tuneHigh := half bs 6
    tuneStep := readStep (byteAt bs 8)
    preferred := half bs 10
    rack := readRack (byteAt bs 2) (byteAt bs 3) (byteAt bs 1 % 32)
    assigned := half bs 24
    source := byteAt bs 26 }

/-- Whether a code lies in a tuning range (R48). -/
def inRange (low high c : Nat) : Bool := decide (low ≤ c) && decide (c ≤ high) && decide (c < Config.codes)

/-- Whether a tuning range holds no code of the grid (R48): the marking "empty range". -/
def CarrierInfo.rangeEmpty (i : CarrierInfo) : Bool :=
  decide (i.tuneHigh < i.tuneLow) || decide (Config.codes ≤ i.tuneLow)

/-- The power level of a power class (R3). -/
def powerLevel (c : Nat) : Nat :=
  match c with
  | 0 => 0
  | 1 => 4
  | 2 => 7
  | _ => 10

/-- The part area as written back (R50, R61): assigned_code, assign_source ENGINE or SWAP, the rest 0. -/
def partArea (code : Nat) (swap : Bool) : List Byte :=
  halfBytes code ++ [if swap then 3 else 2] ++ List.replicate 5 0

/-! ### Anchor and settings -/

/-- The anchor record as judged and latched (R181, R189). -/
structure Anchor where
  version : Nat
  stages : Nat
  slots : Nat
  boardAddr : Nat
  dirAddr : Nat
  statusAddr : Nat
  windows : Vector Window 4
  deriving DecidableEq, Repr

/-- A window descriptor as read (R181). -/
def readWindow (base size access : Nat) : Window :=
  { base := base - base % 256
    size := min (size - size % 256) 16777216
    access := match access with
      | 1 => .read
      | 2 => .readWrite
      | _ => .none }

/-- The window descriptor at offset `o`. -/
def windowAt (bs : List Byte) (o : Nat) : Window := readWindow (word bs o) (word bs (o + 4)) (byteAt bs (o + 8))

/-- The 64 bytes of the anchor record (R194). -/
def readAnchor (bs : List Byte) : Anchor :=
  { version := half bs 0
    stages := byteAt bs 2
    slots := byteAt bs 3
    boardAddr := align4 (word bs 4)
    dirAddr := align4 (word bs 8)
    statusAddr := align4 (word bs 12)
    windows := #v[windowAt bs 16, windowAt bs 28, windowAt bs 40, windowAt bs 52] }

/-- Whether an anchor is bad (R189). -/
def Anchor.bad (a : Anchor) : Bool :=
  decide (a.version ≠ Config.layoutVersion) || decide (a.stages = 0) || decide (a.slots = 0)

/-- The three values of a line as LINE_SETUP reads them (R122). -/
def readLineValues (divisor timeout interval : Nat) : LineValues :=
  ⟨min divisor 4095, max timeout 2, max interval 1⟩

/-- A settings block passes its check (R191). -/
def settingsPass (bs : List Byte) : Bool := byteSum bs % 256 == Config.settingsSum

/-- The working copy that a good block gives (R191). -/
def readSettings (bs : List Byte) : WorkingCopy :=
  let line := fun o => readLineValues (half bs o) (byteAt bs (o + 2)) (byteAt bs (o + 3))
  { wide := byteAt bs 0 != 1
    monitorPeriod := max (byteAt bs 1) 1
    surveyInterval := max (byteAt bs 2) 1
    lines := #v[line 4, line 8, line 12, line 16] }

/-! ### Characters (R123, R124) -/

/-- A received character as it goes to the frame assembler. -/
structure RxChar where
  byte : Byte
  mark : Bool
  noisy : Bool
  framed : Bool
  deriving DecidableEq, Repr

/-- The majority of the three samples of bit `i`. -/
def sampleMajority (samples : BitVec 33) (i : Nat) : Bool :=
  let a := samples.getLsbD (3 * i)
  let b := samples.getLsbD (3 * i + 1)
  let c := samples.getLsbD (3 * i + 2)
  (a && b) || (a && c) || (b && c)

/-- The three samples of bit `i` do not all agree. -/
def samplesDisagree (samples : BitVec 33) (i : Nat) : Bool :=
  let a := samples.getLsbD (3 * i)
  !(a == samples.getLsbD (3 * i + 1) && a == samples.getLsbD (3 * i + 2))

/-- The character that the samples give, or none for a glitch (R124). Bit 0 is the start bit, bits 1 to 8 the
data, least significant first, bit 9 the mark bit and bit 10 the stop bit (R123). -/
def readChar (samples : BitVec 33) : Option RxChar :=
  if sampleMajority samples 0 then none
  else some
    { byte := BitVec.ofNat 8
        ((List.range 8).foldl (fun n i => n + if sampleMajority samples (i + 1) then 2 ^ i else 0) 0)
      mark := sampleMajority samples 9
      noisy := (List.range 11).any fun i => samplesDisagree samples i
      framed := !sampleMajority samples 10 }

/-- The eleven bits of a character as sent, first bit first (R123). -/
def charBits (b : Byte) (mark : Bool) : List Bool :=
  [false] ++ ((List.range 8).map fun i => b.getLsbD i) ++ [mark, true]

/-! ### Frames (R125, R126) -/

/-- A frame of the given address, kind and payload, with its length and check bytes. -/
def makeFrame (addr kind : Nat) (payload : List Byte) : List Byte :=
  let body := [oneByte addr, oneByte (payload.length + 1), oneByte kind] ++ payload
  body ++ [oneByte (256 - byteSum body % 256)]

/-- A POLL of the slots from `first` on. -/
def pollFrame (addr first : Nat) : List Byte := makeFrame addr 1 [oneByte first]

/-- A TUNE of a slot to a code. -/
def tuneFrame (addr slot code : Nat) : List Byte := makeFrame addr 2 (oneByte slot :: halfBytes code)

/-- The bits of a frame on TXD: the first character alone carries mark bit 1 (R123, R125). -/
def frameBits : List Byte → List Bool
  | [] => []
  | a :: rest => charBits a true ++ rest.flatMap fun b => charBits b false

/-- The entries of a REPORT frame, in frame order (R126). -/
def reportEntries (frame : List Byte) : List Report :=
  (List.range ((byteAt frame 1 - 1) / 4)).map fun i =>
    { addr := byteAt frame 0 - 0x80
      slot := byteAt frame (3 + 4 * i)
      rf := min (byteAt frame (4 + 4 * i)) 200
      pilot := (frame.getD (5 + 4 * i) 0).getLsbD 0
      errors := byteAt frame (6 + 4 * i) }

/-- The outcome named by a TUNE_ACK (R126, R194). -/
def ackOutcome : Nat → Option TuneOutcome
  | 1 => some .applied
  | 2 => some .refused
  | 3 => some .outOfRange
  | _ => none

end Sys2Proof.Machine
end

