-- ==== Sys2Proof/Machine/Occupancy.lean ====
section
/-! DEFINITION. The Occupancy Map (chapter 5): bins, measurements, the watch's mark, MARK_BAND, and the engine's
reads, one bin at a time. -/

namespace Sys2Proof.Machine

/-- The state of a bin, derived from its counter and flag (R97). -/
def Bin.state (b : Bin) : BinState :=
  if b.excluded then .excluded else if 4 ≤ b.counter then .marked else .clear

/-- The bin of a code. -/
def State.bin (s : State) (b : Nat) : Bin := sparseGet Bin.reset s.bins b

/-- Writes the bin of a code. -/
def State.setBin (s : State) (b : Nat) (v : Bin) : State := { s with bins := sparseSet Bin.reset s.bins b v }

/-- Whether a bin is MARKED or EXCLUDED as the engine reads it (R106). -/
def State.binTaken (s : State) (b : Nat) : Bool := decide ((s.bin b).state ≠ .clear)

/-- The bins of x − g..x + g, clipped to the grid (R2). -/
def guardBins (g x : Nat) : List Nat :=
  (List.range (min (x + g) (Config.codes - 1) + 1 - (x - g))).map fun i => x - g + i

/-- Masking (R100): b is within 1 of the code of some Air Set entry. -/
def State.masked (s : State) (b : Nat) : Bool :=
  s.air.any fun e => decide (b ≤ e.code + 1) && decide (e.code ≤ b + 1)

/-- A counter after a hit or a miss (R99). -/
def hitCounter (n : Nat) : Nat := min 7 (n + 2)
def missCounter (n : Nat) : Nat := n - 1

/-- A sweep measurement (b, L) arrives at the map (R99). -/
def State.measure (s : State) (b level : Nat) : State :=
  if level = 255 then s
  else if s.masked b then s
  else
    let v := s.bin b
    s.setBin b { v with counter := if s.occThreshold ≤ level then hitCounter v.counter else missCounter v.counter }

/-- The Watch Unit's mark of a confirmed foreign carrier's bin (R101). -/
def State.watchMark (s : State) (b : Nat) : State := s.setBin b { s.bin b with counter := 7 }

/-- The effect of a MARK_BAND operation on one bin (R102): 0 SET_EXCLUDE, 1 CLEAR_EXCLUDE, 2 CLEAR_COUNTS. -/
def bandOp (op : Nat) (v : Bin) : Bin :=
  match op with
  | 0 => { v with excluded := true }
  | 1 => { v with excluded := false }
  | _ => { v with counter := 0 }

/-- The band of a MARK_BAND order (R102): its first code and its length, 0 for a band with no bin. -/
def bandOf (first last : Nat) : Nat × Nat :=
  let lo := min first last
  let hi := max first last
  if Config.codes ≤ lo then (lo, 0) else (lo, min hi (Config.codes - 1) + 1 - lo)

/-- The map takes a MARK_BAND order (R102). -/
def State.beginBand (s : State) (slot : Nat) (body : OrderBody) : State :=
  let band := bandOf (lowHalf body.p0) (lowHalf body.p1)
  { s with band := some ⟨slot, body.p2, band.1, band.2, band.2, 0⟩ }

/-- The map's order has bins to reach (R104). -/
def State.bandRuns (s : State) : Bool := s.band.any fun b => decide (b.left ≠ 0)

/-- The order after its operation has reached its next bin, whose value was `v` (R103). -/
def Band.reached (b : Band) (v : Bin) : Band :=
  { b with
    next := b.next + 1
    left := b.left - 1
    changed := if v.state = (bandOp b.op v).state then b.changed else b.changed + 1 }

/-- The operation of the map's order reaches its next bin; the bins beyond keep their values (R102 to R104). -/
def State.bandStep (s : State) : State :=
  match s.band with
  | none => s
  | some b =>
    if b.left = 0 then s
    else
      { s with
        bins := sparseSet Bin.reset s.bins b.next (bandOp b.op (s.bin b.next))
        band := some (b.reached (s.bin b.next)) }

/-- The end of a MARK_BAND whose last bin has been applied (R103). -/
def Band.completion (b : Band) : Completion :=
  if b.length = 0 then ⟨b.slot, false, .nothingDone, 0, 0⟩ else ⟨b.slot, false, .ok, b.length, b.changed⟩

/-! ### The engine's reads (R106) -/

/-- The engine has bins of a range still to read. -/
def State.readsBins (s : State) : Bool := s.engine.reading.any fun r => decide (r.left ≠ [])

/-- The engine reads the next bin of its range, as the bin stands now (R12, R19, R106). -/
def State.readBin (s : State) : State :=
  match s.engine.reading with
  | some ⟨b :: rest, taken⟩ =>
    { s with engine := { s.engine with reading := some ⟨rest, taken || s.binTaken b⟩ } }
  | _ => s

/-- The engine begins to read the bins around code `x`. -/
def State.beginRead (s : State) (x : Nat) : State :=
  { s with engine := { s.engine with reading := some ⟨guardBins s.params.gocc x, false⟩ } }

/-- What is to be done with the bins around `x`: their reading is begun, and when it has ended `f` goes on with
whether some bin was MARKED or EXCLUDED. -/
def State.withBins (s : State) (x : Nat) (f : State → Bool → State) : State :=
  match s.engine.reading with
  | none => s.beginRead x
  | some r => f { s with engine := { s.engine with reading := none } } r.taken

end Sys2Proof.Machine
end

