-- ==== Sys2Proof/Machine/Arithmetic.lean ====
section
/-! DEFINITION. The compatibility arithmetic (chapter 1): levels, the five conflict kinds, the candidate
compatibility test, and the candidate walk of R81. -/

namespace Sys2Proof.Machine

/-- A carrier as the arithmetic sees it, as victim or constituent (R6). A spare has no carrier ID. -/
structure Tx where
  id : Nat
  code : Nat
  stage : Nat
  power : Nat
  deriving DecidableEq, Repr

/-- Conflict kinds, in the order of R95 and of their codes (R194). -/
inductive ConflictKind where
  | spacing | t3 | t3x | t5 | occupied
  deriving DecidableEq, Repr

/-- A conflict as it is reported (R15). -/
structure Conflict where
  kind : ConflictKind
  victim : Nat
  stage : Nat
  c1 : Nat
  c2 : Nat
  c3 : Nat
  product : Int
  weight : Int
  deriving DecidableEq, Repr

/-- An Air Set entry as the arithmetic sees it. -/
def AirEntry.tx (e : AirEntry) : Tx := ⟨e.id, e.code, e.stage, e.power⟩

/-- The isolation I(s,t): row s, column t of the Coupling Table (R4, R39). -/
def State.isolation (s : State) (row col : Nat) : Nat := sparseGet 0 s.coupling (row * 12 + col)

/-- The signal level S(c,t) (R5). -/
def State.level (s : State) (c : Tx) (t : Nat) : Int := (c.power : Int) - (s.isolation c.stage t : Int)

/-- y is within g of x (R2). -/
def within (g : Nat) (y x : Int) : Bool := decide ((y - x).natAbs ≤ g)

/-- SPACING of victim v against u (R8). -/
def State.spacingHit (s : State) (v u : Tx) : Bool :=
  within s.params.gcc u.code v.code && decide (s.isolation u.stage v.stage < s.params.reuse)

def t3Product (a b : Tx) : Int := 2 * (a.code : Int) - b.code
def t3xProduct (a b c : Tx) : Int := (a.code : Int) + b.code - c.code
def t5Product (a b : Tx) : Int := 3 * (a.code : Int) - 2 * b.code

def State.t3Weight (s : State) (v a b : Tx) : Int := 2 * s.level a v.stage + s.level b v.stage
def State.t3xWeight (s : State) (v a b c : Tx) : Int :=
  s.level a v.stage + s.level b v.stage + s.level c v.stage + 6
def State.t5Weight (s : State) (v a b : Tx) : Int := 3 * s.level a v.stage + 2 * s.level b v.stage

/-- T3 of victim v and the ordered pair (a,b) (R9). -/
def State.t3Hit (s : State) (v a b : Tx) : Bool :=
  within s.params.g3 (t3Product a b) v.code && decide (s.params.t3 + v.power ≤ s.t3Weight v a b)

/-- T3X of victim v, the pair (a,b) and c subtracted (R10). -/
def State.t3xHit (s : State) (v a b c : Tx) : Bool :=
  s.params.threeTone && within s.params.g3 (t3xProduct a b c) v.code &&
    decide (s.params.t3 + v.power ≤ s.t3xWeight v a b c)

/-- T5 of victim v and the ordered pair (a,b) (R11). -/
def State.t5Hit (s : State) (v a b : Tx) : Bool :=
  s.params.fifthOrder && within s.params.g5 (t5Product a b) v.code &&
    decide (s.params.t5 + v.power ≤ s.t5Weight v a b)

/-- OCCUPIED at a code, every bin of its range taken as it stands (R12). The engine reads the range bin by bin
(`State.withBins`), and finds this if no write falls between its reads. -/
def State.occupied (s : State) (code : Nat) : Bool :=
  (guardBins s.params.gocc code).any s.binTaken

/-- The ordered pairs of distinct members of a list, by the first, then the second. -/
def orderedPairs (l : List Tx) : List (Tx × Tx) :=
  l.flatMap fun a => (l.filter fun b => b.id != a.id).map fun b => (a, b)

/-- The unordered pairs of a list, earlier member first. -/
def unorderedPairs : List Tx → List (Tx × Tx)
  | [] => []
  | a :: l => (l.map fun b => (a, b)) ++ unorderedPairs l

/-- The third constituents for a pair. -/
def thirds (l : List Tx) (a b : Tx) : List Tx := l.filter fun c => c.id != a.id && c.id != b.id

/-- The conflicts of one victim in the order of R95, constituents drawn from `l` in Air Set order;
`name` is the victim ID reported (R15), `taken` what the reading of its bins has found (R12). -/
def State.conflictsOf (s : State) (name : Nat) (v : Tx) (l : List Tx) (taken : Bool) : List Conflict :=
  let none' := Config.noId
  let spacing := (l.filter fun u => s.spacingHit v u).map fun u =>
    (⟨.spacing, name, v.stage, u.id, none', none', u.code, 0⟩ : Conflict)
  let t3 := ((orderedPairs l).filter fun p => s.t3Hit v p.1 p.2).map fun p =>
    (⟨.t3, name, v.stage, p.1.id, p.2.id, none', t3Product p.1 p.2, s.t3Weight v p.1 p.2⟩ : Conflict)
  let t3x := (unorderedPairs l).flatMap fun p =>
    ((thirds l p.1 p.2).filter fun c => s.t3xHit v p.1 p.2 c).map fun c =>
      (⟨.t3x, name, v.stage, p.1.id, p.2.id, c.id, t3xProduct p.1 p.2 c, s.t3xWeight v p.1 p.2 c⟩ : Conflict)
  let t5 := ((orderedPairs l).filter fun p => s.t5Hit v p.1 p.2).map fun p =>
    (⟨.t5, name, v.stage, p.1.id, p.2.id, none', t5Product p.1 p.2, s.t5Weight v p.1 p.2⟩ : Conflict)
  let occ := if taken then
    [(⟨.occupied, name, v.stage, none', none', none', v.code, 0⟩ : Conflict)] else []
  spacing ++ t3 ++ t3x ++ t5 ++ occ

/-- The conflicts of an Air Set entry as victim (R6): constituents are all the other entries. -/
def State.entryConflicts (s : State) (e : AirEntry) (taken : Bool) : List Conflict :=
  s.conflictsOf e.id e.tx ((airRemove e.id s.air).map AirEntry.tx) taken

/-- The lowest stage of a spare's mask, if it names one (R6). -/
def lowestStage (mask : BitVec 12) : Option Nat := (List.range Config.stages).find? fun k => mask.getLsbD k

/-- The conflicts of a spare as would-be victim at stage `t` (R6). -/
def State.spareConflicts (s : State) (sp : Spare) (t : Nat) (taken : Bool) : List Conflict :=
  s.conflictsOf Config.noId ⟨Config.noId, sp.code, t, 0⟩ (s.air.map AirEntry.tx) taken

def conflictKindCode : ConflictKind → Nat
  | .spacing => 0
  | .t3 => 1
  | .t3x => 2
  | .t5 => 3
  | .occupied => 4

/-- A weight clamped to −128..63 for its field (R15, R16). -/
def clampWeight (w : Int) : Int := max (-128) (min w 63)

/-- A conflict record (R15, R16, R194). -/
def Conflict.bytes (c : Conflict) : List Byte :=
  [oneByte (conflictKindCode c.kind), oneByte c.stage] ++ halfBytes c.victim ++ halfBytes c.c1 ++ halfBytes c.c2 ++
    halfBytes c.c3 ++ halfBytes (BitVec.ofInt 16 c.product).toNat ++ [BitVec.ofInt 8 (clampWeight c.weight), 0, 0, 0]

/-! ### The candidate compatibility test (R17 to R22) -/

/-- Test 1 (R18). -/
def test1 (low high step x : Nat) : Bool := inRange low high x && (x - low) % step == 0

/-- Test 3 (R20): `exempt` is the code of the spare being taken in a live swap. -/
def State.test3 (s : State) (x : Nat) (exempt : Option Nat) : Bool :=
  s.spares.all fun sp => decide (sp.state ≠ .available) || decide (exempt = some sp.code) ||
    !within s.params.gcc x sp.code

/-- Test 4 (R21). -/
def State.test4 (s : State) (j : Tx) (e : List Tx) : Bool :=
  e.all fun u => !within s.params.gcc u.code j.code ||
    (decide (s.params.reuse ≤ s.isolation u.stage j.stage) && decide (s.params.reuse ≤ s.isolation j.stage u.stage))

/-- Some product in force with constituents from `l` hits victim v. -/
def State.productHits (s : State) (v : Tx) (l : List Tx) : Bool :=
  ((orderedPairs l).any fun p => s.t3Hit v p.1 p.2 || s.t5Hit v p.1 p.2) ||
    ((unorderedPairs l).any fun p => (thirds l p.1 p.2).any fun c => s.t3xHit v p.1 p.2 c)

/-- Test 5 (R22). -/
def State.test5 (s : State) (j : Tx) (e : List Tx) : Bool := !s.productHits j e

/-- Some product with j among its constituents, the others from `l`, hits victim v (R22). -/
def State.productHitsWith (s : State) (v j : Tx) (l : List Tx) : Bool :=
  (l.any fun b => s.t3Hit v j b || s.t3Hit v b j || s.t5Hit v j b || s.t5Hit v b j) ||
    ((orderedPairs l).any fun p => s.t3xHit v j p.1 p.2) ||
    ((unorderedPairs l).any fun p => s.t3xHit v p.1 p.2 j)

/-- Test 6 (R22). -/
def State.test6 (s : State) (j : Tx) (e : List Tx) : Bool :=
  e.all fun v => !s.productHitsWith v j (e.filter fun u => u.id != v.id)

/-- The first of tests 2 to 6 that fails for j at its code against E, if any (R17). Test 2 (R19) fails when the
reading of the bins has found one `taken`. -/
def State.firstFailing (s : State) (j : Tx) (e : List Tx) (exempt : Option Nat) (taken : Bool) : Option Nat :=
  if taken then some 2
  else if s.test3 j.code exempt = false then some 3
  else if s.test4 j e = false then some 4
  else if s.test5 j e = false then some 5
  else if s.test6 j e = false then some 6
  else none

/-- The set E for a carrier: the Air Set without its own entry (R17). -/
def State.others (s : State) (id : Nat) : List Tx := (airRemove id s.air).map AirEntry.tx

/-! ### The candidate walk (R81, R93) -/

/-- Point number k of a walk: p, p + s, p − s, p + 2s, p − 2s, … -/
def Walk.point (w : Walk) (k : Nat) : Int :=
  if k = 0 then w.start
  else if k % 2 = 1 then w.start + ((k + 1) / 2 : Nat) * (w.step : Int)
  else w.start - (k / 2 : Nat) * (w.step : Int)

/-- The next point that is examined, and the walk after generating it. A point outside the range exhausts its
direction; the point p itself belongs to neither direction (log 12). The excluded point of R93, too, exhausts its
direction when it lies outside: the rule gives it as skipped and says no more (log 52). -/
def walkNext : Nat → Walk → Option Nat × Walk
  | 0, w => (none, w)
  | fuel + 1, w =>
    let k := w.index
    let w' := { w with index := k + 1 }
    let up := decide (k % 2 = 1)
    let down := decide (k % 2 = 0 ∧ k ≠ 0)
    let y := w.point k
    if w.upDone && w.downDone then (none, w)
    else if (up && w.upDone) || (down && w.downDone) then walkNext fuel w'
    else if y < w.low ∨ w.high < y then
      walkNext fuel { w' with upDone := w.upDone || up, downDone := w.downDone || down }
    else if w.skip = some y then walkNext fuel w'
    else if (y - w.lattice) % (w.step : Int) ≠ 0 then walkNext fuel w'
    else (some y.toNat, w')

/-- Points enough to leave the grid in both directions. -/
def walkFuel : Nat := 2 * Config.codes + 8

/-- The next candidate of a walk. -/
def Walk.next (w : Walk) : Option Nat × Walk := walkNext walkFuel w

/-- A walk from p over a tuning range (R81). -/
def startWalk (p : Int) (low high step : Nat) (skip : Option Int) (limit : Nat) : Walk :=
  { start := p, step := step, low := low, high := min high (Config.codes - 1), lattice := low, skip := skip
    index := 0, upDone := false, downDone := false, examined := 0, limit := limit }

end Sys2Proof.Machine
end

