-- ==== Sys2Proof/Machine/RackLine.lean ====
section
/-! DEFINITION. The Rack Lines (chapter 7): transactions, exchanges, queues, rosters and line orders. -/

namespace Sys2Proof.Machine

/-! ### Pins of a line -/

/-- DIR is high while a frame is sent (R123). -/
def Line.dir (l : Line) : Bool :=
  match l.phase with
  | .sending _ => true
  | _ => false

/-- TXD in bit time `n`, counted from the rise of DIR (R123, R125): the first bit time of DIR and every time
after the frame's last stop bit carry 1, and the frame's characters follow one another between them. A line that
sends nothing, idle, waiting, after a reset (R135) or off (R139), holds TXD at 1. -/
def Line.txd (l : Line) (n : Nat) : Bool :=
  match l.phase with
  | .sending frame => (true :: frameBits frame).getD n true
  | _ => true

/-- The bit times for which DIR stays high: one before the first start bit, and the frame (R123). -/
def dirTime (frame : List Byte) : Nat := 1 + 11 * frame.length

/-- A line whose divisor is 0 is off (R139). -/
def Line.isOn (l : Line) : Bool := decide (l.values.divisor ≠ 0)

/-! ### The Command Queue (R133, R134) -/

/-- Entries queued. -/
def Line.queued (l : Line) : Nat := l.live.length + l.plan.length

/-- Whether an offer of the given class is accepted (R133). -/
def Line.accepts (l : Line) (live : Bool) : Bool :=
  decide (l.queued < if live then Config.queueCapacity else Config.planLimit)

/-- An accepted entry joins behind the others of its class (R133). -/
def Line.enqueue (l : Line) (e : Tune) : Line :=
  if e.live then { l with live := l.live ++ [e] } else { l with plan := l.plan ++ [e] }

/-- The head of the queue leaves it, and the departure is told (R133, R134). -/
def Line.takeHead (l : Line) : Option (Tune × Line) :=
  match l.live, l.plan with
  | e :: rest, _ => some (e, { l with live := rest, roomNotices := l.roomNotices + 1 })
  | [], e :: rest => some (e, { l with plan := rest, roomNotices := l.roomNotices + 1 })
  | [], [] => none

/-- OUT_OF_RANGE reaches the Watch Unit as REFUSED (R138). -/
def TuneOutcome.forWatch : TuneOutcome → TuneOutcome
  | .outOfRange => .refused
  | o => o

/-- The outcome of a TUNE is delivered to the engine and, for live class, to the Watch Unit (R138). -/
def Line.deliver (l : Line) (e : Tune) (o : TuneOutcome) : Line :=
  { l with
    outcomes := if e.id = Config.noId then l.outcomes else l.outcomes ++ [⟨e.id, e.code, o⟩]
    liveOutcomes := if e.live then l.liveOutcomes ++ [⟨e.id, e.code, o.forWatch⟩] else l.liveOutcomes }

/-- An off line takes every queued entry and ends it with NO_REPLY (R139). -/
def Line.drain (l : Line) : Line :=
  (l.live ++ l.plan).foldl (fun l e => l.deliver e .noReply)
    { l with live := [], plan := [], roomNotices := l.roomNotices + l.queued }

/-! ### Transactions (R135 to R137) -/

/-- The request frame of a transaction (R126). -/
def Transaction.frame : Transaction → List Byte
  | .tune e _ => tuneFrame e.addr e.slot e.code
  | .poll addr first _ => pollFrame addr first

/-- The rack that a transaction's exchanges go to. -/
def Transaction.addr : Transaction → Nat
  | .tune e _ => e.addr
  | .poll addr _ _ => addr

/-- A line that may raise DIR begins the frame of its transaction, if it has one (R128). -/
def Line.startFrame (l : Line) : Line :=
  match l.txn with
  | some t => { l with phase := .sending t.frame }
  | none => { l with phase := .quiet }

/-- Begins a transaction. Its frame waits for the end of the wait after an exchange (R128; log 32). -/
def Line.begin (l : Line) (t : Transaction) : Line :=
  if l.phase = .quiet then { l with txn := some t }.startFrame else { l with txn := some t }

/-- A line between transactions chooses its next work (R135, R139). -/
def Line.choose (l : Line) : Line :=
  if l.txn.isSome then l
  else if l.isOn = false then l.drain
  else
    match l.takeHead with
    | some (e, l') => l'.begin (.tune e 1)
    | none =>
      match l.pollDue, l.roster[l.rotation]? with
      | true, some r => { l with pollDue := false }.begin (.poll r.addr r.cursor false)
      | _, _ => l

/-- Applies new values (R122, R139). A line that is turned off drops the wait after an exchange, so that one turned
on again may raise DIR at once: R128 and R139 do not say whether that wait outlives the line (log 45). -/
def Line.apply (l : Line) (v : LineValues) : Line :=
  if v.divisor = 0 then { l with values := v, pendingSetup := none, pollDue := false, phase := .quiet }
  else { l with values := v, pendingSetup := none }

/-- A transaction ends: pending values are applied, then the line chooses (R122, R138). -/
def Line.endTxn (l : Line) : Line :=
  match l.pendingSetup with
  | some v => (Line.apply { l with txn := none } v).choose
  | none => { l with txn := none }.choose

/-- The rotation index moves on (R136). -/
def Line.rotate (l : Line) : Line :=
  { l with rotation := if l.rotation + 1 < l.roster.length then l.rotation + 1 else 0 }

/-- The rotation index at the end of a poll: a poll during which the roster was loaded leaves it (R131). -/
def Line.pollEnded (l : Line) (reloaded : Bool) : Line := if reloaded then l else l.rotate

/-- The line after a failed exchange: the next attempt of a TUNE, or the end of the transaction (R136, R137). -/
def Line.afterFailure (l : Line) : Line :=
  match l.txn with
  | some (.tune e n) =>
    if n < 3 then { l with phase := .failedWait, txn := some (.tune e (n + 1)) }
    else ({ l with phase := .failedWait }.deliver e .noReply).endTxn
  | some (.poll _ _ reloaded) => ({ l with phase := .failedWait }.pollEnded reloaded).endTxn
  | none => l

/-- The slot cursor after a report of n entries (R136). -/
def nextCursor (cursor n : Nat) : Nat := if n < 8 ∨ 32 ≤ cursor + n then 0 else cursor + n

/-- The line after a good exchange with the given reply frame (R136, R137). The new slot cursor counts from the
cursor of the rack's entry as it stands now: R131 and R136 leave open from where it counts when roster loads during
the poll have removed the rack and listed it anew (log 44). -/
def Line.afterReply (l : Line) (frame : List Byte) : Line :=
  match l.txn with
  | some (.tune e _) =>
    ({ l with phase := .goodWait }.deliver e ((ackOutcome (byteAt frame 4)).getD .noReply)).endTxn
  | some (.poll addr _ reloaded) =>
    let entries := reportEntries frame
    (Line.pollEnded
      { l with
        phase := .goodWait
        reports := l.reports ++ entries.filter fun r => decide (r.slot ≤ 31)
        roster := l.roster.map fun r =>
          if r.addr = addr then { r with cursor := nextCursor r.cursor entries.length } else r }
      reloaded).endTxn
  | none => l

/-! ### Judging an exchange (R128, R132) -/

/-- The content tests of a complete reply to a transaction (R128). -/
def replyGood (t : Transaction) (frame : List Byte) : Bool :=
  byteSum frame % 256 == 0 && byteAt frame 0 == 0x80 + t.addr &&
    match t with
    | .poll _ _ _ => byteAt frame 2 == 3 && byteAt frame 1 % 4 == 1 && decide (byteAt frame 1 ≤ 33)
    | .tune e _ =>
      byteAt frame 2 == 4 && byteAt frame 1 == 3 && byteAt frame 3 == e.slot && (ackOutcome (byteAt frame 4)).isSome

/-- The six counters of a line (R128, R129). -/
inductive Counter where
  | noise | framing | check | gap | timeout | unsolicited
  deriving DecidableEq, Repr

def Line.count (l : Line) : Counter → Nat
  | .noise => l.noise
  | .framing => l.framing
  | .check => l.check
  | .gap => l.gap
  | .timeout => l.timeout
  | .unsolicited => l.unsolicited

def Line.raise (l : Line) : Counter → Line
  | .noise => { l with noise := raise16 l.noise }
  | .framing => { l with framing := raise16 l.framing }
  | .check => { l with check := raise16 l.check }
  | .gap => { l with gap := raise16 l.gap }
  | .timeout => { l with timeout := raise16 l.timeout }
  | .unsolicited => { l with unsolicited := raise16 l.unsolicited }

/-- A counter rises, marking the line's record; one at 65535 stays (R128, R129, R141). -/
def State.raiseCounter (s : State) (k : Fin 4) (c : Counter) : State :=
  if (s.line k).count c < 65535 then (s.onLine k fun l => l.raise c).mark (.line k) else s

/-- The counter that a failed reply frame raises (R128). -/
def failureCounter (a : Assembler) : Counter :=
  if a.framed then .framing else if a.noisy then .noise else .check

/-- The stages with an ON_AIR entry whose rack fits, in ascending order (R178). -/
def State.stagesServed (s : State) (fits : Rack → Bool) : List Nat :=
  (List.range Config.stages).filter fun st =>
    s.air.any fun e => decide (e.stage = st) && decide (e.air = .onAir) && e.rack.any fits

/-- A roster entry after an exchange (R132). -/
def RosterEntry.judged (e : RosterEntry) (good : Bool) : RosterEntry :=
  if good then { e with missed := 0, state := .answering }
  else
    let m := min 255 (e.missed + 1)
    { e with missed := m, state := if 3 ≤ m then .lost else .silent }

/-- The part of R132 that reports a change of a rack's state onward. -/
def State.rackChanged (s : State) (k : Fin 4) (addr : Nat) (old new : RackState) : State :=
  if old = new then s
  else
    let s := (s.mark (.line k)).markAll
      ((s.stagesServed fun r => decide (r.line = k ∧ r.addr = addr)).map RecId.stage)
    if new = .lost then
      (s.setCause .alert).onLine k fun l => { l with notices := l.notices ++ [⟨true, addr⟩] }
    else if old = .lost then s.onLine k fun l => { l with notices := l.notices ++ [⟨false, addr⟩] }
    else s

/-- An exchange with a rack changes its roster entry (R132). -/
def State.judgeRack (s : State) (k : Fin 4) (addr : Nat) (good : Bool) : State :=
  match (s.line k).roster.find? fun e => e.addr == addr with
  | none => s
  | some e =>
    let e' := e.judged good
    (s.onLine k fun l => { l with roster := l.roster.map fun r => if r.addr = addr then e' else r }).rackChanged
      k addr e.state e'.state

/-- A failed exchange (R128, R132, R136, R137). -/
def State.exchangeFailed (s : State) (k : Fin 4) (c : Counter) : State :=
  match (s.line k).txn with
  | none => s
  | some t => ((s.raiseCounter k c).judgeRack k t.addr false).onLine k Line.afterFailure

/-- A good exchange (R128, R132, R136, R137). -/
def State.exchangeGood (s : State) (k : Fin 4) (frame : List Byte) : State :=
  match (s.line k).txn with
  | none => s
  | some t => (s.judgeRack k t.addr true).onLine k fun l => l.afterReply frame

/-- A reply frame that has ended is judged (R127, R128). -/
def State.judgeReply (s : State) (k : Fin 4) : State :=
  match (s.line k).phase, (s.line k).txn with
  | .awaiting a, some t =>
    match a.ended with
    | none => s
    | some e =>
      if e = .complete ∧ a.framed = false ∧ a.noisy = false ∧ replyGood t a.bytes = true then
        s.exchangeGood k a.bytes
      else s.exchangeFailed k (failureCounter a)
  | _, _ => s

/-! ### Characters (R127, R129) -/

/-- The assembler takes a character of the frame (R127). -/
def Assembler.take (a : Assembler) (c : RxChar) : Assembler :=
  let bytes := a.bytes ++ [c.byte]
  let len := byteAt bytes 1
  { bytes := bytes
    noisy := a.noisy || c.noisy
    framed := a.framed || c.framed
    ended :=
      if bytes.length < 2 then none
      else if len = 0 ∨ 36 < len then some .badLength
      else if bytes.length = len + 3 then some .complete
      else none }

/-- An assembler awaiting a reply (R127). -/
def Assembler.empty : Assembler := ⟨[], false, false, none⟩

/-- A character is received on a line (R124, R127, R129): nothing while DIR is high or the line is off; the
awaited frame takes it, or it is discarded and counted. -/
def State.receive (s : State) (k : Fin 4) (samples : BitVec 33) : State :=
  let l := s.line k
  if l.dir || !l.isOn then s
  else
    match readChar samples with
    | none => s
    | some c =>
      match l.phase with
      | .awaiting a =>
        if a.ended.isSome then s.raiseCounter k .unsolicited
        else if a.bytes.isEmpty then
          if c.mark then s.setLine k { l with phase := .awaiting (a.take c) } else s.raiseCounter k .unsolicited
        else if c.mark then
          (s.setLine k { l with phase := .awaiting { a with ended := some .broken } }).raiseCounter k .unsolicited
        else s.setLine k { l with phase := .awaiting (a.take c) }
      | _ => s.raiseCounter k .unsolicited

/-! ### Offers and line orders -/

/-- An entry is offered to a line's queue (R133); an accepting line chooses its work (R135). -/
def State.offer (s : State) (k : Fin 4) (e : Tune) : Option State :=
  if (s.line k).accepts e.live then some (s.onLine k fun l => (l.enqueue e).choose) else none

/-- The line that a parameter names; the screening has refused a line above 3 (R168). -/
def lineOf (n : Nat) : Fin 4 := Fin.ofNat 4 n

/-- New values reach a line between transactions: they are applied, and a line turned off ends what its queue
holds; the poll-due mark stays as it stood, and no work is chosen (R122, R135, R139). -/
def Line.setUp (l : Line) (v : LineValues) : Line :=
  let l := l.apply v
  if l.isOn then l else l.drain

/-- LINE_SETUP (R122). -/
def State.lineSetup (s : State) (slot : Nat) (b : OrderBody) : State × Completion :=
  let k := lineOf b.p0
  let d := lowHalf b.p1
  let t := paramByte b.p2 0
  let i := paramByte b.p2 1
  let v := readLineValues d t i
  let n := (if v.divisor = d then 0 else 1) + (if v.replyTimeout = t then 0 else 1) + (if v.pollInterval = i then 0 else 1)
  (s.onLine k fun l => if l.txn.isSome then { l with pendingSetup := some v } else l.setUp v,
    ⟨slot, false, .ok, n, 0⟩)

/-- The new roster from a list of addresses (R130): `old` gives the kept entries. A roster holds up to 8 entries; the
screening lets no longer list pass (R168). -/
def newRoster (old : List RosterEntry) (addrs : List Nat) : List RosterEntry :=
  addrs.foldl (fun new a =>
    if a = 0 ∨ 30 < a ∨ new.any (fun e => e.addr == a) ∨ Config.rosterCapacity ≤ new.length then new
    else new ++ [(old.find? fun e => e.addr == a).getD ⟨a, .unknown, 0, 0⟩]) []

/-- A poll in progress is marked as overtaken by a roster load (R131). -/
def Transaction.reload : Transaction → Transaction
  | .poll addr first _ => .poll addr first true
  | t => t

/-- RACK_ROSTER with its list read (R130, R131, R141, R178). When the load removes several LOST racks, their UNBLIND
notices reach the Watch Unit in the old roster's poll order: R131 states none (log 54). -/
def State.rackRoster (s : State) (slot : Nat) (b : OrderBody) (list : List Byte) : State × Completion :=
  let k := lineOf b.p0
  let old := (s.line k).roster
  let new := newRoster old (list.map BitVec.toNat)
  let gone := old.filter fun e => decide (e.state = .lost) && !new.any fun n => n.addr == e.addr
  let s := s.onLine k fun l =>
    { l with
      roster := new
      rotation := 0
      txn := l.txn.map Transaction.reload
      notices := l.notices ++ gone.map fun e => ⟨false, e.addr⟩ }
  ((s.mark (.line k)).markAll ((s.stagesServed fun r => decide (r.line = k)).map RecId.stage),
    ⟨slot, false, .ok, new.length, list.length - new.length⟩)

/-- RACK_TUNE (R140): its end, or none when the queue refuses the entry. R140 gives counts for the end OK alone;
an end NOT_OFF_AIR has 0 and 0 (log 47). -/
def State.rackTune (s : State) (slot : Nat) (b : OrderBody) : Option (State × Completion) :=
  let id := lowHalf b.p0
  if (s.airEntry id).isSome then some (s, ⟨slot, true, .notOffAir, 0, 0⟩)
  else
    (s.offer (lineOf (paramByte b.p2 0))
      ⟨false, paramByte b.p2 1, paramByte b.p2 2, id, lowHalf b.p1⟩).map fun s' => (s', ⟨slot, false, .ok, 1, 0⟩)

end Sys2Proof.Machine
end

