-- ==== Sys2Proof/Machine/WatchUnit.lean ====
section
/-! DEFINITION. The Watch Unit (chapter 8): watch records, reports, confirmation, notices, held TUNEs and its
orders. -/

namespace Sys2Proof.Machine

/-- Whether an entry makes its carrier watched (R142). -/
def AirEntry.isWatched (e : AirEntry) : Bool :=
  decide (e.air = .onAir) && decide (e.kind = .mic) && e.watched && e.rack.isSome

/-- The watch record of a carrier. -/
def State.watchRec (s : State) (id : Nat) : Option WatchRec := s.watch.records.find? fun r => r.id == id

/-- Changes a carrier's watch record. -/
def State.onRec (s : State) (id : Nat) (f : WatchRec → WatchRec) : State :=
  { s with watch := { s.watch with records := s.watch.records.map fun r => if r.id = id then f r else r } }

/-- ALERTED and HELD count in alerts_active (R161). -/
def WatchState.isAlert : WatchState → Bool
  | .alerted => true
  | .held => true
  | _ => false

/-- The marks and the alert of a change of watch state (R154, R161). -/
def State.watchMarks (s : State) (id : Nat) (old new : WatchState) : State :=
  let s := s.mark (.carrier id)
  let s := if old.isAlert || new.isAlert then s.mark (.stage (id / 256)) else s
  if new.isAlert then s.setCause .alert else s

/-- A watched carrier goes to a state other than SUSPECT, with run 0 and the given settle count. -/
def State.watchTo (s : State) (id : Nat) (new : WatchState) (settle : Nat) : State :=
  match s.watchRec id with
  | none => s
  | some r =>
    let s' := s.onRec id fun r => { r with state := new, run := 0, settle := settle }
    if r.state = new then s' else s'.watchMarks id r.state new

/-- Entry into SETTLING (R153). -/
def State.settle (s : State) (id : Nat) : State :=
  if s.watch.params.settle = 0 then s.watchTo id .quiet 0 else s.watchTo id .settling s.watch.params.settle

/-- Removes a carrier's request from the Swap Request List (R74). -/
def State.unlist (s : State) (id : Nat) : State :=
  { s with engine := { s.engine with requests := s.engine.requests.filter fun x => x != id } }

/-- A watch record as it is created (R142). -/
def WatchRec.fresh (id : Nat) : WatchRec := ⟨id, .quiet, 0, 0, 0, none, none⟩

/-! ### Answers of the engine -/

/-- The Watch Unit takes an answer to a swap request (R151). -/
def State.takeAnswer (s : State) (a : SwapAnswer) : State :=
  match s.watchRec a.id with
  | none => s
  | some r =>
    if a.swapped then
      let s := (s.onRec a.id fun r => { r with swaps := min 7 (r.swaps + 1) }).mark (.carrier a.id)
      if r.state = .swapWait then s.watchTo a.id .retuning 0 else s
    else if r.state = .swapWait then s.watchTo a.id .held 0
    else s

/-- The Watch Unit takes every answer the engine has given, oldest first: what the engine tells it next comes
after them (log 7). -/
def State.takeAnswers (s : State) : State :=
  s.swapAnswers.foldl State.takeAnswer { s with swapAnswers := [] }

/-! ### Watching begins and ends (R142) -/

/-- Watching begins for an entry that is now ON_AIR, if it qualifies and is not watched. -/
def State.watchBegin (s : State) (e : AirEntry) : State :=
  if e.isWatched ∧ (s.watchRec e.id).isNone then
    let s := s.takeAnswers
    let s := { s with watch := { s.watch with records := s.watch.records ++ [WatchRec.fresh e.id] } }
    s.mark (.carrier e.id)
  else s

/-- A carrier leaves the Air Set: its record and its held TUNE go (R34, R142, R159). -/
def State.watchEnd (s : State) (id : Nat) : State :=
  let s := s.takeAnswers
  match s.watchRec id with
  | none => s
  | some r =>
    let s := { s with
      watch := { s.watch with
        records := s.watch.records.filter fun r => r.id != id
        heldTunes := s.watch.heldTunes.filter fun h => h.tune.id != id } }
    let s := s.mark (.carrier id)
    if r.state.isAlert then s.mark (.stage (id / 256)) else s

/-! ### Swap decisions (R73, R149, R150) -/

/-- The fate of an addition to the Swap Request List (R73). -/
inductive Addition where
  | made | refusedRun | refusedFull
  deriving DecidableEq, Repr

/-- Whether an addition naming a carrier is made (R73). -/
def State.additionFate (s : State) (id : Nat) : Addition :=
  if s.runBit = false then .refusedRun
  else if Config.requestCapacity ≤ s.engine.requests.length ∨ id ∈ s.engine.requests then .refusedFull
  else .made

/-- An addition at the tail of the Swap Request List. -/
def State.addRequest (s : State) (id : Nat) : State :=
  { s with engine := { s.engine with requests := s.engine.requests ++ [id] } }

/-- A swap decision for a carrier in CONFIRMED (R150). The answers already given are taken before it (log 7): with none
left for the carrier, one that is listed stays in SWAP_WAIT until its own answer or removal (R73). -/
def State.swapDecision (s : State) (e : AirEntry) : State :=
  let s := s.takeAnswers
  match s.watchRec e.id with
  | none => s
  | some r =>
    if e.autoSwap = false ∨ s.watch.params.swapLimit ≤ r.swaps then s.watchTo e.id .alerted 0
    else
      match s.additionFate e.id with
      | .made => (s.addRequest e.id).watchTo e.id .swapWait 0
      | .refusedRun => s.watchTo e.id .alerted 0
      | .refusedFull => s

/-! ### Reports (R146 to R148) -/

/-- Classes of a report entry (R147). -/
inductive ReportClass where
  | good | badForeign | badErrors
  deriving DecidableEq, Repr

/-- Classification (R147). -/
def classify (p : WatchParams) (r : Report) : ReportClass :=
  if r.pilot then if p.error ≤ r.errors then .badErrors else .good
  else if p.foreign ≤ r.rf then .badForeign else .good

/-- Confirmation (R149): the map is marked for a foreign confirmation, then the first decision is made. -/
def State.confirm (s : State) (e : AirEntry) (c : ReportClass) : State :=
  let s := s.watchTo e.id .confirmed 0
  let s := if c = .badForeign then s.watchMark e.code else s
  s.swapDecision e

/-- A classified report entry in QUIET or SUSPECT (R148). -/
def State.countReport (s : State) (e : AirEntry) (w : WatchRec) (c : ReportClass) : State :=
  if c = .good then (if w.state = .suspect then s.watchTo e.id .quiet 0 else s)
  else
    let run := min 7 (w.run + 1)
    let s' := s.onRec e.id fun r => { r with state := .suspect, run := run }
    let s' := if w.state = .suspect then s' else s'.mark (.carrier e.id)
    if s.watch.params.confirm ≤ run then s'.confirm e c else s'

/-- Whether a value written before is to be written anew: none, or moved by at least `by'`. -/
def moved (old : Option Nat) (new by' : Nat) : Bool :=
  match old with
  | none => true
  | some o => decide (o + by' ≤ new) || decide (new + by' ≤ o)

/-- The status fields of a matched carrier are brought up to date (R146, R175). -/
def State.reportFields (s : State) (w : WatchRec) (r : Report) : State :=
  let s := if moved w.lastRf r.rf 4 then
    (s.onRec w.id fun x => { x with lastRf := some r.rf }).keep w.id { s.kept w.id with lastRf := r.rf } else s
  if moved w.lastErrors r.errors 1 then
    (s.onRec w.id fun x => { x with lastErrors := some r.errors }).keep w.id
      { s.kept w.id with lastErrors := r.errors }
  else s

/-- A report entry is applied to one matched carrier (R146). -/
def State.reportTo (s : State) (r : Report) (e : AirEntry) : State :=
  match s.watchRec e.id with
  | none => s
  | some w =>
    let s := s.reportFields w r
    match w.state with
    | .quiet => s.countReport e w (classify s.watch.params r)
    | .suspect => s.countReport e w (classify s.watch.params r)
    | .confirmed => s.swapDecision e
    | .settling =>
      if w.settle ≤ 1 then s.watchTo e.id .quiet 0
      else s.onRec e.id fun x => { x with settle := w.settle - 1 }
    | .swapWait => s
    | .retuning => s
    | .alerted => s
    | .held => s
    | .blind => s

/-- Whether an entry stands in a rack slot of a line. -/
def AirEntry.atSlot (e : AirEntry) (k : Fin 4) (addr slot : Nat) : Bool := decide (e.rack = some ⟨k, addr, slot⟩)

/-- Whether an entry stands in a rack of a line. -/
def AirEntry.atRack (e : AirEntry) (k : Fin 4) (addr : Nat) : Bool :=
  e.rack.any fun r => decide (r.line = k ∧ r.addr = addr)

/-- A report entry arrives: it is applied to each watched carrier it matches, in Air Set order (R146). -/
def State.report (s : State) (k : Fin 4) (r : Report) : State :=
  (s.air.filter fun e => e.isWatched && e.atSlot k r.addr r.slot).foldl (fun s e => s.reportTo r e) s

/-! ### Outcomes and notices (R152, R155 to R158) -/

/-- A live outcome arrives (R152). -/
def State.liveOutcome (s : State) (m : OutcomeMsg) : State :=
  let s := s.takeAnswers
  match s.watchRec m.id, s.airEntry m.id with
  | some r, some e =>
    if r.state = .retuning ∧ e.code = m.code then
      if m.outcome = .applied then s.settle m.id else s.watchTo m.id .held 0
    else s
  | _, _ => s

/-- A retune notice (R155). -/
def State.retuneNotice (s : State) (id : Nat) : State :=
  let s := s.takeAnswers
  match s.watchRec id with
  | none => s
  | some r =>
    let s := { s with watch := { s.watch with heldTunes := s.watch.heldTunes.filter fun h => h.tune.id != id } }
    if r.state = .blind then s
    else (if r.state = .swapWait then s.unlist id else s).settle id

/-- A BLIND notice for one carrier (R156). -/
def State.blindOne (s : State) (e : AirEntry) : State :=
  match s.watchRec e.id with
  | none => s
  | some r => (if r.state = .swapWait then s.unlist e.id else s).watchTo e.id .blind 0

/-- A BLIND notice (R156). -/
def State.blind (s : State) (k : Fin 4) (addr : Nat) : State :=
  (s.air.filter fun e => e.isWatched && e.atRack k addr).foldl State.blindOne s

/-- An UNBLIND notice for one carrier (R157). -/
def State.unblindOne (s : State) (e : AirEntry) : State :=
  match s.watchRec e.id with
  | none => s
  | some r => if r.state = .blind then s.watchTo e.id .quiet 0 else s

/-- An UNBLIND notice (R157). -/
def State.unblind (s : State) (k : Fin 4) (addr : Nat) : State :=
  (s.air.filter fun e => e.isWatched && e.atRack k addr).foldl State.unblindOne s

/-- A halt at one watch record (R158). -/
def State.haltRec (s : State) (r : WatchRec) : State :=
  if r.state = .confirmed ∨ r.state = .swapWait then s.watchTo r.id .alerted 0 else s

/-- A halt reaches the Watch Unit (R158), after the answers already given (log 7). -/
def State.watchHalt (s : State) : State :=
  let s := s.takeAnswers
  s.watch.records.foldl State.haltRec s

/-! ### Held TUNEs (R159) -/

/-- The Watch Unit takes a TUNE that a queue has refused. -/
def State.holdTune (s : State) (k : Fin 4) (t : Tune) : State :=
  { s with watch := { s.watch with
    heldTunes := (s.watch.heldTunes.filter fun h => h.tune.id != t.id) ++ [⟨k, t⟩] } }

/-- The held TUNEs of a line are offered, oldest first, until one is refused. -/
def offerHeld (k : Fin 4) : List HeldTune → State → State
  | [], s => s
  | h :: hs, s =>
    if h.line = k then
      match s.offer k h.tune with
      | none => s
      | some s' =>
        offerHeld k hs { s' with watch := { s'.watch with
          heldTunes := s'.watch.heldTunes.filter fun x => x.tune.id != h.tune.id } }
    else offerHeld k hs s

/-- The Watch Unit's part of a room notice. -/
def State.watchRoom (s : State) (k : Fin 4) : State := offerHeld k s.watch.heldTunes s

/-! ### Watch orders -/

/-- The Watch Parameters as WATCH_SETUP reads them (R145). -/
def readWatch (foreign error confirm settle limit : Nat) : WatchParams :=
  ⟨min foreign 200, max error 1, max 1 (min confirm 7), min settle 15, max 1 (min limit 7)⟩

/-- 1 for a value that was clamped. -/
def clamped (stored given : Nat) : Nat := if stored = given then 0 else 1

/-- WATCH_SETUP (R145). -/
def State.watchSetup (s : State) (slot : Nat) (b : OrderBody) : State × Completion :=
  let f := paramByte b.p0 0
  let e := paramByte b.p0 1
  let c := paramByte b.p0 2
  let t := paramByte b.p0 3
  let l := paramByte b.p1 0
  let p := readWatch f e c t l
  ({ s with watch := { s.watch with params := p } },
    ⟨slot, false, .ok, clamped p.foreign f + clamped p.error e + clamped p.confirm c + clamped p.settle t +
      clamped p.swapLimit l, 0⟩)

/-- WATCH_RELEASE (R160). -/
def State.watchRelease (s : State) (slot : Nat) (b : OrderBody) : State × Completion :=
  let id := lowHalf b.p0
  match s.onAirEntry id, s.watchRec id with
  | none, _ => (s, ⟨slot, true, .notOnAir, 0, 0⟩)
  | some _, none => (s, ⟨slot, false, .nothingDone, 0, 0⟩)
  | some _, some r =>
    let s := (s.onRec id fun x => { x with swaps := 0 }).mark (.carrier id)
    let s := if r.state.isAlert then s.watchTo id .quiet 0 else s
    let c1 := if r.state.isAlert then 1 else 0
    (s, ⟨slot, false, if c1 = 0 ∧ r.swaps = 0 then .nothingDone else .ok, c1, r.swaps⟩)

end Sys2Proof.Machine
end

