-- ==== Sys2Proof/Machine/CarrierCache.lean ====
section
/-! DEFINITION. The Carrier Cache (chapter 3): lookups, fills, write-backs and the flush. -/

namespace Sys2Proof.Machine

/-- The answer of a lookup (R54). -/
inductive LookupAnswer where
  | found (i : CarrierInfo)
  | unknown
  | damaged
  | memory
  deriving DecidableEq, Repr

/-- The answer of a write-back (R62). -/
inductive WriteBackAnswer where
  | written | fault | skipped
  deriving DecidableEq, Repr

/-- How far a piece of work with memory accesses has come: it waits for a transfer, has more to do, or is
done. -/
inductive Progress (α : Type) where
  | wait
  | more (s : State)
  | done (a : α) (s : State)

/-- The set of a carrier: area = stage, set = number mod 16 (R52). -/
def cacheSet (id : Nat) : Nat := id / 256 * 16 + id % 256 % 16

/-- The tag of a carrier (R52). -/
def cacheTag (id : Nat) : Nat := id % 256 / 16

/-- A way of a set: false is A, true is B. -/
def State.way (s : State) (set : Nat) (b : Bool) : Option CacheWay :=
  sparseGet none s.cache (set * 2 + if b then 1 else 0)

/-- Writes a way. -/
def State.setWay (s : State) (set : Nat) (b : Bool) (w : Option CacheWay) : State :=
  { s with cache := sparseSet none s.cache (set * 2 + if b then 1 else 0) w }

/-- The valid way that holds a carrier, if any (R54). -/
def State.hitWay (s : State) (id : Nat) : Option Bool :=
  if (s.way (cacheSet id) false).any fun w => w.tag == cacheTag id then some false
  else if (s.way (cacheSet id) true).any fun w => w.tag == cacheTag id then some true
  else none

/-- A fill (R58), made only on a miss (R53). -/
def State.fillWay (s : State) (id : Nat) (i : CarrierInfo) : State :=
  let set := cacheSet id
  let w := some (⟨cacheTag id, i⟩ : CacheWay)
  if (s.hitWay id).isSome then s
  else
    match s.way set false, s.way set true with
    | none, _ => s.setWay set false w
    | some _, none => s.setWay set true w
    | some _, some _ =>
      let b := sparseGet false s.alt set
      { s.setWay set b w with alt := sparseSet false s.alt set !b }

/-- The way that holds a carrier is made invalid (R62). -/
def State.dropWay (s : State) (id : Nat) : State :=
  match s.hitWay id with
  | none => s
  | some b => s.setWay (cacheSet id) b none

/-- The way that holds a carrier takes the part area written (R62). -/
def State.updateWay (s : State) (id code source : Nat) : State :=
  match s.hitWay id with
  | none => s
  | some b =>
    s.setWay (cacheSet id) b
      ((s.way (cacheSet id) b).map fun w => { w with info := { w.info with assigned := code, source := source } })

/-- The address of a stage's directory entry (R45, R194). -/
def State.dirEntry (s : State) (stage : Nat) : Nat := s.latch.dirAddr + 8 * stage

/-- The record address that a directory entry gives carrier number n, if it names it (R45, R46). -/
def recordAddr (dir : List Byte) (n : Nat) : Option Nat :=
  if byteAt dir 0 = 0 ∨ min (byteAt dir 1) Config.numbers ≤ n then none else some (align4 (word dir 4) + n * 32)

/-- The lookup's present stage. -/
def State.setLookup (s : State) (l : Option LookupStage) : State := { s with engine := { s.engine with lookup := l } }

/-- Whether an ID passes the bounds test of a lookup (R54). -/
def State.idInBounds (s : State) (id : Nat) : Bool :=
  decide (id / 256 < Config.stages) && decide (id / 256 < s.latch.stages) && decide (id % 256 < Config.numbers)

/-- A lookup that ends. -/
def State.lookupEnds (s : State) (a : LookupAnswer) : Progress LookupAnswer := .done a (s.setLookup none)

/-- A record that passed its check answers FOUND and, outside cache_off, fills a way (R55, R58, R63). -/
def State.lookupFound (s : State) (id : Nat) (bs : List Byte) : Progress LookupAnswer :=
  let i := carrierInfo bs
  (if s.params.cacheOff then s else s.fillWay id i).lookupEnds (.found i)

/-- The next piece of a lookup of carrier `id` (R54 to R57). -/
def State.lookupStep (s : State) (id : Nat) : Progress LookupAnswer :=
  match s.engine.lookup with
  | none => .wait
  | some .ask =>
    if s.idInBounds id = false then s.lookupEnds .unknown
    else
      match (if s.params.cacheOff then none else s.hitWay id) with
      | some b =>
        match s.way (cacheSet id) b with
        | some w => s.lookupEnds (.found w.info)
        | none => s.lookupEnds .unknown
      | none => .more ((s.presentRead .cache (s.dirEntry (id / 256)) 8).setLookup (some .dirWait))
  | some .dirWait =>
    match s.mail.cache with
    | none => .wait
    | some .fault => (s.setMail .cache none).lookupEnds .memory
    | some (.ok dir) =>
      let s := s.setMail .cache none
      match recordAddr dir (id % 256) with
      | none => s.lookupEnds .unknown
      | some a => .more ((s.presentRead .cache a 32).setLookup (some (.recordWait a)))
  | some (.recordWait a) =>
    match s.mail.cache with
    | none => .wait
    | some .fault => (s.setMail .cache none).lookupEnds .memory
    | some (.ok bs) =>
      let s := s.setMail .cache none
      if recordPasses bs then s.lookupFound id bs
      else .more ((s.presentRead .cache a 32).setLookup (some (.rereadWait a)))
  | some (.rereadWait _) =>
    match s.mail.cache with
    | none => .wait
    | some .fault => (s.setMail .cache none).lookupEnds .memory
    | some (.ok bs) =>
      let s := s.setMail .cache none
      if recordPasses bs then s.lookupFound id bs else s.lookupEnds .damaged

/-- The write-back's present stage. -/
def State.setWb (s : State) (w : Option WriteBack) : State := { s with engine := { s.engine with wb := w } }

/-- A write-back that does not end WRITTEN: a way holding the carrier is made invalid (R62). -/
def State.wbFails (s : State) (w : WriteBack) (a : WriteBackAnswer) : Progress WriteBackAnswer :=
  .done a ((s.dropWay w.id).setWb none)

/-- The next piece of the write-back in progress (R61, R62). -/
def State.wbStep (s : State) : Progress WriteBackAnswer :=
  match s.engine.wb with
  | none => .wait
  | some w =>
    match w.stage with
    | .ask =>
      if s.latch.stages ≤ w.id / 256 then s.wbFails w .skipped
      else .more ((s.presentRead .cache (s.dirEntry (w.id / 256)) 8).setWb (some { w with stage := .dirWait }))
    | .dirWait =>
      match s.mail.cache with
      | none => .wait
      | some .fault => (s.setMail .cache none).wbFails w .fault
      | some (.ok dir) =>
        let s := s.setMail .cache none
        match recordAddr dir (w.id % 256) with
        | none => s.wbFails w .skipped
        | some a =>
          .more ((s.presentWrite .cache (a + 24) (partArea w.code w.swap)).setWb (some { w with stage := .writeWait }))
    | .writeWait =>
      match s.mail.cache with
      | none => .wait
      | some .fault => (s.setMail .cache none).wbFails w .fault
      | some (.ok _) =>
        .done .written (((s.setMail .cache none).updateWay w.id w.code (if w.swap then 3 else 2)).setWb none)

/-- The valid ways of a set. -/
def State.validWays (s : State) (set : Nat) : Nat := (s.way set false).toList.length + (s.way set true).toList.length

/-- Whether a mask flags the area of a set (R64). -/
def areaFlagged (mask set : Nat) : Bool := decide (set / 16 < Config.stages) && mask.testBit (set / 16)

/-- FLUSH_CACHE over the flagged areas (R64): the state and the valid ways made invalid. -/
def State.flush (s : State) (mask : Nat) : State × Nat :=
  ({ s with
      cache := s.cache.filter fun e => !areaFlagged mask (e.1 / 2)
      alt := s.alt.filter fun e => !areaFlagged mask e.1 },
    (((List.range (16 * Config.stages)).filter (areaFlagged mask)).map s.validWays).sum)

/-- The flagged areas of a mask (R64). -/
def flaggedAreas (mask : Nat) : Nat := ((List.range Config.stages).filter fun k => mask.testBit k).length

end Sys2Proof.Machine
end

