-- ==== Sys2Proof/Machine/AirSet.lean ====
section
/-! DEFINITION. The changes of the Air Set (chapter 2) with the marks of R38 and what the Watch Unit is told,
and the engine orders without boundaries. -/

namespace Sys2Proof.Machine

/-- A new entry for a carrier, with the copies of R24. -/
def newEntry (id code : Nat) (i : CarrierInfo) (air : AirState) (owner : Option Nat) : AirEntry :=
  { id := id, stage := id / 256, code := code, power := powerLevel i.powerClass, kind := i.kind
    locked := i.locked, autoSwap := i.autoSwap, watched := i.watched
    tuneLow := i.tuneLow, tuneHigh := i.tuneHigh, tuneStep := i.tuneStep, rack := i.rack
    air := air, confirmed := .unconfirmed, owner := owner }

/-- The Air Set holds 200 entries (R25). -/
def State.airFull (s : State) : Bool := decide (Config.airCapacity ≤ s.air.length)

/-- An entry is put into the Air Set, within the limits that R25 sets for every insertion. -/
def State.putEntry (s : State) (e : AirEntry) : State :=
  if (s.airEntry e.id).isSome ∨ s.airFull = true then s else { s with air := airInsert e s.air }

/-- An entry is taken out of the Air Set. -/
def State.dropEntry (s : State) (id : Nat) : State := { s with air := airRemove id s.air }

/-- The insertion of AIR_JOIN (R29). -/
def State.joinOnAir (s : State) (id code : Nat) (i : CarrierInfo) : State :=
  let e := newEntry id code i .onAir none
  (((s.putEntry e).watchBegin e).mark (.carrier id)).mark (.stage (id / 256))

/-- The insertion of a CHANGEOVER joiner (R30). -/
def State.joinPending (s : State) (id code : Nat) (i : CarrierInfo) (slot : Nat) : State :=
  (s.putEntry (newEntry id code i .pending (some slot))).mark (.carrier id)

/-- An ON_AIR entry is removed (R34). -/
def State.leaveAir (s : State) (id : Nat) : State :=
  ((((s.unlist id).watchEnd id).dropEntry id).mark (.carrier id)).mark (.stage (id / 256))

/-- The PENDING entries that an order owns, in Air Set order. -/
def State.owned (s : State) (slot : Nat) : List AirEntry := s.air.filter fun e => decide (e.owner = some slot)

/-- The entries of a withdrawn CHANGEOVER are removed (R33). -/
def State.withdrawOwned (s : State) (slot : Nat) : State :=
  State.markAll { s with air := s.air.filter fun e => decide (e.owner ≠ some slot) }
    ((s.owned slot).map fun e => RecId.carrier e.id)

/-- What an entry that goes ON_AIR at a commit brings about (R32, R38). -/
def State.committed (s : State) (e : AirEntry) : State :=
  ((s.watchBegin { e with air := .onAir, owner := none }).mark (.carrier e.id)).mark (.stage e.stage)

/-- The commit of a CHANGEOVER's entries, all at once (R32). -/
def State.commitOwned (s : State) (slot : Nat) : State :=
  (s.owned slot).foldl State.committed
    { s with air := s.air.map fun e =>
      if e.owner = some slot then { e with air := .onAir, owner := none } else e }

/-- An entry takes a code (R35): it moves to its place, unconfirmed. `f` refreshes the other fields. -/
def State.setCode (s : State) (id code : Nat) (f : AirEntry → AirEntry) : State :=
  match s.airEntry id with
  | none => s
  | some e =>
    ((s.dropEntry id).putEntry { f e with code := code, confirmed := .unconfirmed }).mark (.carrier id)

/-- rack_confirmed for a TUNE outcome (R36). -/
def confirmedBy : TuneOutcome → Confirmed
  | .applied => .applied
  | .refused => .refused
  | .outOfRange => .refused
  | .noReply => .noReply

/-- rack_confirm for a TUNE outcome (R138). -/
def rackConfirmBy : TuneOutcome → RackConfirm
  | .applied => .applied
  | .refused => .refused
  | .outOfRange => .outOfRange
  | .noReply => .noReply

/-- A TUNE outcome reaches the Air Set and the carrier's status (R36, R138). -/
def State.recordOutcome (s : State) (m : OutcomeMsg) : State :=
  let kept := { s.kept m.id with rackConfirm := rackConfirmBy m.outcome }
  match s.airEntry m.id with
  | none => s.keep m.id kept
  | some e =>
    if e.air = .onAir ∧ e.code = m.code then
      (s.changeEntry m.id fun e => { e with confirmed := confirmedBy m.outcome }).keep m.id kept
    else s

/-! ### Orders without boundaries -/

/-- SET_PARAMS: the eleven fields as loaded (R43). -/
def readParams (b : OrderBody) : PlanParams :=
  { gcc := min (paramByte b.p0 0) 31
    g3 := min (paramByte b.p0 1) 15
    g5 := min (paramByte b.p0 2) 15
    gocc := min (paramByte b.p0 3) 7
    reuse := min (paramByte b.p1 0) 63
    t3 := min (signed8 (paramByte b.p1 1)) 63
    t5 := min (signed8 (paramByte b.p1 2)) 63
    threeTone := (paramByte b.p1 3).testBit 0
    fifthOrder := (paramByte b.p1 3).testBit 1
    cacheOff := (paramByte b.p1 3).testBit 2
    searchLimit := max 1 (min (lowHalf b.p2) 4095) }

/-- SET_PARAMS: the number of fields whose stored value differs from the value given (R43). -/
def paramsClamped (b : OrderBody) : Nat :=
  let p := readParams b
  clamped p.gcc (paramByte b.p0 0) + clamped p.g3 (paramByte b.p0 1) + clamped p.g5 (paramByte b.p0 2) +
    clamped p.gocc (paramByte b.p0 3) + clamped p.reuse (paramByte b.p1 0) +
    (if p.t3 = signed8 (paramByte b.p1 1) then 0 else 1) + (if p.t5 = signed8 (paramByte b.p1 2) then 0 else 1) +
    clamped p.searchLimit (lowHalf b.p2)

/-- Whether byte k of a coupling list belongs to the diagonal (R40). -/
def onDiagonal (k : Nat) : Bool := k / 12 == k % 12

/-- The table after a coupling list from index k on (R40). -/
def loadCells : Nat → List Byte → Sparse Nat → Sparse Nat
  | _, [], t => t
  | k, b :: bs, t => loadCells (k + 1) bs (if onDiagonal k then t else sparseSet 0 t k (min b.toNat 63))

/-- The bytes of a coupling list from index k on that are not stored as given (R40). -/
def cellsClamped : Nat → List Byte → Nat
  | _, [] => 0
  | k, b :: bs => (if onDiagonal k then clamped 0 b.toNat else clamped (min b.toNat 63) b.toNat) + cellsClamped (k + 1) bs

/-- The off-diagonal cells among the first n (R40). -/
def cellsWritten (n : Nat) : Nat := ((List.range n).filter fun k => !onDiagonal k).length

/-- The entries of a SPARES_LOAD list (R79, R194). -/
def spareList (bs : List Byte) (n : Nat) : List (Nat × BitVec 12) :=
  (List.range n).map fun i => (half bs (4 * i), BitVec.ofNat 12 (half bs (4 * i + 2)))

/-- Whether some code stands twice in a list. -/
def hasRepeat : List Nat → Bool
  | [] => false
  | a :: l => decide (a ∈ l) || hasRepeat l

/-- The users of the Spare List. -/
def State.spareUsers (s : State) : List Nat := s.spares.filterMap Spare.user

/-- SPARES_LOAD replaces the Spare List (R79). -/
def State.loadSpares (s : State) (list : List (Nat × BitVec 12)) : State :=
  let loaded : List Spare := list.map fun e => ⟨e.1, e.2, .available, none⟩
  (State.markAll { s with spares := loaded } ((List.range Config.spareRecords).map RecId.spare)).markAll
    (s.spareUsers.map RecId.carrier)

/-- SPARES_RELEASE of an index (R80): the state, and whether an entry was released. -/
def State.releaseSpare (s : State) (i : Nat) : State × Bool :=
  match s.spares[i]? with
  | none => (s, false)
  | some sp =>
    if sp.state = .available then (s, false)
    else
      let s' := State.mark { s with spares := s.spares.set i { sp with state := .available, user := none } } (.spare i)
      (match sp.user with
        | some u => s'.mark (.carrier u)
        | none => s', true)

end Sys2Proof.Machine
end

