-- ==== Sys2Proof/Machine/PlanEngine.lean ====
section
/-! DEFINITION. The Plan Engine (chapter 4): swap service, orders, steps, boundaries and ends. The engine goes
on by micro-steps until it waits for a transfer, a step boundary or room in a queue. -/

namespace Sys2Proof.Machine

/-! ### Control state -/

/-- Sets the engine's position. -/
def State.setPos (s : State) (p : EnginePos) : State := { s with engine := { s.engine with pos := p } }

/-- Replaces the order that the engine holds. -/
def State.setOrder (s : State) (o : EngineOrder) : State := { s with engine := { s.engine with order := some o } }

/-- Begins a write-back (R61). -/
def State.beginWb (s : State) (id code : Nat) (swap : Bool) : State := s.setWb (some ⟨id, code, swap, .ask⟩)

/-- The address of a slot (R164). -/
def State.slotAddr (s : State) (slot : Nat) : Nat := s.latch.boardAddr + 64 * slot

/-! ### Live swaps (R75 to R77) -/

/-- A spare meets the first three conditions for an entry (R76). -/
def Spare.fits (sp : Spare) (e : AirEntry) : Bool :=
  decide (sp.state = .available) && sp.mask.getLsbD e.stage && test1 e.tuneLow e.tuneHigh e.tuneStep sp.code

/-- The first spare from index `next` on that meets the first three conditions, with its index (R76). -/
def State.nextTry (s : State) (e : AirEntry) (next : Nat) : Option (Spare × Nat) :=
  s.spares.zipIdx.find? fun p => decide (next ≤ p.2) && p.1.fits e

/-- A spare whose bins have been read meets the fourth condition (R76). -/
def State.qualifies (s : State) (e : AirEntry) (sp : Spare) (taken : Bool) : Bool :=
  (s.firstFailing { e.tx with code := sp.code } (s.others e.id) (some sp.code) taken).isNone

/-- The Spare List when carrier `id` takes spare `i`: its old spare is barred, the new one used (R77). -/
def spareTaken (id i : Nat) (l : List Spare) : List Spare :=
  (l.zipIdx).map fun p =>
    if p.2 = i then { p.1 with state := .used, user := some id }
    else if p.1.user = some id then { p.1 with state := .barred, user := none }
    else p.1

/-- The spares that such a taking changes. -/
def sparesChanged (id i : Nat) (l : List Spare) : List RecId :=
  ((l.zipIdx).filter fun p => decide (p.2 = i) || decide (p.1.user = some id)).map fun p => RecId.spare p.2

/-- A live-class TUNE is offered; the Watch Unit holds one that is refused (R77, R159). -/
def State.liveTune (s : State) (id code : Nat) (rack : Option Rack) : State :=
  match rack with
  | none => s
  | some r =>
    let t : Tune := ⟨true, r.addr, r.slot, id, code⟩
    (s.offer r.line t).getD (s.holdTune r.line t)

/-- The engine answers the request of carrier `id`, which leaves the list (R74, R77). -/
def State.answerSwap (s : State) (id : Nat) (swapped : Bool) : State :=
  { s.unlist id with swapAnswers := s.swapAnswers ++ [⟨id, swapped⟩] }

/-- Sets what the engine's service of a request has come to. -/
def State.setService (s : State) (v : Option Service) : State := { s with engine := { s.engine with service := v } }

/-- A search for a spare ends without a result, and the engine reads no further bin; a write-back under way goes on
(log 55). -/
def State.endSearch (s : State) : State :=
  match s.engine.service with
  | some (.search _ _) => { s with engine := { s.engine with service := none, reading := none } }
  | _ => s

/-- A swap is applied, in the order of R77; its write-back and the marks that follow it remain to be made. -/
def State.applySwap (s : State) (e : AirEntry) (i : Nat) (sp : Spare) : State :=
  let moved := s.setCode e.id sp.code id
  let taken := { moved with spares := spareTaken e.id i moved.spares }
  let told := (taken.liveTune e.id sp.code e.rack).answerSwap e.id true
  { told with
    engine := { told.engine with
      wb := some ⟨e.id, sp.code, true, .ask⟩
      service := some (.writing e.id (sparesChanged e.id i s.spares))
      airChanged := true } }

/-- A spare has been chosen: the swap is applied if the request is still listed (R74, R77). A request removed while it
is served, and listed anew for the same carrier before the service ends, counts as still listed: R74 is silent on it
(log 51). -/
def State.swapChosen (s : State) (e : AirEntry) (i : Nat) (sp : Spare) : State :=
  if e.id ∈ s.engine.requests then s.applySwap e i sp else s.setService none

/-- No spare qualifies: that is the answer if the request is still listed, or listed anew (R74, R77; log 51). -/
def State.noSpare (s : State) (id : Nat) : State :=
  if id ∈ s.engine.requests then (s.setService none).answerSwap id false else s.setService none

/-- The service of the head request begins (R75). A LOCKED carrier is answered without a search. -/
def State.serveHead (s : State) : State :=
  match s.engine.requests with
  | [] => s
  | x :: _ =>
    match s.onAirEntry x with
    | none => s.answerSwap x false
    | some e => if e.locked then s.answerSwap x false else s.setService (some (.search x 0))

/-- The service tries the next spare (R76): the first from index `next` on that meets conditions 1 to 3 has its
bins read, and is taken or passed over. -/
def State.serviceStep (s : State) (x next : Nat) : State :=
  match s.onAirEntry x with
  | none => s.noSpare x
  | some e =>
    match s.nextTry e next with
    | none => s.noSpare x
    | some p => s.withBins p.1.code fun s taken =>
      if s.qualifies e p.1 taken then s.swapChosen e p.2 p.1 else s.setService (some (.search x (p.2 + 1)))

/-- The write-back of a swap goes on; its answer changes nothing but the Cache, and the marks follow it (R77). -/
def State.swapMicro (s : State) (id : Nat) (changed : List RecId) : Option State :=
  match s.wbStep with
  | .wait => none
  | .more s' => some s'
  | .done _ s' => some (((s'.setService none).mark (.carrier id)).markAll changed)

/-! ### Items and outcomes (R72) -/

/-- The items that get an outcome record, in list order. -/
def EngineOrder.items (o : EngineOrder) : List Nat :=
  match o.kind with
  | .airJoin => o.listA
  | .airLeave => o.listA
  | .changeover => o.listA ++ o.listB
  | .retune => [lowHalf o.body.p0]
  | _ => []

/-- The final code of an outcome (R72). -/
def State.finalCode (s : State) (r : ItemRecord) : Nat :=
  match r.outcome with
  | .placed => ((s.airEntry r.id).map AirEntry.code).getD r.code
  | .kept => ((s.airEntry r.id).map AirEntry.code).getD r.code
  | .left => r.code
  | _ => Config.noCode

/-- Bytes of an item outcome record (R72, R194). -/
def State.outcomeBytes (s : State) (r : ItemRecord) : List Byte :=
  halfBytes r.id ++ halfBytes (outcomeWord r.outcome (s.finalCode r))

/-- The whole outcome list: the items not reached are WITHDRAWN (R72). -/
def EngineOrder.allOutcomes (o : EngineOrder) : List ItemRecord :=
  o.outcomes ++ (o.items.drop o.outcomes.length).map fun id => ⟨id, .withdrawn, 0⟩

/-- An item is given its outcome. -/
def EngineOrder.answer (o : EngineOrder) (id : Nat) (out : ItemOutcome) (code : Nat) : EngineOrder :=
  { o with outcomes := o.outcomes ++ [⟨id, out, code⟩], cursor := o.cursor + 1 }

/-- The outcomes of one sort. -/
def EngineOrder.countOf (o : EngineOrder) (p : ItemOutcome → Bool) : Nat :=
  (o.outcomes.filter fun r => p r.outcome).length

/-- A carrier that the order put on air. -/
def ItemOutcome.onAir : ItemOutcome → Bool
  | .placed => true
  | .kept => true
  | _ => false

/-! ### Ends -/

/-- The engine hands its order's end to the Board Handler and holds no order (R72). -/
def State.handOver (s : State) (c : Completion) : State :=
  { s with
    engine := { s.engine with pos := .idle, order := none }
    board := { s.board with completions := s.board.completions ++ [c] } }

/-- An order ends: its outcome list, if it has one, is written first (R72; log 31). -/
def State.finish (s : State) (o : EngineOrder) (failed : Bool) (r : ResultCode) (c1 c2 : Nat) : State :=
  match o.allOutcomes with
  | [] => s.handOver ⟨o.slot, failed, r, c1, c2⟩
  | l => ((s.setOrder o).presentWrite .engine o.body.result (l.flatMap s.outcomeBytes)).setPos
      (.outcomeWait failed r c1 c2)

/-- The outcome list has been written, or has faulted (R72). -/
def State.outcomesWritten (s : State) (o : EngineOrder) (a : Answer) (failed : Bool) (r : ResultCode)
    (c1 c2 : Nat) : State :=
  match a with
  | .ok _ => s.handOver ⟨o.slot, failed, r, c1, c2⟩
  | .fault => s.handOver ⟨o.slot, true, if failed then r else .memory, c1, c2⟩

/-- A CHANGEOVER is withdrawn (R33, R89, R91). -/
def State.withdraw (s : State) (o : EngineOrder) : State × EngineOrder :=
  (s.withdrawOwned o.slot,
    { o with outcomes := o.outcomes.map fun r => if r.outcome.onAir then { r with outcome := .withdrawn } else r })

/-- Candidates examined by a RETUNE (R92, R93). -/
def EngineOrder.examined (o : EngineOrder) : Nat :=
  match o.joiner with
  | none => 0
  | some j => (j.walk.map Walk.examined).getD 1

/-- An order ends at a boundary for a cause of R68. -/
def State.endFor (s : State) (o : EngineOrder) (r : ResultCode) : State :=
  match o.kind with
  | .airJoin => s.finish o true r (o.countOf (· == .kept)) (o.countOf (· != .kept))
  | .airLeave => s.finish o true r (o.countOf (· == .left)) (o.countOf (· != .left))
  | .changeover =>
    let w := s.withdraw o
    w.1.finish w.2 true r 0 0
  | .retune => s.finish o true r o.examined 0
  | _ => s.finish o true r (min 65535 o.found) o.written

/-- The end of an AIR_JOIN or AIR_LEAVE whose last item has been handled (R85, R86). -/
def State.endItems (s : State) (o : EngineOrder) (good : ItemOutcome) : State :=
  let c2 := o.countOf (· != good)
  s.finish o false (if o.listA = [] then .nothingDone else if c2 = 0 then .ok else .partialDone)
    (o.countOf (· == good)) c2

/-- The end of a CHECK (R96). -/
def State.endCheck (s : State) (o : EngineOrder) : State :=
  s.finish o false (if o.found = 0 then .ok else if o.found = o.written then .conflicts else .truncated)
    (min 65535 o.found) o.written

/-- The end of a COMMIT phase (R90, R93). -/
def State.endCommit (s : State) (o : EngineOrder) : State :=
  match o.kind with
  | .changeover =>
    let placed := (o.outcomes.drop o.listA.length).all fun r => r.outcome.onAir
    s.finish o o.commitFault (if o.commitFault then .memory else if placed then .ok else .partialDone)
      (o.countOf ItemOutcome.onAir) o.notWritten
  | _ => s.finish o o.commitFault (if o.commitFault then .memory else .ok) o.examined o.notWritten

/-! ### Steps -/

/-- A step has ended, and its boundary lies ahead (R68). -/
def State.stepEnds (s : State) (o : EngineOrder) (k : StepKind) : State :=
  (s.setOrder { o with last := k }).setPos .boundary

/-- A lookup begins. -/
def State.beginLookup (s : State) (o : EngineOrder) (id : Nat) : State :=
  ((s.setOrder o).setLookup (some .ask)).setPos (.lookup id)

/-- A lookup answered MEMORY ends its step (R71). -/
def State.lookupFault (s : State) (o : EngineOrder) : State := s.stepEnds { o with faultMark := true } .item

/-- The first tests of an AIR_JOIN item (R84). -/
def State.joinItem (s : State) (o : EngineOrder) (id : Nat) : State :=
  if (s.airEntry id).isSome then s.stepEnds (o.answer id .alreadyOnAir 0) .item
  else if s.airFull then s.stepEnds (o.answer id .airSetFull 0) .item
  else s.beginLookup o id

/-- An AIR_JOIN item passes its tests (R84). -/
def State.joinKept (s : State) (o : EngineOrder) (id : Nat) (i : CarrierInfo) : State :=
  let o' := { o.answer id .kept i.assigned with joiner := none }
  let s := s.joinOnAir id i.assigned i
  if i.rack.isSome then (s.setOrder o').setPos (.tune [id] false) else s.stepEnds o' .item

/-- An AIR_JOIN item after its lookup: in VERIFY mode its tests read the map next (R84). -/
def State.joinLooked (s : State) (o : EngineOrder) (id : Nat) (a : LookupAnswer) : State :=
  match a with
  | .unknown => s.stepEnds (o.answer id .unknownCarrier 0) .item
  | .damaged => s.stepEnds (o.answer id .recordDamaged 0) .item
  | .memory => s.lookupFault o
  | .found i =>
    if i.assigned = Config.noCode then s.stepEnds (o.answer id .noFrequency 0) .item
    else if inRange i.tuneLow i.tuneHigh i.assigned = false then s.stepEnds (o.answer id .outOfRange 0) .item
    else if o.body.p0 = 0 then
      (s.setOrder { o with joiner := some ⟨id, i, .assigned, i.assigned, none, none⟩ }).setPos .step
    else s.joinKept o id i

/-- Tests 2 to 6 of an AIR_JOIN item (R84). -/
def State.joinVerify (s : State) (o : EngineOrder) (j : Joiner) : State :=
  s.withBins j.candidate fun s taken =>
    if (s.firstFailing ⟨j.id, j.candidate, j.id / 256, powerLevel j.info.powerClass⟩ (s.others j.id) none taken).isSome
    then s.stepEnds { o.answer j.id .refusedConflict 0 with joiner := none } .item
    else s.joinKept o j.id j.info

/-- A leaver is handled (R86, R87). -/
def State.leaveItem (s : State) (o : EngineOrder) (id : Nat) : State :=
  match s.onAirEntry id with
  | none => s.stepEnds (o.answer id .notOnAir 0) .item
  | some e => (s.leaveAir id).stepEnds (o.answer id .left e.code) .item

/-- The power of the carrier in hand: its entry's, or its record's when it has no entry. -/
def State.joinerPower (s : State) (j : Joiner) : Nat :=
  match s.airEntry j.id with
  | some e => e.power
  | none => powerLevel j.info.powerClass

/-- One examination (R17, R81, R88, R92): test 1, then the reading of the bins, then tests 2 to 6. -/
def State.examineStep (s : State) (o : EngineOrder) (j : Joiner) : State :=
  let ends := fun (s : State) (t : Option Nat) =>
    s.stepEnds { o with joiner := some { j with failedTest := t } } .examined
  if test1 j.info.tuneLow j.info.tuneHigh j.info.tuneStep j.candidate = false then ends s (some 1)
  else s.withBins j.candidate fun s taken =>
    ends s (s.firstFailing ⟨j.id, j.candidate, j.id / 256, s.joinerPower j⟩ (s.others j.id) none taken)

/-- A joiner ends without a placement, or the order fails under ALL_OR_NONE (R89). `closing` when the phase
ends with this boundary. -/
def State.joinerRefused (s : State) (o : EngineOrder) (id : Nat) (out : ItemOutcome) (closing : Bool) : State :=
  let o' := { o.answer id out 0 with joiner := none }
  if o.body.p0 = 0 then
    let w := s.withdraw o'
    w.1.finish w.2 true .noCandidate 0 0
  else (s.setOrder { o' with phase := if closing then .commit else .place }).setPos .step

/-- The starting point of a joiner's walk (R81). -/
def walkStart (i : CarrierInfo) : Nat :=
  if i.preferred ≠ Config.noCode ∧ test1 i.tuneLow i.tuneHigh i.tuneStep i.preferred = true then i.preferred
  else i.tuneLow

/-- A joiner's walk (R81). -/
def State.joinerWalk (s : State) (i : CarrierInfo) : Walk :=
  startWalk (walkStart i) i.tuneLow i.tuneHigh i.tuneStep none s.params.searchLimit

/-- What comes of a walk when it goes on: the next candidate or its end (R81). -/
inductive WalkMove where
  | candidate (x : Nat) (w : Walk)
  | ends (out : ItemOutcome)
  deriving DecidableEq, Repr

/-- A walk goes on (R81; log 13). -/
def Walk.move (w : Walk) : WalkMove :=
  if w.limit ≤ w.examined then .ends .searchLimit
  else
    match w.next with
    | (some x, w') => .candidate x { w' with examined := w.examined + 1 }
    | (none, _) => .ends .refusedConflict

/-- The first tests of a joiner (R88). -/
def State.placeItem (s : State) (o : EngineOrder) (id : Nat) : State :=
  if (s.airEntry id).isSome then s.joinerRefused o id .alreadyOnAir false
  else if s.airFull then s.joinerRefused o id .airSetFull false
  else s.beginLookup o id

/-- A joiner's record is found: how it is to be placed (R88). -/
def State.placeFound (s : State) (o : EngineOrder) (id : Nat) (i : CarrierInfo) : State :=
  let hand := fun (p : Placing) (x : Nat) (w : Option Walk) =>
    (s.setOrder { o with joiner := some ⟨id, i, p, x, none, w⟩ }).setPos .step
  if i.rangeEmpty then s.joinerRefused o id .outOfRange false
  else if i.assigned ≠ Config.noCode then hand (if i.locked then .locked else .assigned) i.assigned none
  else if i.locked then s.joinerRefused o id .noFrequency false
  else
    match (s.joinerWalk i).move with
    | .candidate x w => hand .walk x (some w)
    | .ends out => s.joinerRefused o id out false

/-- A joiner after its lookup (R88). -/
def State.placeLooked (s : State) (o : EngineOrder) (id : Nat) (a : LookupAnswer) : State :=
  match a with
  | .unknown => s.joinerRefused o id .unknownCarrier false
  | .damaged => s.joinerRefused o id .recordDamaged false
  | .memory => s.lookupFault o
  | .found i => s.placeFound o id i

/-- The PLACE phase takes its next joiner, or ends without a step of its own (R88, R89; log 22). -/
def State.placeStep (s : State) (o : EngineOrder) : State :=
  match o.joiner, o.listB[o.cursor]? with
  | some j, _ => s.examineStep o j
  | none, some id => s.placeItem o id
  | none, none =>
    if o.listB = [] then (s.setOrder { o with phase := .commit }).setPos .step else s.stepEnds o .phaseEnd

/-- A RETUNE that ends before or after its search without a commit (R92, R93). -/
def State.retuneFails (s : State) (o : EngineOrder) (out : ItemOutcome) (r : ResultCode) (examined : Nat) : State :=
  s.finish (o.answer (lowHalf o.body.p0) out 0) true r examined 0

/-- The first tests of a RETUNE (R92). -/
def State.beginRetune (s : State) (o : EngineOrder) : State :=
  let id := lowHalf o.body.p0
  match s.onAirEntry id with
  | none => s.retuneFails o .notOnAir .notOnAir 0
  | some e => if e.locked then s.retuneFails o .permission .permission 0 else s.beginLookup o id

/-- The walk of a RETUNE from code c (R93). -/
def State.retuneWalk (s : State) (c : Nat) (i : CarrierInfo) : Walk :=
  startWalk ((c : Int) + i.tuneStep) i.tuneLow i.tuneHigh i.tuneStep (some c) s.params.searchLimit

/-- The result code of a search that ends with an outcome (R92, R93). -/
def searchResult : ItemOutcome → ResultCode
  | .searchLimit => .searchLimit
  | _ => .refusedConflict

/-- A RETUNE after its lookup (R92, R93; log 23). -/
def State.retuneLooked (s : State) (o : EngineOrder) (id : Nat) (a : LookupAnswer) : State :=
  match a with
  | .unknown => s.retuneFails o .unknownCarrier .nothingDone 0
  | .damaged => s.retuneFails o .recordDamaged .nothingDone 0
  | .memory => s.finish o true .memory 0 0
  | .found i =>
    let hand := fun (p : Placing) (x : Nat) (w : Option Walk) =>
      (s.setOrder { o with joiner := some ⟨id, i, p, x, none, w⟩ }).setPos .step
    let target := lowHalf o.body.p1
    if i.rangeEmpty then s.retuneFails o .outOfRange .refusedConflict 0
    else if target ≠ Config.noCode then hand .target target none
    else
      match (s.retuneWalk (((s.onAirEntry id).map AirEntry.code).getD 0) i).move with
      | .candidate x w => hand .walk x (some w)
      | .ends out => s.retuneFails o out (searchResult out) 0

/-- A lookup has been answered. -/
def State.lookedUp (s : State) (o : EngineOrder) (id : Nat) (a : LookupAnswer) : State :=
  match o.kind with
  | .airJoin => s.joinLooked o id a
  | .changeover => s.placeLooked o id a
  | _ => s.retuneLooked o id a

/-! ### CHECK (R94 to R96) -/

/-- Whether a stage lies within a CHECK's scope (R94). -/
def EngineOrder.inScope (o : EngineOrder) (stage : Nat) : Bool :=
  decide (o.body.p0 = 255) || decide (o.body.p0 = stage)

/-- The next victim of the VICTIMS phase (R95). -/
def State.nextVictim (s : State) (o : EngineOrder) : Option AirEntry :=
  s.air.find? fun e => o.inScope e.stage &&
    match o.victim with
    | none => true
    | some (c, i) => decide (c < e.code) || (decide (c = e.code) && decide (i < e.id))

/-- The stage at which a spare is a victim, if the scope takes it (R94). -/
def EngineOrder.spareStage (o : EngineOrder) (sp : Spare) : Option Nat :=
  if sp.state = .available then (lowestStage sp.mask).filter o.inScope else none

/-- The next victim of the SPARES phase, with its index (R94). -/
def State.nextSpare (s : State) (o : EngineOrder) : Option (Spare × Nat) :=
  s.spares.zipIdx.find? fun p =>
    (match o.spareAt with
      | none => true
      | some i => decide (i < p.2)) && (o.spareStage p.1).isSome

/-- Conflict records that a CHECK may write (R96). -/
def EngineOrder.checkCapacity (o : EngineOrder) : Nat := min (o.body.capacity / 16) 65535

/-- The next conflict record is written (R96). -/
def State.writeConflict (s : State) (o : EngineOrder) (rec : List Byte) : State :=
  s.presentWrite .engine (o.body.result + 16 * o.written) rec

/-- A victim's conflicts have been found: they are counted, and written while room is left (R96). -/
def State.checkStep (s : State) (o : EngineOrder) (k : StepKind) (l : List Conflict) : State :=
  let o' := { o with found := o.found + l.length, last := k }
  match (l.take (o.checkCapacity - o.written)).map Conflict.bytes with
  | [] => s.stepEnds o' k
  | b :: rest => ((s.setOrder o').writeConflict o' b).setPos (.conflictWait (b :: rest))

/-- A conflict record has been written, or has faulted (R72, R96). -/
def State.conflictWritten (s : State) (o : EngineOrder) (left : List (List Byte)) (a : Answer) : State :=
  match a with
  | .fault => s.stepEnds { o with faultMark := true } o.last
  | .ok _ =>
    let o' := { o with written := o.written + 1 }
    match left.tail with
    | [] => s.stepEnds o' o'.last
    | b :: rest => ((s.setOrder o').writeConflict o' b).setPos (.conflictWait (b :: rest))

/-- Whether a CHECK evaluates spares (R94). -/
def EngineOrder.wantsSpares (o : EngineOrder) : Bool := o.body.p1.testBit 0

/-- A step of the SPARES phase, or the end of the CHECK. -/
def State.spareStep (s : State) (o : EngineOrder) : State :=
  match s.nextSpare o with
  | some p =>
    s.withBins p.1.code fun s taken =>
      s.checkStep { o with spareAt := some p.2 } .spare (s.spareConflicts p.1 ((o.spareStage p.1).getD 0) taken)
  | none => s.endCheck o

/-- A step of the VICTIMS phase, or what follows it: a VICTIMS phase with no victim gives way to SPARES with no boundary
and no reading of the stop word (R94; log 59). -/
def State.victimStep (s : State) (o : EngineOrder) : State :=
  match s.nextVictim o with
  | some e =>
    s.withBins e.code fun s taken =>
      s.checkStep { o with victim := some (e.code, e.id) } .victim (s.entryConflicts e taken)
  | none => if o.wantsSpares then s.spareStep { o with phase := .spares } else s.endCheck o

/-! ### COMMIT (R90, R93) -/

/-- The COMMIT phase of a CHANGEOVER begins (R32, R90). -/
def State.beginCommit (s : State) (o : EngineOrder) : State :=
  ((s.commitOwned o.slot).setOrder o).setPos
    (.commitWrite ((o.outcomes.filter fun r => decide (r.outcome = .placed)).map ItemRecord.id))

/-- The COMMIT phase of a RETUNE begins (R93). -/
def State.commitRetune (s : State) (o : EngineOrder) (j : Joiner) : State :=
  let i := j.info
  let moved := s.setCode j.id j.candidate fun e =>
    { e with tuneLow := i.tuneLow, tuneHigh := i.tuneHigh, tuneStep := i.tuneStep }
  let o' := { o.answer j.id .placed j.candidate with phase := .commit }
  ((moved.retuneNotice j.id).setOrder o').setPos (.commitWrite [j.id])

/-- The code that the Air Set holds for a carrier. -/
def State.codeOf (s : State) (id : Nat) : Nat := ((s.airEntry id).map AirEntry.code).getD Config.noCode

/-- The next write-back of a COMMIT, or the TUNEs after the last (R90, R93). -/
def State.commitNext (s : State) (o : EngineOrder) (left : List Nat) : State :=
  match left with
  | [] => s.setPos (.tune ((o.outcomes.filter fun r => r.outcome.onAir).map ItemRecord.id) false)
  | id :: _ => (s.beginWb id (s.codeOf id) false).setPos (.commitWriteWait left)

/-- A write-back of a COMMIT has ended (R90, R93). -/
def State.commitWritten (s : State) (o : EngineOrder) (left : List Nat) (a : WriteBackAnswer) : State :=
  (s.setOrder
    { o with
      commitFault := o.commitFault || decide (a = .fault)
      notWritten := if a = .written then o.notWritten else o.notWritten + 1 }).setPos (.commitWrite left.tail)

/-- The last TUNE of an item or a COMMIT has been accepted. -/
def State.tunesSent (s : State) (o : EngineOrder) : State :=
  if o.kind = .airJoin then s.stepEnds o .item else s.endCommit o

/-- The next plan-class TUNE is offered (R83). -/
def State.tuneNext (s : State) (o : EngineOrder) (left : List Nat) : State :=
  match left with
  | [] => s.tunesSent o
  | id :: rest =>
    match (s.airEntry id).bind fun e => e.rack.map fun r => (r, e.code) with
    | none => s.setPos (.tune rest false)
    | some (r, code) =>
      match s.offer r.line ⟨false, r.addr, r.slot, id, code⟩ with
      | some s' => s'.setPos (.tune rest false)
      | none => s.setPos (.tuneHeld left)

/-! ### Boundaries (R68, R82) -/

/-- What the order does next if no cause ends it. -/
inductive NextMove where
  /-- the next step of the phase in hand, or of the phase given -/
  | step (phase : Phase)
  /-- the candidate is examined afresh (R82) -/
  | again
  /-- the walk goes on to a candidate -/
  | candidate (x : Nat) (w : Walk)
  /-- the candidate is taken -/
  | accept
  /-- the carrier in hand gets an outcome without a code -/
  | refuse (out : ItemOutcome)
  /-- the order has no further step -/
  | finish
  deriving DecidableEq, Repr

/-- What comes of the carrier in hand after its examination (R81, R82, R88, R92). -/
def State.verdict (s : State) (j : Joiner) : NextMove :=
  let walkOn := fun (w : Walk) =>
    match w.move with
    | .candidate x w' => NextMove.candidate x w'
    | .ends out => .refuse out
  let barred := fun (t : Nat) => NextMove.refuse (if t = 1 then .outOfRange else .refusedConflict)
  if s.engine.airChanged then .again
  else
    match j.failedTest, j.placing with
    | none, _ => .accept
    | some t, .locked => barred t
    | some t, .target => barred t
    | some _, .assigned => walkOn (s.joinerWalk j.info)
    | some _, .walk => walkOn (j.walk.getD (s.joinerWalk j.info))

/-- Whether the joiner in hand is the last of its list. -/
def EngineOrder.lastJoiner (o : EngineOrder) : Bool := decide (o.listB.length ≤ o.cursor + 1)

/-- The next move of the order, and what kind of boundary that makes of the present one (R68, R69). The boundary after the
faulted lookup of a joiner counts as one inside the PLACE phase, of the last joiner too, while a victim whose record
write faulted, before the SPARES phase, makes one at a change of phase (log 58). -/
def State.nextMove (s : State) (o : EngineOrder) : NextMove × Ahead :=
  match o.last with
  | .item =>
    let handled := if o.faultMark then o.cursor + 1 else o.cursor
    if handled < o.listA.length ∨ o.phase = .place then (.step o.phase, .same)
    else if o.phase = .leave then (.step .place, .next)
    else (.finish, .last)
  | .examined =>
    match o.joiner with
    | none => (.step o.phase, .same)
    | some j =>
      let m := s.verdict j
      (m,
        match m with
        | .accept => if o.kind = .retune ∨ o.lastJoiner = true then .next else .same
        | .refuse _ => if o.kind = .changeover ∧ o.body.p0 ≠ 0 ∧ o.lastJoiner = true then .next else .same
        | _ => .same)
  | .victim =>
    if (s.nextVictim o).isSome then (.step .victims, .same)
    else if o.wantsSpares ∧ (s.nextSpare o).isSome then (.step .spares, .next)
    else (.finish, .last)
  | .spare => if (s.nextSpare o).isSome then (.step .spares, .same) else (.finish, .last)
  | .phaseEnd => (.step .commit, .next)

/-- The order starts the next phase's lists from their beginning. -/
def EngineOrder.enter (o : EngineOrder) (p : Phase) : EngineOrder :=
  { o with phase := p, cursor := if p = o.phase then o.cursor else 0 }

/-- The order goes on from a boundary (R82, R88, R92). -/
def State.goOn (s : State) (o : EngineOrder) (m : NextMove) : State :=
  match m with
  | .step p => (s.setOrder (o.enter p)).setPos .step
  | .again => (s.setOrder o).setPos .step
  | .finish =>
    match o.kind with
    | .airJoin => s.endItems o .kept
    | .airLeave => s.endItems o .left
    | _ => s.endCheck o
  | .candidate x w =>
    (s.setOrder { o with joiner := o.joiner.map fun j =>
      { j with placing := .walk, candidate := x, walk := some w, failedTest := none } }).setPos .step
  | .accept =>
    match o.joiner with
    | none => s
    | some j =>
      if o.kind = .retune then s.commitRetune o j
      else
        let kept := decide (j.placing = .locked) || decide (j.placing = .assigned)
        let o' := o.answer j.id (if kept then .kept else .placed) j.candidate
        ((s.joinPending j.id j.candidate j.info o.slot).setOrder
          { o' with joiner := none, phase := if o.lastJoiner then .commit else .place }).setPos .step
  | .refuse out =>
    match o.joiner with
    | none => s
    | some j =>
      if o.kind = .retune then s.retuneFails o out (searchResult out) o.examined
      else s.joinerRefused o j.id out o.lastJoiner

/-- The boundary has served its swaps: the stop word is read when due (R68, R69; log 40). -/
def State.boundaryStop (s : State) (o : EngineOrder) : State :=
  let ahead := (s.nextMove o).2
  let n := if ahead = .last then o.stepCounter else o.stepCounter + 1
  if ahead ≠ .last ∧ (n = Config.stopSteps ∨ ahead = .next) then
    ((s.setOrder { o with ahead := ahead, stepCounter := 0 }).presentRead .engine (s.slotAddr o.slot + 2) 2).setPos
      .stopWait
  else (s.setOrder { o with ahead := ahead, stepCounter := n }).setPos .decide

/-- The stop word has been read (R69). -/
def State.stopRead (s : State) (o : EngineOrder) (a : Answer) : State :=
  (s.setOrder
    (match a with
      | .fault => { o with faultMark := true }
      | .ok bs => { o with stopMark := decide (half bs 0 ≠ 0) })).setPos .decide

/-- The boundary ends the order for the first cause present, or lets it go on (R68). -/
def State.decideBoundary (s : State) (o : EngineOrder) : State :=
  if o.faultMark then s.endFor o .memory
  else if o.ahead ≠ .last ∧ o.haltMark = true then s.endFor o .halted
  else if o.ahead ≠ .last ∧ o.stopMark = true then s.endFor o .stopped
  else s.goOn o (s.nextMove o).1

/-! ### Orders begin (R67) -/

/-- An order as it is taken (R67); one taken after a halt has begun carries the halt mark (log 21). -/
def newOrder (slot : Nat) (kind : OrderKind) (body : OrderBody) (haltMark : Bool) : EngineOrder :=
  { slot := slot, kind := kind, body := body
    phase := match kind with
      | .airJoin => .items
      | .airLeave => .items
      | .changeover => .leave
      | .retune => .search
      | .check => .victims
      | _ => .whole
    listA := [], listB := [], cursor := 0, stepCounter := 0, outcomes := [], haltMark := haltMark
    faultMark := false, stopMark := false, last := .item, ahead := .same, joiner := none, victim := none
    spareAt := none, found := 0, written := 0, commitFault := false, notWritten := 0 }

/-- The bytes of an item of list_a (R194). -/
def itemSize : OrderKind → Nat
  | .loadCoupling => 1
  | .sparesLoad => 4
  | .rackRoster => 1
  | _ => 2

/-- SET_PARAMS (R43). -/
def State.setParams (s : State) (o : EngineOrder) : State :=
  { s with params := readParams o.body }.finish o false .ok (paramsClamped o.body) 0

/-- LOAD_COUPLING with its list read (R40, R41). -/
def State.loadCoupling (s : State) (o : EngineOrder) (bs : List Byte) : State :=
  { s with coupling := loadCells 0 bs s.coupling }.finish o false .ok (cellsClamped 0 bs) (cellsWritten bs.length)

/-- SPARES_LOAD with its list read (R79). -/
def State.sparesLoad (s : State) (o : EngineOrder) (bs : List Byte) : State :=
  let l := spareList bs o.body.listACount
  if l.any fun e => decide (Config.codes ≤ e.1) then s.finish o true .badOrder 0 0
  else if hasRepeat (l.map Prod.fst) then s.finish o true .duplicate 0 0
  else (s.loadSpares l).finish o false .ok l.length (l.filter fun e => decide (e.2 = 0)).length

/-- SPARES_RELEASE (R80). -/
def State.sparesRelease (s : State) (o : EngineOrder) : State :=
  let r := s.releaseSpare o.body.p0
  if r.2 then r.1.finish o false .ok 1 0 else s.finish o false .nothingDone 0 0

/-- FLUSH_CACHE (R64). -/
def State.flushCache (s : State) (o : EngineOrder) : State :=
  let n := flaggedAreas o.body.p0
  if n = 0 then s.finish o false .nothingDone 0 0
  else
    let r := s.flush o.body.p0
    r.1.finish o false .ok (16 * n) r.2

/-- The engine reads list_a (R67). -/
def State.readListA (s : State) (o : EngineOrder) : State :=
  ((s.setOrder o).presentRead .engine o.body.listA (o.body.listACount * itemSize o.kind)).setPos .listAWait

/-- The lists of a CHANGEOVER have been read: list_b is read next, unless it is empty (R67). With no leaver the order
begins in PLACE: the empty LEAVE phase has no boundary and no reading of the stop word (log 59). -/
def State.readListB (s : State) (o : EngineOrder) : State :=
  if o.body.listBCount = 0 then
    (s.setOrder { o with phase := if o.listA = [] then .place else .leave }).setPos .step
  else ((s.setOrder o).presentRead .engine o.body.listB (o.body.listBCount * 2)).setPos .listBWait

/-- An order begins: its lists are read, or its work is done at once (R67, R69). An empty list is not read. -/
def State.beginOrder (s : State) (o : EngineOrder) : State :=
  match o.kind with
  | .setParams => s.setParams o
  | .sparesRelease => s.sparesRelease o
  | .flushCache => s.flushCache o
  | .loadCoupling => if o.body.listACount = 0 then s.finish o false .nothingDone 0 0 else s.readListA o
  | .sparesLoad => if o.body.listACount = 0 then s.sparesLoad o [] else s.readListA o
  | .airJoin => if o.body.listACount = 0 then s.endItems o .kept else s.readListA o
  | .airLeave => if o.body.listACount = 0 then s.endItems o .left else s.readListA o
  | .changeover => if o.body.listACount = 0 then s.readListB o else s.readListA o
  | .retune => s.beginRetune o
  | _ => (s.setOrder o).setPos .step

/-- A list read has faulted (R67; log 24): its items have no carrier ID. -/
def State.listFault (s : State) (o : EngineOrder) (aRead : Bool) : State :=
  let unread := fun n => List.replicate n Config.noId
  s.finish { o with
      listA := if aRead then o.listA else unread o.body.listACount
      listB := unread o.body.listBCount }
    true .memory 0 0

/-- list_a has been read (R67). -/
def State.listARead (s : State) (o : EngineOrder) (a : Answer) : State :=
  match a with
  | .fault => s.listFault o false
  | .ok bs =>
    match o.kind with
    | .loadCoupling => s.loadCoupling o bs
    | .sparesLoad => s.sparesLoad o bs
    | .changeover => s.readListB { o with listA := halfList bs o.body.listACount }
    | _ => (s.setOrder { o with listA := halfList bs o.body.listACount }).setPos .step

/-- list_b has been read (R67). With no leaver the order begins in PLACE (log 59). -/
def State.listBRead (s : State) (o : EngineOrder) (a : Answer) : State :=
  match a with
  | .fault => s.listFault o true
  | .ok bs =>
    (s.setOrder
      { o with
        listB := halfList bs o.body.listBCount
        phase := if o.listA = [] then .place else .leave }).setPos .step

/-- A step of an AIR_JOIN: the carrier in hand is verified, or the next item is begun (R84). -/
def State.joinStep (s : State) (o : EngineOrder) : State :=
  match o.joiner, o.listA[o.cursor]? with
  | some j, _ => s.joinVerify o j
  | none, some id => s.joinItem o id
  | none, none => s.stepEnds o .item

/-- A step of an AIR_LEAVE or of a LEAVE phase: the next item is handled (R86, R87). -/
def State.leaveStep (s : State) (o : EngineOrder) : State :=
  match o.listA[o.cursor]? with
  | some id => s.leaveItem o id
  | none => s.stepEnds o .item

/-- The next step of the phase in hand. -/
def State.beginStep (s : State) (o : EngineOrder) : State :=
  match o.phase with
  | .items => if o.kind = .airJoin then s.joinStep o else s.leaveStep o
  | .leave => s.leaveStep o
  | .place => s.placeStep o
  | .commit => s.beginCommit o
  | .search =>
    match o.joiner with
    | some j => s.examineStep o j
    | none => s.stepEnds o .examined
  | .victims => s.victimStep o
  | .spares => s.spareStep o
  | .whole => s.finish o false .ok 0 0

/-! ### The engine goes on -/

/-- Takes the answer of an engine transfer. -/
def State.engineMail (s : State) (f : State → Answer → State) : Option State :=
  s.mail.engine.map fun a => f (s.setMail .engine none) a

/-- The next micro-step of the order in hand, none while the engine waits. A TUNE that is refused begins COMMIT_WAIT; the
engine takes a swap request that stands on the list at that moment as one listed in the wait, so that a COMMIT_WAIT
boundary falls at once and serves it (R68; log 56). -/
def State.orderMicro (s : State) (o : EngineOrder) : Option State :=
  let serveOr := fun (t : State) => if s.engine.requests = [] then t else s.serveHead
  match s.engine.pos with
  | .idle => none
  | .taken => some (serveOr (s.beginOrder o))
  | .listAWait => s.engineMail fun s a => s.listARead o a
  | .listBWait => s.engineMail fun s a => s.listBRead o a
  | .step => some (s.beginStep o)
  | .lookup id =>
    match s.lookupStep id with
    | .wait => none
    | .more s' => some s'
    | .done a s' => some (s'.lookedUp o id a)
  | .conflictWait left => s.engineMail fun s a => s.conflictWritten o left a
  | .boundary => none
  | .serve => some (serveOr (s.boundaryStop o))
  | .stopWait => s.engineMail fun s a => s.stopRead o a
  | .decide => some (s.decideBoundary o)
  | .commitWrite left => some (s.commitNext o left)
  | .commitWriteWait left =>
    match s.wbStep with
    | .wait => none
    | .more s' => some s'
    | .done a s' => some (s'.commitWritten o left a)
  | .tune left waited => some (if waited then serveOr (s.tuneNext o left) else s.tuneNext o left)
  | .tuneHeld left => if s.engine.requests = [] then none else some (s.setPos (.tune left true))
  | .outcomeWait failed r c1 c2 => s.engineMail fun s a => s.outcomesWritten o a failed r c1 c2

/-- The next micro-step of the engine, none while it waits; it waits for every read of a bin (R106). -/
def State.engineMicro (s : State) : Option State :=
  if s.readsBins then none
  else
    match s.engine.service with
    | some (.search id next) => some (s.serviceStep id next)
    | some (.writing id changed) => s.swapMicro id changed
    | none =>
      match s.engine.order with
      | none => if s.engine.requests = [] then none else some s.serveHead
      | some o => s.orderMicro o

/-- Micro-steps until the block waits, at most `n` of them (log 33). -/
def runMicro (f : State → Option State) : Nat → State → State
  | 0, s => s
  | n + 1, s =>
    match f s with
    | none => s
    | some s' => runMicro f n s'

/-- The engine goes on as far as it can. -/
def State.engineGo (s : State) : State := runMicro State.engineMicro Config.microSteps s

/-- The engine takes an order from the Board Handler (R67). -/
def State.engineTake (s : State) (slot : Nat) (kind : OrderKind) (body : OrderBody) : State :=
  ((s.setOrder (newOrder slot kind body !s.runBit)).setPos .taken).engineGo

/-- The engine's states (R66). -/
inductive EngineState where
  | idle | running | swapping | commitWait
  deriving DecidableEq, Repr

/-- The state of R66 in which the engine stands. -/
def Engine.state (e : Engine) : EngineState :=
  if e.service.isSome then .swapping
  else
    match e.order, e.pos with
    | none, _ => .idle
    | some _, .tuneHeld _ => .commitWait
    | some _, .tune _ true => .commitWait
    | some _, _ => .running

end Sys2Proof.Machine
end

