-- ==== Sys2Proof/Machine/SweepUnit.lean ====
section
/-! DEFINITION. The Sweep Unit (chapter 6), the settings destination (R192), and their commands. -/

namespace Sys2Proof.Machine

/-! ### The Sweep Unit's state -/

/-- Replaces the Sweep Unit's state. -/
def State.setSweep (s : State) (u : Sweep) : State := { s with sweep := u }

/-- The counters and the position of an order in hand. -/
def State.sweepTo (s : State) (c : SweepCount) (p : SweepPos) : State :=
  s.setSweep { s.sweep with count := c, pos := p }

/-- The code of the point in hand (6.3). -/
def SweepOrder.code (o : SweepOrder) (c : SweepCount) : Nat := o.first + c.index * o.step

/-- The points of one pass (6.2). -/
def SweepOrder.points (o : SweepOrder) : Nat := (o.last - o.first) / o.step + 1

/-- The states of R108. -/
inductive SweepState where
  | idle | tuning | lockWait | dwell | storing
  deriving DecidableEq, Repr

/-- The state of R108 in which the unit stands. -/
def SweepPos.state : SweepPos → SweepState
  | .idle => .idle
  | .tuning => .tuning
  | .lockWait => .lockWait
  | .dwell => .dwell
  | .converting => .dwell
  | .bufferWait => .storing
  | .progressWait => .storing
  | .stopWait => .storing

/-! ### Taking an order (R109 to R111) -/

/-- The fields of a SWEEP as decoded (R109). -/
def decodeSweep (slot slotAddr : Nat) (b : OrderBody) : SweepOrder :=
  { slot := slot, slotAddr := slotAddr, first := lowHalf b.p0, last := highHalf b.p0
    step := readStep (paramByte b.p1 0), dwell := max 1 (paramByte b.p1 1), passes := paramByte b.p1 2
    lockLimit := max 1 (paramByte b.p2 0), threshold := min 200 (paramByte b.p3 0)
    buffer := b.result, capacity := b.capacity }

/-- The checks of R110. -/
def SweepOrder.sound (o : SweepOrder) : Bool :=
  decide (o.first < Config.codes) && decide (o.last < Config.codes) && decide (o.first ≤ o.last) &&
    decide (o.points ≤ o.capacity)

/-- The unit hands an end to the Board Handler and returns to IDLE (R118). -/
def State.sweepEnds (s : State) (o : SweepOrder) (c : SweepCount) (failed : Bool) (r : ResultCode) : State :=
  { s with
    sweep := { s.sweep with pos := .idle, order := none }
    board := { s.board with completions := s.board.completions ++ [⟨o.slot, failed, r, c.passCount, c.failTotal⟩] } }

/-- A point begins in TUNING (R112). -/
def State.beginPoint (s : State) (c : SweepCount) : State :=
  s.setSweep { s.sweep with count := c, pos := .tuning, line := { s.sweep.line with clk := false, latch := false } }

/-- The unit takes a SWEEP (R109 to R111): its threshold goes to the map, every counter is 0 and the halt mark
clear. -/
def State.sweepTake (s : State) (slot : Nat) (b : OrderBody) : State :=
  let o := decodeSweep slot (s.slotAddr slot) b
  if o.sound then
    State.beginPoint { s with occThreshold := o.threshold, sweep := { s.sweep with order := some o } }
      { SweepCount.reset with points := o.points }
  else s.sweepEnds o SweepCount.reset true .badOrder

/-! ### The tuner line (R112) -/

/-- The levels of one bit of the tuner word, half a period of CLK each: CLK low, then high. -/
def tunerBit (b : Bool) : List TunerLine := [⟨false, b, false⟩, ⟨true, b, false⟩]

/-- The levels of the tuner line while a word is sent, half a period of CLK each (R112): sixteen bits, the most
significant first, then LATCH for one period with CLK low, then LATCH low. DATA keeps the word's last bit (log 28). -/
def tunerWave (w : BitVec 16) : List TunerLine :=
  ((List.range 16).flatMap fun i => tunerBit (w.getLsbD (15 - i))) ++
    [⟨false, w.getLsbD 0, true⟩, ⟨false, w.getLsbD 0, true⟩, ⟨false, w.getLsbD 0, false⟩]

/-- A tuner: the levels last seen, the bits shifted in, and the word last taken. -/
structure Tuner where
  line : TunerLine
  shift : BitVec 16
  word : Option (BitVec 16)
  deriving DecidableEq, Repr

/-- The tuner takes a bit at each rise of CLK, and its word at the fall of LATCH (R112). -/
def Tuner.sees (t : Tuner) (l : TunerLine) : Tuner :=
  let shift := if !t.line.clk && l.clk then t.shift <<< 1 ||| (if l.data then 1 else 0) else t.shift
  { line := l, shift := shift, word := if t.line.latch && !l.latch then some shift else t.word }

/-- The word that a tuner has taken at the end of a wave. -/
def tunerTakes (line : TunerLine) (word : Option (BitVec 16)) (wave : List TunerLine) : Tuner :=
  wave.foldl Tuner.sees ⟨line, 0, word⟩

/-! ### One point -/

/-- The point's level is written to the buffer (R115). -/
def State.storePoint (s : State) (o : SweepOrder) (c : SweepCount) (level : Nat) (failed : Bool) : State :=
  (s.sweepTo { c with level := level, lockFailed := failed } .bufferWait).presentWrite .sweep (o.buffer + c.index)
    [oneByte level]

/-- The level code of a reading (R114). -/
def levelOf (reading : BitVec 10) : Nat := min (reading.toNat / 4) 200

/-- The counters after a point whose buffer write succeeded (R116). -/
def SweepCount.counted (c : SweepCount) : SweepCount :=
  if c.lockFailed then { c with failRun := c.failRun + 1, failTotal := raise16 c.failTotal }
  else { c with failRun := 0 }

/-- A point ends: the first of R118's cases 2 and 3, or the reading of the stop word. -/
def State.pointEnd (s : State) (o : SweepOrder) (c : SweepCount) : State :=
  let s := s.sweepTo c .stopWait
  if Config.lockFailures ≤ c.failRun then s.sweepEnds o c true .tunerFault
  else if c.haltMark then s.sweepEnds o c true .halted
  else s.presentRead .sweep (o.slotAddr + 2) 2

/-- A point's buffer write has succeeded: the map takes the measurement and the counters change; the last point
of a pass counts it and writes the progress field (R115 to R117). -/
def State.pointStored (s : State) (o : SweepOrder) (c : SweepCount) : State :=
  let s := s.measure (o.code c) c.level
  let c := c.counted
  if c.index + 1 < c.points then s.pointEnd o { c with index := c.index + 1, passEnded := false }
  else
    let n := raise16 c.passCount
    (s.sweepTo { c with passCount := n, passEnded := true } .progressWait).presentWrite .sweep
      (o.slotAddr + 50) (halfBytes n)

/-- The progress write of a pass has ended: the point index returns to 0 for the next pass (R117). After a fault, with no
next pass to come, it stays (log 60). -/
def State.passWritten (s : State) (o : SweepOrder) (c : SweepCount) (a : Answer) : State :=
  match a with
  | .fault => s.sweepEnds o c true .memory
  | .ok _ => s.pointEnd o { c with index := 0 }

/-- The stop word of a point has been read (R118, cases 4 to 6). -/
def State.pointStop (s : State) (o : SweepOrder) (c : SweepCount) (a : Answer) : State :=
  match a with
  | .fault => s.sweepEnds o c true .memory
  | .ok bs =>
    if half bs 0 ≠ 0 then s.sweepEnds o c true .stopped
    else if c.passEnded ∧ o.passes ≠ 0 ∧ c.passCount = o.passes then s.sweepEnds o c false .ok
    else s.beginPoint c

/-- Goes on when the Sweep Unit holds an order and stands at a position; otherwise nothing happens (log 4). -/
def State.sweepAt (s : State) (p : SweepPos) (f : State → SweepOrder → SweepCount → State) : State :=
  match s.sweep.order with
  | none => s
  | some o => if s.sweep.pos = p then f s o s.sweep.count else s

/-- Goes on with the answer of a sweep transfer that has ended (log 4). -/
def State.sweepMail (s : State) (p : SweepPos) (f : State → SweepOrder → SweepCount → Answer → State) : State :=
  match s.mail.sweep with
  | none => s
  | some a => s.sweepAt p fun s o c => f (s.setMail .sweep none) o c a

/-! ### The settings destination (R192) -/

/-- The settings destination's work. -/
def State.setJob (s : State) (j : SettingsJob) : State := { s with settings := { s.settings with job := j } }

/-- The settings destination takes a STORE_SETTINGS: it reads the block (R192). -/
def State.settingsTake (s : State) (slot : Nat) (b : OrderBody) : State :=
  (s.setJob (.reading slot)).presentRead .settings b.listA Config.settingsBytes

/-- The settings destination's end. -/
def State.settingsEnds (s : State) (c : Completion) : State :=
  { s.setJob .idle with board := { s.board with completions := s.board.completions ++ [c] } }

/-- The read of the block has ended (R192). -/
def State.settingsGo (s : State) : State :=
  match s.settings.job, s.mail.settings with
  | .reading slot, some .fault => (s.setMail .settings none).settingsEnds ⟨slot, true, .memory, 0, 0⟩
  | .reading slot, some (.ok bs) => (s.setMail .settings none).setJob (.writing slot bs)
  | _, _ => s

/-! ### Commands -/

/-- TUNING_WORD_SENT (R112): the wave of the point's code has gone out, and the tuner has seen it. The tuner is taken to
be present and powered: an absent one would take no word (log 53). -/
def execTuningWordSent (s : State) : Host.Outcome State Fault Refusal :=
  .next (s.sweepAt .tuning fun s o c =>
    let t := tunerTakes s.sweep.line s.tuner (tunerWave (BitVec.ofNat 16 (o.code c)))
    { s with sweep := { s.sweep with pos := .lockWait, line := t.line }, tuner := t.word })

/-- LOCK_COMES (R113). -/
def execLockComes (s : State) : Host.Outcome State Fault Refusal :=
  .next (s.sweepAt .lockWait fun s _ c => s.sweepTo c .dwell)

/-- LOCK_LIMIT_EXPIRY (R113): the point is a lock failure with level code 255. -/
def execLockLimitExpiry (s : State) : Host.Outcome State Fault Refusal :=
  .next (s.sweepAt .lockWait fun s o c => s.storePoint o c 255 true).serveBus

/-- DWELL_END (R114): LOCK high begins the conversion; LOCK low is a lock failure. -/
def execDwellEnd (lock : Bool) (s : State) : Host.Outcome State Fault Refusal :=
  .next (s.sweepAt .dwell fun s o c => if lock then s.sweepTo c .converting else s.storePoint o c 255 true).serveBus

/-- CONVERSION_COMPLETE (R114): the point's level code, and the buffer write. -/
def execConversionComplete (reading : BitVec 10) (s : State) : Host.Outcome State Fault Refusal :=
  .next (s.sweepAt .converting fun s o c => s.storePoint o c (levelOf reading) false).serveBus

/-- BUFFER_WRITE_DONE (R115 to R118). -/
def execBufferWriteDone (s : State) : Host.Outcome State Fault Refusal :=
  .next (s.sweepMail .bufferWait fun s o c a =>
    match a with
    | .fault => s.sweepEnds o c true .memory
    | .ok _ => s.pointStored o c).serveBus

/-- PROGRESS_WRITE_DONE (R117, R118). -/
def execProgressWriteDone (s : State) : Host.Outcome State Fault Refusal :=
  .next (s.sweepMail .progressWait fun s o c a => s.passWritten o c a).serveBus

/-- SWEEP_STOP_WORD_READ_DONE (R118, cases 4 to 6). -/
def execSweepStopWordReadDone (s : State) : Host.Outcome State Fault Refusal :=
  .next (s.sweepMail .stopWait fun s o c a => s.pointStop o c a).serveBus

/-- SETTINGS_WRITE_DONE (R192): the new block replaces the old one, and the order ends DONE. -/
def execSettingsWriteDone (s : State) : Host.Outcome State Fault Refusal :=
  match s.settings.job with
  | .writing slot block =>
    .next (State.settingsEnds { s with settings := { s.settings with block := block } }
      ⟨slot, false, .ok, if settingsPass block then 1 else 0, 0⟩)
  | _ => .next s

end Sys2Proof.Machine
end

