-- ==== Sys2Proof/Machine/BoardHandler.lean ====
section
/-! DEFINITION. The Board Handler (chapter 9, 9.1 to 9.5): triggers, surveys, screening, dispatch and
completions, and its commands. -/

namespace Sys2Proof.Machine

/-! ### Control state -/

/-- Sets the Board Handler's position. -/
def State.setBoardPos (s : State) (p : BoardPos) : State := { s with board := { s.board with pos := p } }

/-- A slot is held (R164). -/
def Board.holds (b : Board) (slot : Nat) : Bool :=
  b.heldEngine == some slot || b.heldSweep == some slot || b.heldSettings == some slot

/-- The destination of a held kind (R169). -/
def heldDest : OrderKind → Option HeldDest
  | .setParams => some .engine
  | .loadCoupling => some .engine
  | .sparesLoad => some .engine
  | .sparesRelease => some .engine
  | .flushCache => some .engine
  | .airJoin => some .engine
  | .airLeave => some .engine
  | .changeover => some .engine
  | .retune => some .engine
  | .check => some .engine
  | .sweep => some .sweep
  | .storeSettings => some .settings
  | .markBand => none
  | .watchSetup => none
  | .watchRelease => none
  | .lineSetup => none
  | .rackRoster => none
  | .rackTune => none

/-- The held-slot entry of a destination. -/
def Board.held (b : Board) : HeldDest → Option Nat
  | .engine => b.heldEngine
  | .sweep => b.heldSweep
  | .settings => b.heldSettings

/-- Sets the held-slot entry of a destination (R171). -/
def Board.hold (b : Board) (d : HeldDest) (slot : Nat) : Board :=
  match d with
  | .engine => { b with heldEngine := some slot }
  | .sweep => { b with heldSweep := some slot }
  | .settings => { b with heldSettings := some slot }

/-- Clears the held-slot entry that names a slot (R172). -/
def Board.release (b : Board) (slot : Nat) : Board :=
  let drop := fun (h : Option Nat) => if h = some slot then none else h
  { b with heldEngine := drop b.heldEngine, heldSweep := drop b.heldSweep, heldSettings := drop b.heldSettings }

/-! ### Triggers (R166) -/

/-- A trigger arrives: between surveys it begins one, otherwise it sets the survey-again mark (log 20). A trigger
that begins a survey takes up a mark set before it, whether it was set while completions were written or during the
survey before: the survey that begins answers both (log 49). -/
def State.trigger (s : State) : State :=
  if s.run = .running then
    if s.board.pos = .idle ∧ s.board.completions = [] then
      { s with board := { s.board with pos := .begun, again := false } }
    else { s with board := { s.board with again := true } }
  else s

/-- A survey ends or is abandoned (R166, R167, R170). -/
def State.surveyEnds (s : State) : State := { s with board := { s.board with pos := .idle, ending := false } }

/-! ### Screening (R168) -/

/-- The size of list_a that a kind reads, in bytes (R168). -/
def listASize (k : OrderKind) (b : OrderBody) : Nat :=
  match k with
  | .loadCoupling => b.listACount
  | .sparesLoad => 4 * b.listACount
  | .airJoin => 2 * b.listACount
  | .airLeave => 2 * b.listACount
  | .changeover => 2 * b.listACount
  | .rackRoster => b.listACount
  | .storeSettings => Config.settingsBytes
  | _ => 0

/-- The size of list_b that a kind reads, in bytes. -/
def listBSize (k : OrderKind) (b : OrderBody) : Nat := if k = .changeover then 2 * b.listBCount else 0

/-- The size of the result area that a kind writes, in bytes (R168). -/
def resultSize (k : OrderKind) (b : OrderBody) : Nat :=
  match k with
  | .airJoin => b.capacity
  | .airLeave => b.capacity
  | .changeover => b.capacity
  | .retune => b.capacity
  | .check => b.capacity
  | .sweep => b.capacity
  | _ => 0

/-- Test 2 (R168): the lists' counts. -/
def countsOk (k : OrderKind) (b : OrderBody) : Bool :=
  match k with
  | .loadCoupling => decide (b.listACount ≤ 144)
  | .sparesLoad => decide (b.listACount ≤ 64)
  | .airJoin => decide (b.listACount ≤ 200)
  | .airLeave => decide (b.listACount ≤ 200)
  | .changeover => decide (b.listACount ≤ 200) && decide (b.listBCount ≤ 200)
  | .rackRoster => decide (b.listACount ≤ 8)
  | _ => true

/-- Test 3 (R168): room for the item outcome list. -/
def roomOk (k : OrderKind) (b : OrderBody) : Bool :=
  let n := match k with
    | .airJoin => b.listACount
    | .airLeave => b.listACount
    | .changeover => b.listACount + b.listBCount
    | .retune => 1
    | _ => 0
  decide (n ≤ b.capacity / 4)

/-- The parameters of a RACK_TUNE (R140). -/
def rackTuneOk (b : OrderBody) : Bool :=
  let addr := paramByte b.p2 1
  decide (paramByte b.p2 0 < 4) && decide (1 ≤ addr) && decide (addr ≤ 30) && decide (paramByte b.p2 2 ≤ 31) &&
    decide (lowHalf b.p1 < Config.codes) &&
    (decide (lowHalf b.p0 = Config.noId) || idHasRecord (lowHalf b.p0))

/-- Test 4 (R168): the parameters (log 36). -/
def paramsOk (k : OrderKind) (b : OrderBody) : Bool :=
  match k with
  | .airJoin => decide (b.p0 ≤ 1)
  | .changeover => decide (b.p0 ≤ 1)
  | .check => decide (b.p0 = 255) || decide (b.p0 < Config.stages)
  | .markBand => decide (b.p2 ≤ 2)
  | .lineSetup => decide (b.p0 < 4)
  | .rackRoster => decide (b.p0 < 4)
  | .rackTune => rackTuneOk b
  | _ => true

/-- The areas that an order will use: whether written, first address, size (R168; log 25). -/
def orderAreas (k : OrderKind) (b : OrderBody) : List (Bool × Nat × Nat) :=
  [(false, b.listA, listASize k b), (false, b.listB, listBSize k b), (true, b.result, resultSize k b)]

/-- Test 5 (R168): the first area that no window covers with the access it needs. -/
def State.failingArea (s : State) (k : OrderKind) (b : OrderBody) : Option (Bool × Nat × Nat) :=
  (orderAreas k b).find? fun a => decide (a.2.2 ≠ 0) && !s.allowed a.1 a.2.1 a.2.2

/-- The answer of a screening: FAILED with a result, or a sound candidate (R167). -/
inductive Screening where
  | answered (r : ResultCode)
  | sound (k : OrderKind)
  deriving DecidableEq, Repr

/-- A body is screened (R167, R168): the state with the fault that test 5 records, and the answer. -/
def State.screen (s : State) (b : OrderBody) : State × Screening :=
  if b.stop ≠ 0 then (s, .answered .stopped)
  else
    match orderKind b.kind with
    | none => (s, .answered .badOrder)
    | some k =>
      if (countsOk k b && roomOk k b && paramsOk k b) = false then (s, .answered .badOrder)
      else
        match s.failingArea k b with
        | some a => (s.recordFault a.2.1 .window .board, .answered .badOrder)
        | none => (s, .sound k)

/-! ### Dispatch (R169, R170) -/

/-- A destination accepts an offer (R169). -/
def State.destAccepts (s : State) (c : Candidate) : Bool :=
  match heldDest c.kind with
  | some d => (s.board.held d).isNone
  | none => if c.kind = .rackTune then (s.line (lineOf (paramByte c.body.p2 0))).accepts false else true

/-- The priority as read (R168). -/
def Candidate.priority (c : Candidate) : Nat := min c.body.priority 3

/-- How far a slot lies from the cursor, counting upward and around (R170). -/
def State.distance (s : State) (slot : Nat) : Nat :=
  if s.board.cursor ≤ slot then slot - s.board.cursor else slot + s.latch.boardSlots - s.board.cursor

/-- Whether candidate `a` is taken before `b` (R170). -/
def State.before (s : State) (a b : Candidate) : Bool :=
  decide (b.priority < a.priority) || (decide (a.priority = b.priority) && decide (s.distance a.slot < s.distance b.slot))

/-- The candidate to be taken next (R170). -/
def State.chooseCandidate (s : State) (l : List Candidate) : Option Candidate :=
  (l.filter s.destAccepts).foldl
    (fun best c =>
      match best with
      | none => some c
      | some b => if s.before c b then some c else some b) none

/-- The cursor after a take (R170). -/
def State.advanceCursor (s : State) (slot : Nat) : State :=
  { s with board := { s.board with cursor := if slot + 1 < s.latch.boardSlots then slot + 1 else 0 } }

/-- The candidates left after one is taken. -/
def without (slot : Nat) (l : List Candidate) : List Candidate := l.filter fun c => decide (c.slot ≠ slot)

/-! ### Transfers of the Board Handler -/

/-- Takes the answer of a Board Handler transfer. -/
def State.boardMail (s : State) (f : State → Answer → State) : Option State :=
  s.mail.board.map fun a => f (s.setMail .board none) a

/-- The codes of state words (R194). -/
def statePosted : Nat := 1
def stateTaken : Nat := 2
def stateEnded (failed : Bool) : Nat := if failed then 4 else 3

/-- A completion's result burst: result_code, count_1, count_2 (R172; log 17). -/
def State.writeResult (s : State) (c : Completion) (p : BoardPos) : State :=
  (s.presentWrite .board (s.slotAddr c.slot + 44)
    (halfBytes (resultCode c.result) ++ halfBytes c.count1 ++ halfBytes c.count2)).setBoardPos p

/-- A slot's state word is written (R171, R172). -/
def State.writeState (s : State) (slot code : Nat) (p : BoardPos) : State :=
  (s.presentWrite .board (s.slotAddr slot) (halfBytes code)).setBoardPos p

/-- The result burst has ended: the state word follows unless it faulted (R172). -/
def State.resultWritten (s : State) (c : Completion) (a : Answer) (next : BoardPos) (ended : State → State) : State :=
  match a with
  | .ok _ => s.writeState c.slot (stateEnded c.failed) next
  | .fault => ended s

/-- A completion inside a survey has been written, or has faulted (R172). -/
def State.answered (s : State) (p : BoardPos) : State := (s.setCause .orderEnded).setBoardPos p

/-- The head of the completion list has been written, or has faulted: the next is written, if any, and the
order-end trigger arrives (R166, R172). -/
def State.listEnded (s : State) (c : Completion) : State :=
  let b := { s.board.release c.slot with completions := s.board.completions.tail, pos := .idle, ending := false }
  let s := ({ s with board := b }.setCause .orderEnded).trigger
  match s.board.completions with
  | [] => s
  | d :: _ => s.writeResult d (.listResultWait d)

/-! ### Takes (R171) -/

/-- WATCH_SETUP, WATCH_RELEASE or LINE_SETUP is carried to its end (R171). -/
def State.carry (s : State) (c : Candidate) : State × Completion :=
  match c.kind with
  | .watchSetup => s.watchSetup c.slot c.body
  | .watchRelease => s.watchRelease c.slot c.body
  | _ => s.lineSetup c.slot c.body

/-- An immediate order has ended: its completion is written. -/
def State.immEnds (r : State × Completion) (sound : List Candidate) : State :=
  r.1.writeResult r.2 (.immResultWait r.2 sound)

/-- A held order is handed to its destination (R171). -/
def State.handHeld (s : State) (d : HeldDest) (c : Candidate) : State :=
  match d with
  | .engine => s.engineTake c.slot c.kind c.body
  | .sweep => s.sweepTake c.slot c.body
  | .settings => (s.settingsTake c.slot c.body).settingsGo

/-- The TAKEN write has succeeded (R171). -/
def State.takeOrder (s : State) (c : Candidate) (sound : List Candidate) : State :=
  let s := s.advanceCursor c.slot
  let rest := without c.slot sound
  match heldDest c.kind with
  | some d => State.handHeld { s with board := { s.board.hold d c.slot with pos := .choose rest } } d c
  | none =>
    if c.kind = .rackRoster then
      if c.body.listACount = 0 then State.immEnds (s.rackRoster c.slot c.body []) rest
      else (s.presentRead .board c.body.listA c.body.listACount).setBoardPos (.rosterWait c rest)
    else if c.kind = .markBand then (s.beginBand c.slot c.body).setBoardPos (.bandWait rest)
    else State.immEnds (s.carry c) rest

/-- The Board Handler chooses (R170, R171). -/
def State.chooseStep (s : State) (sound : List Candidate) : State :=
  if s.board.ending then s.surveyEnds
  else
    match s.chooseCandidate sound with
    | none => s.surveyEnds
    | some c =>
      if c.kind = .rackTune then
        match s.rackTune c.slot c.body with
        | none => s.setBoardPos (.choose (without c.slot sound))
        | some r => r.1.writeState c.slot stateTaken (.tuneTakenWait r.2 (without c.slot sound))
      else s.writeState c.slot stateTaken (.takenWait c sound)

/-! ### Surveys (R167) -/

/-- A part of a slot is read in a survey: with READ_WRITE access to it the read is presented; a board that lacks that
access faults WINDOW, and the survey is abandoned (R167). That the bytes read are what is tested is log 48. -/
def State.slotRead (s : State) (a n : Nat) (p : BoardPos) : State :=
  if s.allowed true a n then (s.presentRead .board a n).setBoardPos p
  else (s.recordFault a .window .board).surveyEnds

/-- The next state word is read, or the bodies follow (R167). -/
def State.statesStep (s : State) (next : Nat) (found : List Nat) : State :=
  if s.board.ending then s.surveyEnds
  else if s.latch.boardSlots ≤ next then s.setBoardPos (.bodies found [])
  else if s.board.holds next then s.setBoardPos (.states (next + 1) found)
  else s.slotRead (s.slotAddr next) 2 (.stateWait next found)

/-- The next body is read (R167; log 16). -/
def State.bodiesStep (s : State) (left : List Nat) (sound : List Candidate) : State :=
  if s.board.ending then s.surveyEnds
  else
    match left with
    | [] => s.setBoardPos (.choose sound)
    | slot :: rest => s.slotRead (s.slotAddr slot + 2) 62 (.bodyWait slot rest sound)

/-- A body has been read: it is screened (R167). -/
def State.bodyRead (s : State) (slot : Nat) (left : List Nat) (sound : List Candidate) (bs : List Byte) : State :=
  let b := orderBody bs
  match s.screen b with
  | (s, .answered r) =>
    let c : Completion := ⟨slot, true, r, 0, 0⟩
    s.writeResult c (.screenResultWait c left sound)
  | (s, .sound k) => s.setBoardPos (.bodies left (sound ++ [⟨slot, k, b⟩]))

/-- A read of a survey: a fault abandons it (R167; log 19). -/
def State.surveyRead (s : State) (f : State → List Byte → State) : Option State :=
  s.boardMail fun s a =>
    match a with
    | .fault => s.surveyEnds
    | .ok bs => f s bs

/-- A RACK_TUNE's TAKEN write has ended (R171): its completion follows, whether it succeeded or not, when its entry
is queued; a fault on that of an order that queued nothing abandons the take and the survey. -/
def State.tuneTaken (s : State) (c : Completion) (sound : List Candidate) (a : Answer) : State :=
  if a = .fault ∧ c.failed = true then s.surveyEnds
  else (s.advanceCursor c.slot).writeResult c (.immResultWait c sound)

/-- The next micro-step of the Board Handler, none while it waits. A RACK_ROSTER whose list read faults ends FAILED
MEMORY with counts 0 and 0, which no rule gives (log 46). -/
def State.boardMicro (s : State) : Option State :=
  match s.board.pos with
  | .idle => none
  | .begun => none
  | .states next found => some (s.statesStep next found)
  | .stateWait slot found =>
    s.surveyRead fun s bs =>
      s.setBoardPos (.states (slot + 1) (if half bs 0 = statePosted then found ++ [slot] else found))
  | .bodies left sound => some (s.bodiesStep left sound)
  | .bodyWait slot left sound => s.surveyRead fun s bs => s.bodyRead slot left sound bs
  | .screenResultWait c left sound =>
    s.boardMail fun s a =>
      s.resultWritten c a (.screenStateWait c left sound) fun s => s.answered (.bodies left sound)
  | .screenStateWait _ left sound => s.boardMail fun s _ => s.answered (.bodies left sound)
  | .choose sound => some (s.chooseStep sound)
  | .takenWait c sound => s.surveyRead fun s _ => s.takeOrder c sound
  | .rosterWait c sound =>
    s.boardMail fun s a =>
      State.immEnds
        (match a with
          | .fault => (s, ⟨c.slot, true, .memory, 0, 0⟩)
          | .ok bs => s.rackRoster c.slot c.body bs) sound
  | .tuneTakenWait c sound => s.boardMail fun s a => s.tuneTaken c sound a
  | .bandWait sound =>
    match s.band with
    | none => none
    | some b => if b.left = 0 then some (State.immEnds ({ s with band := none }, b.completion) sound) else none
  | .immResultWait c sound =>
    s.boardMail fun s a => s.resultWritten c a (.immStateWait c sound) fun s => s.answered (.choose sound)
  | .immStateWait _ sound => s.boardMail fun s _ => s.answered (.choose sound)
  | .listResultWait c =>
    s.boardMail fun s a => s.resultWritten c a (.listStateWait c) fun s => s.listEnded c
  | .listStateWait c => s.boardMail fun s _ => s.listEnded c

/-- The Board Handler goes on as far as it can. -/
def State.boardGo (s : State) : State := runMicro State.boardMicro Config.microSteps s

/-- A halt stops a survey in progress (R166; log 18). -/
def State.boardHalt (s : State) : State :=
  { s with board := { s.board with
    again := false
    timerOn := false
    ending := decide (s.board.pos ≠ .idle ∧ s.board.pos ≠ .begun)
    pos := if s.board.pos = .begun then .idle else s.board.pos } }

end Sys2Proof.Machine
end

