-- ==== Sys2Proof/Machine/Ticks.lean ====
section
/-! DEFINITION. The work over the Occupancy Map that goes on bin by bin with no command of the table (R104, R106):
one tick of it, and the commands that wait for it. -/

namespace Sys2Proof.Machine

/-- Some bin is still to be reached by a MARK_BAND, or to be read by the engine. -/
def State.working (s : State) : Bool := s.bandRuns || s.readsBins

/-- The map's order reaches its next bin; after the last the Board Handler goes on (R103, R104). -/
def State.bandTick (s : State) : State := s.bandStep.boardGo

/-- The engine reads its next bin; after the last of its range it goes on (R106). -/
def State.readTick (s : State) : State := s.readBin.engineGo

/-- A bin for whichever of the two works is under way. With both, the free value says which of them comes to its next
bin (R104, R106; log 10), so that the order's edge may pass a range while the engine reads it, or stand still. -/
def State.nextBin (s : State) : State :=
  if s.bandRuns && s.readsBins then
    let u := { s with paces := s.paces + 1 }
    if Config.bandNext s.paces then u.bandTick else u.readTick
  else if s.bandRuns then s.bandTick
  else s.readTick

/-- A tick: the work over the map comes to its next bin. Without such work nothing happens. -/
def State.tick (s : State) : State := if s.working then s.nextBin.serveBus else s

/-- Ticks until no bin is left to be reached or read, at most `n` of them. -/
def ticks : Nat → State → State
  | 0, s => s
  | n + 1, s => if s.working then ticks n s.tick else s

/-- The part when its work over the map has ended. -/
def State.worked (s : State) : State := ticks Config.tickBound s

/-- A command of the part's own takes effect when it is due. One that is not yet due lets the work over the map end
first; one that is not due even then changes nothing (log 4). -/
def State.whenDue (s : State) (due : State → Bool) (f : State → State) : State :=
  if due s then f s else if due s.worked then f s.worked else s

end Sys2Proof.Machine
end

