-- ==== Sys2Proof/Machine/BoardCommands.lean ====
section
/-! DEFINITION. The commands of the Board Handler (chapter 9, 9.2 and 9.5). -/

namespace Sys2Proof.Machine

/-- SURVEY_TIMER (R166): the interval expires, and starts again. -/
def execSurveyTimer (s : State) : Host.Outcome State Fault Refusal :=
  .next (if s.board.timerOn then s.trigger else s)

/-- SURVEY (R167): a survey that has begun makes its reads, and goes on until it waits for the bus. -/
def execSurvey (s : State) : Host.Outcome State Fault Refusal :=
  .next (if s.board.pos = .begun then (s.setBoardPos (.states 0 [])).boardGo.serveBus else s)

/-- The oldest completion of the list is written (R166, R172). -/
def State.writeOldest (s : State) : State :=
  match s.board.completions with
  | [] => s
  | c :: _ => (s.writeResult c (.listResultWait c)).boardGo.serveBus

/-- A survey has ended with the survey-again mark set. -/
def State.againDue (s : State) : Bool :=
  decide (s.board.pos = .idle) && s.board.again && decide (s.run = .running)

/-- A completion waits between surveys. -/
def State.completionDue (s : State) : Bool := decide (s.board.pos = .idle) && decide (s.board.completions ≠ [])

/-- SURVEY_AGAIN (R166): a survey has ended with the mark set. Completions that wait are written first. -/
def execSurveyAgain (s : State) : Host.Outcome State Fault Refusal :=
  .next (s.whenDue State.againDue fun s =>
    if s.board.completions = [] then { s with board := { s.board with pos := .begun, again := false } }
    else s.writeOldest)

/-- ORDER_COMPLETION (R166, R172): between surveys the oldest completion is written. -/
def execOrderCompletion (s : State) : Host.Outcome State Fault Refusal :=
  .next (s.whenDue State.completionDue State.writeOldest)

end Sys2Proof.Machine
end

