-- ==== Sys2Proof/Machine/StatusArea.lean ====
section
/-! DEFINITION. The Status Writer (chapter 9, 9.6): records gathered, written and announced. -/

namespace Sys2Proof.Machine

/-! ### Records (R177, R178, R194) -/

/-- The sequence of a record (R174). -/
def State.seq (s : State) (r : RecId) : BitVec 16 := sparseGet 0 s.status.seqs r.index

/-- A record's sequence rises by 1 modulo 65536 (R176). -/
def State.bumpSeq (s : State) (r : RecId) : State :=
  { s with status := { s.status with seqs := sparseSet 0 s.status.seqs r.index (s.seq r + 1) } }

/-- Offset of a record in the status area, and its length (R194). -/
def RecId.place : RecId → Nat × Nat
  | .stage n => (8 * n, 8)
  | .line k => (128 + 32 * k.val, 32)
  | .spare i => (256 + 8 * i, 8)
  | .carrier id => (1024 + 16 * (id / 256 * 96 + id % 256), 16)

/-- carriers_on_air (R178). -/
def State.carriersOnAir (s : State) (stage : Nat) : Nat :=
  (s.air.filter fun e => decide (e.stage = stage) && decide (e.air = .onAir)).length

/-- alerts_active (R178). -/
def State.alertsActive (s : State) (stage : Nat) : Nat :=
  (s.watch.records.filter fun r => decide (r.id / 256 = stage) && r.state.isAlert).length

/-- The state of a rack, UNKNOWN for an address without a roster entry (R178). -/
def State.rackState (s : State) (r : Rack) : RackState :=
  (((s.line r.line).roster.find? fun e => e.addr == r.addr).map RosterEntry.state).getD .unknown

/-- The rank of rack states, from best to worst (R178). -/
def RackState.rank : RackState → Nat
  | .answering => 0
  | .unknown => 1
  | .silent => 2
  | .lost => 3

/-- The worse of two rack states. -/
def RackState.worse (a b : RackState) : RackState := if a.rank < b.rank then b else a

/-- rack_summary (R178): 255 stands for NONE. -/
def State.rackSummary (s : State) (stage : Nat) : Nat :=
  let racks := s.air.filterMap fun e => if e.stage = stage ∧ e.air = .onAir then e.rack else none
  match racks.map s.rackState with
  | [] => 255
  | a :: rest => rackStateCode (rest.foldl RackState.worse a)

/-- The fields of a stage status record, before its sequence (R178). -/
def State.stageFields (s : State) (stage : Nat) : List Byte :=
  [oneByte (s.carriersOnAir stage), oneByte (s.alertsActive stage), oneByte (s.rackSummary stage), 0, 0, 0]

/-- air_state of a carrier (R177). -/
def airStateCode : Option AirEntry → Nat
  | none => 0
  | some e => match e.air with
    | .pending => 1
    | .onAir => 2

/-- rack_confirm of a carrier (R177). -/
def State.rackConfirm (s : State) (id : Nat) : RackConfirm :=
  match s.airEntry id with
  | some e => if e.confirmed = .unconfirmed then .unconfirmed else (s.kept id).rackConfirm
  | none => (s.kept id).rackConfirm

/-- spare_index of a carrier: 255 when it uses no spare (R177). -/
def State.spareIndex (s : State) (id : Nat) : Nat :=
  ((s.spares.zipIdx.find? fun p => decide (p.1.user = some id)).map Prod.snd).getD 255

/-- The fields of a carrier status record, before its sequence (R177). -/
def State.carrierFields (s : State) (id : Nat) : List Byte :=
  let e := s.airEntry id
  let w := s.watchRec id
  let k := s.kept id
  [oneByte (airStateCode e), oneByte (rackConfirmCode (s.rackConfirm id))] ++
    halfBytes ((e.map AirEntry.code).getD Config.noCode) ++
    [oneByte (watchStateCode (w.map WatchRec.state)), oneByte k.lastRf, oneByte k.lastErrors,
      oneByte ((w.map WatchRec.swaps).getD 0), oneByte (s.spareIndex id), 0, 0, 0, 0, 0]

/-- A roster position of a line status record (R177). -/
def rosterBytes (l : Line) (i : Nat) : List Byte :=
  match l.roster[i]? with
  | some e => [oneByte e.addr, oneByte (rackStateCode e.state)]
  | none => [0, 0]

/-- The fields of a line status record, before its sequence (R177). -/
def State.lineFields (s : State) (k : Fin 4) : List Byte :=
  let l := s.line k
  halfBytes l.noise ++ halfBytes l.framing ++ halfBytes l.check ++ halfBytes l.gap ++ halfBytes l.timeout ++
    halfBytes l.unsolicited ++ (List.range 8).flatMap (rosterBytes l) ++ [0, 0]

/-- The fields of a spare status record, before its sequence (R177). -/
def State.spareFields (s : State) (i : Nat) : List Byte :=
  match s.spares[i]? with
  | some sp => halfBytes sp.code ++ [oneByte (spareStateCode sp.state), 0] ++ halfBytes (sp.user.getD Config.noId)
  | none => halfBytes Config.noCode ++ [oneByte (spareStateCode .barred), 0] ++ halfBytes Config.noId

/-- The fields of a record as they stand. -/
def State.recordFields (s : State) : RecId → List Byte
  | .stage n => s.stageFields n
  | .carrier id => s.carrierFields id
  | .line k => s.lineFields k
  | .spare i => s.spareFields i

/-! ### Writes (R176, R179) -/

/-- The Status Writer's present write. -/
def State.setStatusJob (s : State) (j : StatusJob) : State := { s with status := { s.status with job := j } }

/-- A write of the RUN-start rewrite has been made or lost (R180; log 34). -/
def State.rewriteDone (s : State) (r : RecId) (counts : Bool) : State :=
  if counts then { s with rewrite := s.rewrite.map fun l => l.filter fun x => decide (x ≠ r) } else s

/-- A record has been written: the epoch moves and STATUS_CHANGED is set (R176). -/
def State.announced (s : State) (r : RecId) (counts : Bool) : State :=
  let s := { s with status := { s.status with epoch := s.status.epoch + 1, job := .idle } }
  (s.setCause .statusChanged).rewriteDone r counts

/-- A record's burst has completed: a carrier's stage sequence follows (R176). -/
def State.recordWritten (s : State) (r : RecId) (counts : Bool) (base : Nat) : State :=
  match r with
  | .carrier id =>
    let stage := RecId.stage (id / 256)
    let s := s.bumpSeq stage
    (s.presentWrite .status (base + stage.place.1 + 6) (halfBytes (s.seq stage).toNat)).setStatusJob
      (.stageWait r counts)
  | _ => s.announced r counts

/-- The head of the mark list is written (R176). It leaves the list as it is taken, so that a mark for the same record
which arrives during the write lists it anew (log 61). -/
def State.writeRecord (s : State) (r : RecId) (rest : List RecId) (base : Nat) : State :=
  let s := State.bumpSeq { s with status := { s.status with marks := rest } } r
  let counts := (s.rewrite.getD []).contains r
  (s.presentWrite .status (base + r.place.1) (s.recordFields r ++ halfBytes (s.seq r).toNat)).setStatusJob
    (.recordWait r counts)

/-- The next micro-step of a status write, none while it waits. -/
def State.statusMicro (s : State) : Option State :=
  match s.status.job, s.mail.status, s.latch.statusAddr with
  | .recordWait r counts, some (.ok _), some base => some ((s.setMail .status none).recordWritten r counts base)
  | .recordWait r counts, some .fault, some _ =>
    some (((s.setMail .status none).setStatusJob .idle).rewriteDone r counts)
  | .stageWait r counts, some _, some _ => some ((s.setMail .status none).announced r counts)
  | _, _, _ => none

/-- The Status Writer goes on as far as it can. -/
def State.statusGo (s : State) : State := runMicro State.statusMicro Config.microSteps s

/-- A record is marked, and an address has been latched to write it to (R175). -/
def State.writeDue (s : State) : Bool :=
  decide (s.status.job = .idle) && decide (s.status.marks ≠ []) && s.latch.statusAddr.isSome

/-- The head of the mark list is taken and written. -/
def State.writeHead (s : State) : State :=
  match s.status.marks, s.latch.statusAddr with
  | r :: rest, some base => (s.writeRecord r rest base).statusGo.serveBus
  | _, _ => s

/-- STATUS_RECORD_WRITE (R175, R176): the head of the mark list is taken and written, once an address has been
latched. -/
def execStatusRecordWrite (s : State) : Host.Outcome State Fault Refusal :=
  .next (s.whenDue State.writeDue State.writeHead)

end Sys2Proof.Machine
end

