-- ==== Sys2Proof/Machine/RunControl.lean ====
section
/-! DEFINITION. Registers, run control, start, halt and reset (chapter 10, 10.4, 10.5, 10.7), and their
commands. -/

namespace Sys2Proof.Machine

/-! ### The halt's parts (R190) -/

/-- The fall of RUN reaches the Plan Engine and the Watch Unit (R70, R158, R187). -/
def State.fallOfRun (s : State) : State :=
  State.watchHalt
    { s with
      runBit := false
      engine := { s.engine with
        requests := []
        order := s.engine.order.map fun o => { o with haltMark := true } } }

/-- A halt reaches the Sweep Unit: it sets the halt mark of an order that the unit holds, and does not change an
idle unit (R108, R119). -/
def State.sweepHalt (s : State) : State :=
  s.setSweep { s.sweep with count := { s.sweep.count with haltMark := s.sweep.count.haltMark || s.sweep.order.isSome } }

/-- Run control enters HALTING, and the halt reaches every block (R190). -/
def State.beginHalt (s : State) : State := (State.boardHalt { s.fallOfRun with run := .halting }).sweepHalt

/-- Every block's part of the halt is complete (R190). The Plan Engine's is not while it serves a swap request: a halt
does not act inside a service (R75), and no bin is read while the part is halted (R106; log 55). The Sweep Unit's is not
while it holds an order, be it one whose TAKEN write was in progress when the halt found the unit IDLE (log 57). -/
def State.haltDone (s : State) : Bool :=
  decide (s.board.pos = .idle) && decide (s.board.completions = []) && s.engine.order.isNone &&
    s.engine.service.isNone && s.sweep.order.isNone && decide (s.settings.job = .idle)

/-! ### CONTROL (R187) -/

/-- A RUN start begins: the anchor record is read (R189). -/
def State.beginStart (s : State) : State :=
  (State.presentRead { s with run := .starting, runBit := true } .anchor (align4 s.anchor.toNat) 64).serveBus

/-- The RUN bit of a write to CONTROL (R187). -/
def State.writeRun (s : State) (run : Bool) : State :=
  match s.run, run with
  | .stopped, true => s.beginStart
  | .running, false => s.beginHalt
  | .starting, false => if s.runBit then s.fallOfRun else s
  | _, _ => s

/-- A write to CONTROL: the RUN change first, then NUDGE (R187). -/
def State.controlWrite (s : State) (run nudge : Bool) : State :=
  if nudge then (s.writeRun run).trigger else s.writeRun run

/-! ### The start (R189) -/

/-- The records that a RUN start marks (R180). -/
def rewriteList (stages : Nat) : List RecId :=
  ((List.range stages).flatMap fun n =>
    .stage n :: (List.range Config.numbers).map fun k => RecId.carrier (n * 256 + k)) ++
    (List.finRange 4).map RecId.line ++ (List.range Config.spareRecords).map RecId.spare

/-- A bad anchor (R189). The part is halted at once: a search for a spare reads no further bin (R106; log 55). -/
def State.anchorFails (s : State) : State :=
  let s := if s.runBit then s.fallOfRun else s
  State.setCause { s.endSearch with run := .stopped } .anchorBad

/-- A good anchor is latched, and the status rewrite begins (R180, R189; log 34). -/
def State.latchAnchor (s : State) (a : Anchor) : State :=
  let stages := min a.stages Config.stages
  State.markAll
    { s with
      latch := ⟨stages, a.dirAddr, a.boardAddr, min a.slots 16, some a.statusAddr⟩
      windows := a.windows
      board := { s.board with cursor := 0, again := false }
      rewrite := some (rewriteList stages) }
    (rewriteList stages)

/-- The end of the anchor read is judged (R189). -/
def State.judgeAnchor (s : State) (a : Answer) : State :=
  match a with
  | .fault => s.anchorFails
  | .ok bs => if (readAnchor bs).bad then s.anchorFails else s.latchAnchor (readAnchor bs)

/-- Run control enters RUNNING (R189). -/
def State.enterRunning (s : State) : State :=
  State.trigger { s with run := .running, board := { s.board with timerOn := true } }

/-! ### Registers (R186, R194) -/

/-- STATUS as read (R187, R188, R194). -/
def State.statusWord (s : State) : Word :=
  let bit := fun (b : Bool) (k : Nat) => if b then BitVec.twoPow 32 k else 0
  bit (decide (s.run = .starting ∨ s.run = .running)) 0 ||| bit (decide (s.run = .halting)) 1 |||
    bit (decide (s.engine.state ≠ .idle)) 2 ||| bit (decide (s.sweep.pos ≠ .idle)) 3 |||
    (s.causes.setWidth 32 <<< 8)

/-- FAULT_INFO as read (R185, R194). -/
def State.faultInfo (s : State) : Word :=
  BitVec.ofNat 32 (faultKindCode s.fault.kind + 16 * requesterCode s.fault.requester + 256 * s.fault.count)

/-- A register as the host reads it (R194). -/
def State.readRegister (s : State) (offset : Nat) : Word :=
  match offset with
  | 0x00 => Config.ident
  | 0x04 => if s.runBit then 1 else 0
  | 0x08 => s.statusWord
  | 0x0C => s.intEnable.setWidth 32 <<< 8
  | 0x10 => s.anchor
  | 0x14 => s.status.epoch
  | 0x18 => s.fault.address
  | 0x1C => s.faultInfo
  | _ => 0

/-- A host read with byte enables: the enabled bytes of the register, least significant first, and no other effect
(R186). A byte that is not enabled is not returned. -/
def State.hostRead (s : State) (offset : Nat) (enables : BitVec 4) : List (Option Byte) :=
  (List.range 4).map fun i =>
    if enables.getLsbD i then some ((s.readRegister offset).extractLsb' (8 * i) 8) else none

/-- A host write of a whole register (R186 to R188). -/
def State.writeRegister (s : State) (offset : Nat) (v : Word) : State :=
  match offset with
  | 0x04 => s.controlWrite (v.getLsbD 0) (v.getLsbD 1)
  | 0x08 => s.clearCauses v
  | 0x0C => { s with intEnable := v.extractLsb' 8 7 }
  | 0x10 => { s with anchor := v }
  | _ => s

/-! ### Reset (R193) -/

/-- Shared memory at a reset: the completed beats of a write in progress stay. -/
def State.memAtReset (s : State) (beats : Nat) : Sparse Byte :=
  match s.port.phase, s.inProgress with
  | .granted _, some t =>
    t.store s.mem (beatsMoved s.beatBytes t.addr (burstLength s.beatBytes t.addr t.left) (min beats (s.lastBeat t)))
  | _, _ => s.mem

/-- The machine after a reset (R191, R193). -/
def State.afterReset (s : State) (beats : Nat) : State :=
  let block := s.settings.block
  if settingsPass block then State.resetWith block (readSettings block) 0 (s.memAtReset beats) s.tuner s.pending s.paces
  else
    State.resetWith block WorkingCopy.factory (causeBit .settingsDefaulted) (s.memAtReset beats) s.tuner s.pending s.paces

/-! ### Commands -/

/-- RESET (R193). -/
def execReset (beats : Nat) (s : State) : Host.Outcome State Fault Refusal := .next (s.afterReset beats)

/-- RUN_START (R187): a write of RUN 1. In a state other than STOPPED it acts as R187 states. -/
def execRunStart (nudge : Bool) (s : State) : Host.Outcome State Fault Refusal := .next (s.controlWrite true nudge)

/-- HALT (R187, R190): a write of RUN 0. In a state other than RUNNING it acts as R187 states. -/
def execHalt (nudge : Bool) (s : State) : Host.Outcome State Fault Refusal := .next (s.controlWrite false nudge)

/-- RUN_ZERO_IN_STARTING (R187): a write of RUN 0. In a state other than STARTING it acts as R187 states. -/
def execRunZeroInStarting (nudge : Bool) (s : State) : Host.Outcome State Fault Refusal :=
  .next (s.controlWrite false nudge)

/-- NUDGE (R166, R187): a write of NUDGE 1, the RUN change first. -/
def execNudge (run : Bool) (s : State) : Host.Outcome State Fault Refusal := .next (s.controlWrite run true)

/-- CLEAR_CAUSE (R188). -/
def execClearCause (value : Word) (s : State) : Host.Outcome State Fault Refusal := .next (s.clearCauses value)

/-- REGISTER_WRITE (R186): a write that enables fewer than all four bytes has no effect. -/
def execRegisterWrite (offset : Nat) (value : Word) (enables : BitVec 4) (s : State) :
    Host.Outcome State Fault Refusal :=
  .next (if enables = 0xF then s.writeRegister offset value else s)

/-- ANCHOR_READ_DONE (R189). -/
def execAnchorReadDone (s : State) : Host.Outcome State Fault Refusal :=
  .next
    (match s.mail.anchor with
    | some a => if s.run = .starting then (s.setMail .anchor none).judgeAnchor a else s
    | none => s)

/-- STATUS_REWRITE_COMPLETE (R189): RUNNING, or HALTING when RUN 0 was written during the start (R187). -/
def execStatusRewriteComplete (s : State) : Host.Outcome State Fault Refusal :=
  .next
    (if s.run = .starting ∧ s.rewrite = some [] then
      let s := { s with rewrite := none }
      if s.runBit then s.enterRunning else s.beginHalt
    else s)

/-- HALT_COMPLETE (R190). -/
def execHaltComplete (s : State) : Host.Outcome State Fault Refusal :=
  .next (s.whenDue (fun s => decide (s.run = .halting) && s.haltDone) fun s =>
    State.setCause { s with run := .stopped } .halted)

end Sys2Proof.Machine
end

