-- ==== Sys2Proof/Machine/MemoryPort.lean ====
section
/-! DEFINITION. The commands of the Memory Port (chapter 10, 10.2 and 10.3). -/

namespace Sys2Proof.Machine

/-- The requester of a transfer that has ended takes its answer, where no command of the table stands for
that. The anchor read and the sweep's transfers have commands of their own. -/
def State.wake (s : State) (o : Owner) : State :=
  match o with
  | .anchor => s
  | .board => s.boardGo
  | .settings => s.settingsGo
  | .engine => s.engineGo
  | .cache => s.engineGo
  | .sweep => s
  | .status => s.statusGo

/-- The source for which the port has raised the bus request. -/
def BusPhase.requested : BusPhase → Option Source
  | .requesting src => some src
  | _ => none

/-- The grant comes: the host's stores since the last burst are in memory, and the burst begins. -/
def State.grantBus (s : State) (writes : List (Nat × Byte)) : State :=
  match s.port.phase.requested with
  | some src => { s with mem := hostStores s.mem writes, port := { s.port with phase := .granted src } }
  | none => s

/-- BUS_GRANT (R183; log 1). -/
def execBusGrant (writes : List (Nat × Byte)) (s : State) : Host.Outcome State Fault Refusal :=
  .next (s.whenDue (fun s => s.port.phase.requested.isSome) fun s => s.grantBus writes)

/-- BURST_COMPLETE (R183). -/
def execBurstComplete (s : State) : Host.Outcome State Fault Refusal :=
  .next
    (match s.port.phase, s.inProgress with
    | .granted _, some t => ((s.endBurst t).wake t.owner).serveBus
    | _, _ => s)

/-- TRANSFER_TIMEOUT (R184): the burst ends with fault TIMEOUT at its first address. Beats complete only once
the grant has come, and not the last. -/
def execTransferTimeout (beats : Nat) (s : State) : Host.Outcome State Fault Refusal :=
  .next
    (match s.port.phase, s.inProgress with
    | .requesting _, some t => ((s.faultBurst t 0 t.addr .timeout).wake t.owner).serveBus
    | .granted _, some t => ((s.faultBurst t (min beats (s.lastBeat t)) t.addr .timeout).wake t.owner).serveBus
    | _, _ => s)

/-- BUS_ERROR (R184): the burst ends at a beat with fault BUS_ERROR, at that beat's address (log 15). -/
def execBusError (beat : Nat) (s : State) : Host.Outcome State Fault Refusal :=
  .next
    (match s.port.phase, s.inProgress with
    | .granted _, some t =>
      let k := min beat (s.lastBeat t)
      ((s.faultBurst t k (beatAddress s.beatBytes t.addr k) .busError).wake t.owner).serveBus
    | _, _ => s)

end Sys2Proof.Machine
end

