-- ==== Sys2Proof/Machine/HandOffs.lean ====
section
/-! DEFINITION. The commands of the Plan Engine's and the Watch Unit's hand-offs: each takes the oldest entry of
a queue between two blocks (log 7). -/

namespace Sys2Proof.Machine

/-- The engine stands at a step boundary. -/
def State.boundaryDue (s : State) : Bool := decide (s.engine.pos = .boundary) && s.engine.service.isNone

/-- ENGINE_STEP_BOUNDARY (R68): swaps are served, the stop word is read when due, and the order ends or goes
on. -/
def execEngineStepBoundary (s : State) : Host.Outcome State Fault Refusal :=
  .next (s.whenDue State.boundaryDue fun s =>
    (State.engineGo { s with engine := { s.engine with pos := .serve, airChanged := false } }).serveBus)

/-- The oldest answer of the engine is taken. -/
def State.takeOldest (s : State) : State :=
  match s.swapAnswers with
  | [] => s
  | a :: rest => State.takeAnswer { s with swapAnswers := rest } a

/-- SWAP_ANSWER (R151). -/
def execSwapAnswer (s : State) : Host.Outcome State Fault Refusal :=
  .next (s.whenDue (fun s => decide (s.swapAnswers ≠ [])) State.takeOldest)

/-- The line of the TUNE that the engine holds (R83). -/
def State.heldLine (s : State) (id : Nat) : Option (Fin 4) :=
  (s.airEntry id).bind fun e => e.rack.map Rack.line

/-- The engine's part of a room notice (R83, R134): it offers the TUNE it holds for that line again. -/
def State.engineRoom (s : State) (k : Fin 4) : State :=
  match s.engine.pos with
  | .tuneHeld (id :: rest) =>
    if s.heldLine id = some k ∧ s.engine.service = none then
      (s.setPos (.tune (id :: rest) true)).engineGo
    else s
  | _ => s

/-- QUEUE_ROOM_NOTICE (R134): the two offers are decided in the order in which they come. -/
def execQueueRoomNotice (k : Fin 4) (engineFirst : Bool) (s : State) : Host.Outcome State Fault Refusal :=
  .next (s.whenDue (fun s => decide ((s.line k).roomNotices ≠ 0)) fun s =>
    let s := s.onLine k fun l => { l with roomNotices := l.roomNotices - 1 }
    if engineFirst then ((s.engineRoom k).watchRoom k).serveBus else ((s.watchRoom k).engineRoom k).serveBus)

/-- The oldest outcome of a line reaches the engine. -/
def State.takeOutcome (s : State) (k : Fin 4) : State :=
  match (s.line k).outcomes with
  | [] => s
  | m :: rest => (s.onLine k fun l => { l with outcomes := rest }).recordOutcome m

/-- TUNE_OUTCOME_RECORD (R36, R138). -/
def execTuneOutcomeRecord (k : Fin 4) (s : State) : Host.Outcome State Fault Refusal :=
  .next (s.whenDue (fun s => decide ((s.line k).outcomes ≠ [])) fun s => s.takeOutcome k)

/-- REPORT_ENTRY (R146): the entry is applied, and the engine serves what it brings about at once if it may. -/
def execReportEntry (k : Fin 4) (s : State) : Host.Outcome State Fault Refusal :=
  .next
    (match (s.line k).reports with
    | [] => s
    | r :: rest => (((s.onLine k fun l => { l with reports := rest }).report k r).engineGo).serveBus)

/-- The oldest live outcome of a line reaches the Watch Unit. -/
def State.takeLiveOutcome (s : State) (k : Fin 4) : State :=
  match (s.line k).liveOutcomes with
  | [] => s
  | m :: rest => (s.onLine k fun l => { l with liveOutcomes := rest }).liveOutcome m

/-- LIVE_TUNE_OUTCOME (R152). -/
def execLiveTuneOutcome (k : Fin 4) (s : State) : Host.Outcome State Fault Refusal :=
  .next (s.whenDue (fun s => decide ((s.line k).liveOutcomes ≠ [])) fun s => s.takeLiveOutcome k)

/-- BLIND_NOTICE (R156): the oldest notice of the line, if it is a BLIND notice. -/
def execBlindNotice (k : Fin 4) (s : State) : Host.Outcome State Fault Refusal :=
  .next
    (match (s.line k).notices with
    | ⟨true, addr⟩ :: rest => (s.onLine k fun l => { l with notices := rest }).blind k addr
    | _ => s)

/-- UNBLIND_NOTICE (R157): the oldest notice of the line, if it is an UNBLIND notice. -/
def execUnblindNotice (k : Fin 4) (s : State) : Host.Outcome State Fault Refusal :=
  .next
    (match (s.line k).notices with
    | ⟨false, addr⟩ :: rest => (s.onLine k fun l => { l with notices := rest }).unblind k addr
    | _ => s)

end Sys2Proof.Machine
end

