-- ==== Sys2Proof/Machine/LineEvents.lean ====
section
/-! DEFINITION. The commands of the Rack Lines (chapter 7): frames, characters and timers. -/

namespace Sys2Proof.Machine

/-- REQUEST_FRAME_SENT (R123, R127): DIR falls, and the reply is awaited. -/
def execRequestFrameSent (k : Fin 4) (s : State) : Host.Outcome State Fault Refusal :=
  .next (s.whenDue (fun s => (s.line k).dir) fun s =>
    s.onLine k fun l => { l with phase := .awaiting Assembler.empty })

/-- CHARACTER_RECEIVED (R124, R127). -/
def execCharacterReceived (k : Fin 4) (samples : BitVec 33) (s : State) : Host.Outcome State Fault Refusal :=
  .next (s.receive k samples)

/-- UNSOLICITED_CHARACTER (R129). Whether a character is unsolicited follows from the line's state (log 27). -/
def execUnsolicitedCharacter (k : Fin 4) (samples : BitVec 33) (s : State) : Host.Outcome State Fault Refusal :=
  .next (s.receive k samples)

/-- REPLY_FRAME (R127, R128). -/
def execReplyFrame (k : Fin 4) (s : State) : Host.Outcome State Fault Refusal := .next (s.judgeReply k)

/-- GAP_TIMEOUT (R127, R128): more than 3 character times pass inside a frame. -/
def execGapTimeout (k : Fin 4) (s : State) : Host.Outcome State Fault Refusal :=
  .next
    (match (s.line k).phase with
    | .awaiting a => if a.bytes ≠ [] ∧ a.ended = none then s.exchangeFailed k .gap else s
    | _ => s)

/-- REPLY_TIMEOUT (R128): no address character has arrived. -/
def execReplyTimeout (k : Fin 4) (s : State) : Host.Outcome State Fault Refusal :=
  .next
    (match (s.line k).phase with
    | .awaiting a => if a.bytes = [] ∧ a.ended = none then s.exchangeFailed k .timeout else s
    | _ => s)

/-- FAILED_EXCHANGE_WAIT_END (R128). -/
def execFailedExchangeWaitEnd (k : Fin 4) (s : State) : Host.Outcome State Fault Refusal :=
  .next (if (s.line k).phase = .failedWait then s.onLine k Line.startFrame else s)

/-- GOOD_EXCHANGE_WAIT_END (R128). -/
def execGoodExchangeWaitEnd (k : Fin 4) (s : State) : Host.Outcome State Fault Refusal :=
  .next (if (s.line k).phase = .goodWait then s.onLine k Line.startFrame else s)

/-- POLL_TIMER (R135): the poll-due mark is set, and an idle line chooses its work. The timer of an off line
does not run (R139). -/
def execPollTimer (k : Fin 4) (s : State) : Host.Outcome State Fault Refusal :=
  .next (if (s.line k).isOn then s.onLine k fun l => Line.choose { l with pollDue := true } else s)

end Sys2Proof.Machine
end

