-- ==== Sys2Proof/Machine/Dispatch.lean ====
section
/-! DEFINITION. The meaning of every command: one arm per row of the table. -/

namespace Sys2Proof.Machine

def exec (i : Instr) (s : State) : Host.Outcome State Fault Refusal :=
  match i with
  | .reset beats => Sys2Proof.Machine.execReset beats s
  | .runStart nudge => Sys2Proof.Machine.execRunStart nudge s
  | .halt nudge => Sys2Proof.Machine.execHalt nudge s
  | .runZeroInStarting nudge => Sys2Proof.Machine.execRunZeroInStarting nudge s
  | .nudge run => Sys2Proof.Machine.execNudge run s
  | .clearCause value => Sys2Proof.Machine.execClearCause value s
  | .registerWrite offset value enables => Sys2Proof.Machine.execRegisterWrite offset value enables s
  | .anchorReadDone => Sys2Proof.Machine.execAnchorReadDone s
  | .statusRewriteComplete => Sys2Proof.Machine.execStatusRewriteComplete s
  | .haltComplete => Sys2Proof.Machine.execHaltComplete s
  | .busGrant writes => Sys2Proof.Machine.execBusGrant writes s
  | .burstComplete => Sys2Proof.Machine.execBurstComplete s
  | .transferTimeout beats => Sys2Proof.Machine.execTransferTimeout beats s
  | .busError beat => Sys2Proof.Machine.execBusError beat s
  | .surveyTimer => Sys2Proof.Machine.execSurveyTimer s
  | .survey => Sys2Proof.Machine.execSurvey s
  | .surveyAgain => Sys2Proof.Machine.execSurveyAgain s
  | .orderCompletion => Sys2Proof.Machine.execOrderCompletion s
  | .engineStepBoundary => Sys2Proof.Machine.execEngineStepBoundary s
  | .swapAnswer => Sys2Proof.Machine.execSwapAnswer s
  | .queueRoomNotice line engineFirst => Sys2Proof.Machine.execQueueRoomNotice line engineFirst s
  | .tuneOutcomeRecord line => Sys2Proof.Machine.execTuneOutcomeRecord line s
  | .tuningWordSent => Sys2Proof.Machine.execTuningWordSent s
  | .lockComes => Sys2Proof.Machine.execLockComes s
  | .lockLimitExpiry => Sys2Proof.Machine.execLockLimitExpiry s
  | .dwellEnd lock => Sys2Proof.Machine.execDwellEnd lock s
  | .conversionComplete reading => Sys2Proof.Machine.execConversionComplete reading s
  | .bufferWriteDone => Sys2Proof.Machine.execBufferWriteDone s
  | .progressWriteDone => Sys2Proof.Machine.execProgressWriteDone s
  | .sweepStopWordReadDone => Sys2Proof.Machine.execSweepStopWordReadDone s
  | .requestFrameSent line => Sys2Proof.Machine.execRequestFrameSent line s
  | .replyFrame line => Sys2Proof.Machine.execReplyFrame line s
  | .gapTimeout line => Sys2Proof.Machine.execGapTimeout line s
  | .replyTimeout line => Sys2Proof.Machine.execReplyTimeout line s
  | .failedExchangeWaitEnd line => Sys2Proof.Machine.execFailedExchangeWaitEnd line s
  | .unsolicitedCharacter line samples => Sys2Proof.Machine.execUnsolicitedCharacter line samples s
  | .pollTimer line => Sys2Proof.Machine.execPollTimer line s
  | .reportEntry line => Sys2Proof.Machine.execReportEntry line s
  | .liveTuneOutcome line => Sys2Proof.Machine.execLiveTuneOutcome line s
  | .blindNotice line => Sys2Proof.Machine.execBlindNotice line s
  | .unblindNotice line => Sys2Proof.Machine.execUnblindNotice line s
  | .statusRecordWrite => Sys2Proof.Machine.execStatusRecordWrite s
  | .settingsWriteDone => Sys2Proof.Machine.execSettingsWriteDone s
  | .characterReceived line samples => Sys2Proof.Machine.execCharacterReceived line samples s
  | .goodExchangeWaitEnd line => Sys2Proof.Machine.execGoodExchangeWaitEnd line s

end Sys2Proof.Machine
end

