-- ==== Sys2Proof/Safety.lean ====
section
/-! DEFINITION. What the manual says holds at all times: the invariants of the tables and lists that the part
keeps, in the terms in which claims use them. -/

namespace Sys2Proof.Machine

/-- Shared memory is in its canonical form. -/
def State.memOk (s : State) : Prop := Memory.wf s.mem = true

/-- The Occupancy Map (R97): one bin for each code 0..8959, every counter within 0..7, in canonical form. -/
def State.binsOk (s : State) : Prop :=
  sparseWf Bin.reset s.bins = true ∧ ∀ b, (s.bin b).counter ≤ 7

/-- The Coupling Table (R39): every cell holds 0..63, and the diagonal holds 0. -/
def State.couplingOk (s : State) : Prop :=
  sparseWf 0 s.coupling = true ∧ (∀ k t, s.isolation k t ≤ 63) ∧ ∀ k, k < Config.stages → s.isolation k k = 0

/-- The Plan Parameters (R42) lie in their ranges. -/
def PlanParams.ok (p : PlanParams) : Prop :=
  p.gcc ≤ 31 ∧ p.g3 ≤ 15 ∧ p.g5 ≤ 15 ∧ p.gocc ≤ 7 ∧ p.reuse ≤ 63 ∧ -128 ≤ p.t3 ∧ p.t3 ≤ 63 ∧ -128 ≤ p.t5 ∧
    p.t5 ≤ 63 ∧ 1 ≤ p.searchLimit ∧ p.searchLimit ≤ 4095

/-- The Watch Parameters (R144) lie in their ranges. -/
def WatchParams.ok (p : WatchParams) : Prop :=
  p.foreign ≤ 200 ∧ 1 ≤ p.error ∧ p.error ≤ 255 ∧ 1 ≤ p.confirm ∧ p.confirm ≤ 7 ∧ p.settle ≤ 15 ∧
    1 ≤ p.swapLimit ∧ p.swapLimit ≤ 7

/-- The parameters that orders set (R42, R98, R144). -/
def State.paramsOk (s : State) : Prop := s.params.ok ∧ s.watch.params.ok ∧ s.occThreshold ≤ 200

/-- No two valid ways of one Carrier Cache set hold the same tag (R53). -/
def State.cacheOk (s : State) : Prop :=
  ∀ set a b, s.way set false = some a → s.way set true = some b → a.tag ≠ b.tag

/-- The Air Set (R24 to R26): at most 200 entries, no two for one carrier, in order of code and carrier ID, the
owner order present exactly while an entry is PENDING. -/
def State.airOk (s : State) : Prop :=
  s.air.length ≤ 200 ∧ (s.air.map AirEntry.id).Nodup ∧ s.air.Pairwise (fun a b => airBefore a b = true) ∧
    ∀ e ∈ s.air, (e.air = .pending ↔ e.owner.isSome = true)

/-- The Swap Request List (R73): at most 8 requests, no two for one carrier. -/
def State.requestsOk (s : State) : Prop := s.engine.requests.length ≤ 8 ∧ s.engine.requests.Nodup

/-- The Spare List (R78): no two entries hold one code, and no carrier uses more than one entry. -/
def State.sparesOk (s : State) : Prop := (s.spares.map Spare.code).Nodup ∧ (s.spares.filterMap Spare.user).Nodup

/-- A Command Queue (R133): at most 8 entries, at most 6 of them plan-class. -/
def Line.queueOk (l : Line) : Prop := l.queued ≤ 8 ∧ l.plan.length ≤ 6

/-- Every Command Queue. -/
def State.queuesOk (s : State) : Prop := ∀ k, (s.line k).queueOk

/-- A Rack Roster (R130): up to 8 entries, no two for one address, each address within 1..30. -/
def Line.rosterOk (l : Line) : Prop :=
  l.roster.length ≤ 8 ∧ (l.roster.map RosterEntry.addr).Nodup ∧ ∀ e ∈ l.roster, 1 ≤ e.addr ∧ e.addr ≤ 30

/-- Every Rack Roster. -/
def State.rostersOk (s : State) : Prop := ∀ k, (s.line k).rosterOk

/-- No two watch records for one carrier (R143). -/
def State.watchOk (s : State) : Prop := (s.watch.records.map WatchRec.id).Nodup

/-- Every record that exists stands on the mark list at most once, and no other does (R174). -/
def State.marksOk (s : State) : Prop := s.status.marks.Nodup ∧ ∀ r ∈ s.status.marks, r.exists = true

end Sys2Proof.Machine
end

