-- ==== Sys2Proof/Certificates/Slice0/Obligations.lean ====
section
/-! DEFINITION. The statements about the model, for the provers. Where a statement rests on a choice of the
model's own, its docstring names the log entry. -/

open Sys2Proof Sys2Proof.Machine

/-! ### Terms of the statements -/

/-- Byte n of a parameter, from the least significant (R194). -/
def parByte (p n : Nat) : Nat := p / 256 ^ n % 256

/-- The signed value of a byte. -/
def signedByte (n : Nat) : Int := if n < 128 then n else (n : Int) - 256

/-- How many values as stored differ from the values given: pairs of the two. -/
def differing (l : List (Int × Int)) : Nat := (l.filter fun p => decide (p.1 ≠ p.2)).length

/-- A 16-bit value as two bytes, the lower first. -/
def twoBytes (n : Nat) : List Byte := [BitVec.ofNat 8 n, BitVec.ofNat 8 (n / 256)]

/-- The status records that exist (R174): of 12 stages, of 96 carriers in each of them, of 4 lines and of 64 spares. -/
def recordExists : RecId → Bool
  | .stage n => decide (n < 12)
  | .carrier id => decide (id / 256 < 12 ∧ id % 256 < 96)
  | .line _ => true
  | .spare i => decide (i < 64)

/-- The marks of `t` are those of `s` and those of the records named, as far as they exist. -/
def marksJoined (s t : State) (named : RecId → Prop) : Prop :=
  ∀ r, r ∈ t.status.marks ↔ r ∈ s.status.marks ∨ recordExists r = true ∧ named r

/-- The marks of `t` are those of `s` and those of the records named, as far as they exist; the Status Writer is as
before in all else. -/
def marksAdded (s t : State) (named : RecId → Prop) : Prop :=
  marksJoined s t named ∧ { t.status with marks := s.status.marks } = s.status

/-- An Air Set entry as a transmission (R1). -/
def txOf (e : AirEntry) : Tx := ⟨e.id, e.code, e.stage, e.power⟩

/-- The Air Set without a carrier's entry. -/
def othersThan (s : State) (id : Nat) : List Tx := (s.air.filter fun e => decide (e.id ≠ id)).map txOf

/-- The engine has handed over the end of its order and holds none (R72). -/
def handedOver (s : State) (c : Completion) : State :=
  { s with
    engine := { s.engine with pos := .idle, order := none }
    board := { s.board with completions := s.board.completions ++ [c] } }

/-- A step of the order has ended, and its boundary is reached (R68). -/
def stepEnded (s : State) (o : EngineOrder) (k : StepKind) : State :=
  { s with engine := { s.engine with order := some { o with last := k }, pos := .boundary } }

/-- The order with an outcome for the next of its items (R72). -/
def itemAnswered (o : EngineOrder) (id : Nat) (out : ItemOutcome) (code : Nat) : EngineOrder :=
  { o with outcomes := o.outcomes ++ [⟨id, out, code⟩], cursor := o.cursor + 1 }

/-- The carrier in hand is to be examined next. -/
def takenInHand (s : State) (o : EngineOrder) (j : Joiner) : State :=
  { s with engine := { s.engine with order := some { o with joiner := some j }, pos := .step } }

/-- The bins of the grid within g of a code (R2). -/
def binsAround (g code : Nat) : List Nat :=
  (List.range 8960).filter fun x => decide (code ≤ x + g ∧ x ≤ code + g)

/-- The power level of a power class (R3). -/
def powerOf (c : Nat) : Nat := match c with
  | 0 => 0
  | 1 => 4
  | 2 => 7
  | _ => 10

/-- The bytes of a TUNE frame (R125, R126). -/
def tuneBytes (e : Tune) : List Byte :=
  let body : List Byte := [BitVec.ofNat 8 e.addr, 4, 2, BitVec.ofNat 8 e.slot] ++ twoBytes e.code
  body ++ [BitVec.ofNat 8 (256 - (body.map BitVec.toNat).sum % 256)]

/-- The bytes of a POLL frame (R125, R126). -/
def pollBytes (addr first : Nat) : List Byte :=
  let body : List Byte := [BitVec.ofNat 8 addr, 2, 1, BitVec.ofNat 8 first]
  body ++ [BitVec.ofNat 8 (256 - (body.map BitVec.toNat).sum % 256)]

/-- The request frame of a transaction. -/
def requestOf : Transaction → List Byte
  | .tune e _ => tuneBytes e
  | .poll addr first _ => pollBytes addr first

/-- A transaction begun: its frame goes out at once on a quiet line, and waits for the end of a wait after an exchange
otherwise (R128; log 32). -/
def workBegun (l : Line) (x : Transaction) (frame : List Byte) : Line :=
  { l with txn := some x, phase := if l.phase = .quiet then .sending frame else l.phase }

/-- An off line ends every entry of its queue NO_REPLY, live class first (R139). -/
def queueEnded (l : Line) : Line :=
  let ended := l.live ++ l.plan
  { l with
    live := [], plan := [], roomNotices := l.roomNotices + ended.length
    outcomes := l.outcomes ++ (ended.filter fun e => decide (e.id ≠ 65535)).map fun e => ⟨e.id, e.code, .noReply⟩
    liveOutcomes := l.liveOutcomes ++ (ended.filter fun e => e.live).map fun e => ⟨e.id, e.code, .noReply⟩ }

/-- The next work of a line between transactions (R134, R135): the oldest live entry before the oldest plan entry, and
either before a poll that is due, of the rack that the rotation index names. -/
def nextWork (l : Line) : Line :=
  if l.values.divisor = 0 then queueEnded l
  else match l.live, l.plan, l.pollDue, l.roster[l.rotation]? with
    | e :: rest, _, _, _ =>
      workBegun { l with live := rest, roomNotices := l.roomNotices + 1 } (.tune e 1) (tuneBytes e)
    | [], e :: rest, _, _ =>
      workBegun { l with plan := rest, roomNotices := l.roomNotices + 1 } (.tune e 1) (tuneBytes e)
    | [], [], true, some r =>
      workBegun { l with pollDue := false } (.poll r.addr r.cursor false) (pollBytes r.addr r.cursor)
    | _, _, _, _ => l

/-- A line whose transaction has ended: pending values are applied first (R122), divisor 0 turning the line off (R139;
log 45), and the line goes on to its next work. -/
def lineGoesOn (l : Line) : Line :=
  nextWork (match l.pendingSetup with
    | none => { l with txn := none }
    | some v =>
      if v.divisor = 0 then
        { l with txn := none, values := v, pendingSetup := none, pollDue := false, phase := .quiet }
      else { l with txn := none, values := v, pendingSetup := none })

/-- A line that has accepted an entry: it stands behind the others of its class, and a line that is not in a transaction
goes on to its next work at once (R133, R135). -/
def lineTakes (l : Line) (e : Tune) : Line :=
  let l' := if e.live then { l with live := l.live ++ [e] } else { l with plan := l.plan ++ [e] }
  if l.txn.isSome then l' else nextWork l'

/-- TUNEs of live class offered one after another, until one finds 8 entries queued: the line after them, and how many
it has accepted (R133, R159). -/
def offersTaken : Line → List Tune → Line × Nat
  | l, [] => (l, 0)
  | l, e :: es =>
    if l.live.length + l.plan.length < 8 then
      let r := offersTaken (lineTakes l e) es
      (r.1, r.2 + 1)
    else (l, 0)

/-- An offer that a line's queue accepts (R133): of live class with fewer than 8 entries queued, of plan class with
fewer than 6. -/
def queueAccepts (l : Line) (live : Bool) : Prop := l.live.length + l.plan.length < if live then 8 else 6

/-- The cause flag at a bit of STATUS, whose enable stands at the same bit of INT_ENABLE (R188, R194). -/
def causeAt : Nat → Option Cause
  | 8 => some .orderEnded
  | 9 => some .statusChanged
  | 10 => some .alert
  | 11 => some .memoryFault
  | 12 => some .halted
  | 13 => some .anchorBad
  | 14 => some .settingsDefaulted
  | _ => none

/-- The codes of results (R194). -/
def resultValue : ResultCode → Nat
  | .ok => 0
  | .partialDone => 1
  | .conflicts => 2
  | .truncated => 3
  | .badOrder => 4
  | .stopped => 5
  | .halted => 6
  | .memory => 7
  | .permission => 8
  | .notOnAir => 9
  | .notOffAir => 10
  | .noCandidate => 11
  | .duplicate => 12
  | .tunerFault => 13
  | .nothingDone => 14
  | .refusedConflict => 15
  | .searchLimit => 16

/-- The catalogue of orders by their kind codes (R194). -/
def catalogue : List (Nat × OrderKind) :=
  [(1, .setParams), (2, .loadCoupling), (3, .sparesLoad), (4, .sparesRelease), (5, .flushCache), (6, .airJoin),
    (7, .airLeave), (8, .changeover), (9, .retune), (10, .check), (11, .sweep), (12, .storeSettings), (13, .markBand),
    (14, .watchSetup), (15, .watchRelease), (16, .lineSetup), (17, .rackRoster), (18, .rackTune)]

/-- A slot's bytes from its stop word on, by their offsets in the slot (R194). An address is taken with its low two bits
0. -/
def bodyAt (bs : List Byte) : OrderBody :=
  let off := fun slotOffset => slotOffset - 2
  { stop := half bs (off 2), kind := byteAt bs (off 4), priority := byteAt bs (off 5)
    listA := word bs (off 8) / 4 * 4, listACount := half bs (off 12), listBCount := half bs (off 14)
    listB := word bs (off 16) / 4 * 4, result := word bs (off 20) / 4 * 4, capacity := word bs (off 24)
    p0 := word bs (off 28), p1 := word bs (off 32), p2 := word bs (off 36), p3 := word bs (off 40) }

/-- A transfer of the Board Handler has been presented, and the handler waits for its end. -/
def boardAsks (s : State) (write : Bool) (addr n : Nat) (data : List Byte) (p : BoardPos) : State :=
  { s with
    board := { s.board with pos := p }
    port := { s.port with transfers := s.port.transfers ++ [⟨.board, write, addr, n, data⟩] } }

/-- A completion's result burst has been presented: result_code, count_1 and count_2 from byte 44 of its slot on (R172,
R194). -/
def resultBurst (s : State) (c : Completion) (p : BoardPos) : State :=
  boardAsks s true (s.latch.boardAddr + 64 * c.slot + 44) 6
    (twoBytes (resultValue c.result) ++ twoBytes c.count1 ++ twoBytes c.count2) p

/-- The survey in progress has ended (R166, R167, R170). -/
def surveyOver (s : State) : State := { s with board := { s.board with pos := .idle, ending := false } }

/-- The answer of the Board Handler's transfer has been taken. -/
def answerTaken (s : State) : State := { s with mail := { s.mail with board := none } }

/-! ### Steps and the queue of commands -/

/-- A step runs the command at the front of the queue on the rest of it. With an empty queue the part ticks, and one
with no work over the map, no bin of an order's band to reach and none of a reading to read, idles: the model's own
choice (log 5). With both works under way a tick is the next bin of one of them: of which is a free value, and the count
of choices made rises (log 10). -/
def Obligations.StepRunsFrontCommand : Prop :=
  (∀ (c : Instr) (rest : List Instr) (s : State), s.pending = c :: rest → step s = exec c { s with pending := rest }) ∧
    (∀ s : State, s.pending = [] → step s = .next s.tick) ∧
    (∀ s : State, s.pending = [] → (∀ b, s.band = some b → b.left = 0) →
      (∀ r, s.engine.reading = some r → r.left = []) → step s = .next s) ∧
    ∀ (b : Band) (r : BinRead) (s : State), s.pending = [] → s.band = some b → b.left ≠ 0 →
      s.engine.reading = some r → r.left ≠ [] →
      let u := { s with paces := s.paces + 1 }
      step s = .next u.bandStep.boardGo.serveBus ∨ step s = .next u.readBin.engineGo.serveBus

/-! ### Registers and run control -/

/-- The working copy that a settings block gives (R191, R122), at the offsets of R194. -/
def settingsRead (bs : List Byte) : WorkingCopy :=
  { wide := decide (byteAt bs 0 ≠ 1), monitorPeriod := max 1 (byteAt bs 1), surveyInterval := max 1 (byteAt bs 2)
    lines := Vector.ofFn fun l : Fin 4 =>
      ⟨min (half bs (4 + 4 * l.val)) 4095, max 2 (byteAt bs (6 + 4 * l.val)), max 1 (byteAt bs (7 + 4 * l.val))⟩ }

/-- RESET gives every block its reset value. The working copy comes from the nonvolatile block (R191), which stands,
each value read as R191 and R122 state; a block that fails its check gives the factory defaults and sets
SETTINGS_DEFAULTED. No line has pending values, a poll due or a hand-off waiting. The tuner keeps its word (R108). In
shared memory the completed beats of a write burst in progress stay, and every other byte is as before. Of the Sweep
Unit, that the point count, the halt mark and the outcome of the point in hand are 0 and clear is the model's own choice
(log 64). Of a window the size alone is said: its base and access after a reset are a choice that nothing here rests on
(log 63). -/
def Obligations.ResetGivesResetValues : Prop :=
  ∀ (beats : Nat) (s : State), ∃ t, exec (.reset beats) s = .next t ∧
    t.run = .stopped ∧ t.runBit = false ∧ t.anchor = 0 ∧ t.intEnable = 0 ∧ t.fault = ⟨0, none, none, 0⟩ ∧
    (∀ i : Fin 4, (t.windows.get i).size = 0) ∧
    (∀ c, t.hasCause c =
      (decide (c = .settingsDefaulted) && decide (byteSum s.settings.block % 256 ≠ 0xA5))) ∧
    t.settings.block = s.settings.block ∧
    t.settings.copy =
      (if byteSum s.settings.block % 256 = 0xA5 then settingsRead s.settings.block
        else ⟨true, 50, 20, Vector.replicate 4 ⟨40, 20, 10⟩⟩) ∧
    t.port.transfers = [] ∧ t.port.phase = .free ∧ t.port.lastServed = .status ∧
    t.board.pos = .idle ∧ t.board.cursor = 0 ∧ t.board.timerOn = false ∧ t.board.again = false ∧
    t.board.ending = false ∧ t.board.completions = [] ∧ t.board.heldEngine = none ∧
    t.board.heldSweep = none ∧ t.board.heldSettings = none ∧
    t.engine.order = none ∧ t.engine.requests = [] ∧ t.engine.reading = none ∧ t.engine.service = none ∧ t.air = [] ∧
    t.spares = [] ∧ (∀ k c, t.isolation k c = 0) ∧ (∀ b, t.bin b = ⟨0, false⟩) ∧ t.band = none ∧
    t.occThreshold = 60 ∧ t.params = ⟨12, 4, 2, 2, 40, -30, -40, true, true, 1000, false⟩ ∧
    (∀ set b, t.way set b = none) ∧ (∀ n, sparseGet false t.alt n = false) ∧
    t.sweep = ⟨.idle, none, ⟨0, 0, 0, 0, 0, false, 0, false, false⟩, ⟨false, false, false⟩⟩ ∧ t.tuner = s.tuner ∧
    (∀ k : Fin 4, (t.line k).values = t.settings.copy.lines.get k ∧ (t.line k).queued = 0 ∧ (t.line k).roster = [] ∧
      (t.line k).rotation = 0 ∧ (t.line k).pendingSetup = none ∧ (t.line k).pollDue = false ∧
      (t.line k).txn = none ∧ (t.line k).phase = .quiet ∧ (t.line k).dir = false ∧ (∀ n, (t.line k).txd n = true) ∧
      (t.line k).roomNotices = 0 ∧ (t.line k).reports = [] ∧ (t.line k).outcomes = [] ∧
      (t.line k).liveOutcomes = [] ∧ (t.line k).notices = [] ∧ ∀ c, (t.line k).count c = 0) ∧
    t.swapAnswers = [] ∧ t.mail = Mail.empty ∧ t.latch.statusAddr = none ∧ t.rewrite = none ∧
    t.watch = ⟨[], ⟨40, 8, 3, 2, 3⟩, []⟩ ∧ t.status.marks = [] ∧ t.status.epoch = 0 ∧ (∀ r, t.seq r = 0) ∧
    (∀ id, t.kept id = ⟨.unconfirmed, 255, 0⟩) ∧
    (∀ (src : Source) (x : Transfer), s.port.phase = .granted src → s.inProgress = some x → x.write = true →
      x.data.length = x.left → x.addr + x.left ≤ 2 ^ 32 →
      beats < burstBeatCount s.beatBytes x.addr (burstLength s.beatBytes x.addr x.left) →
      ∀ a < 2 ^ 32, t.byte a =
        if x.addr ≤ a ∧ a < x.addr + beatsMoved s.beatBytes x.addr (burstLength s.beatBytes x.addr x.left) beats then
          x.data.getD (a - x.addr) 0 else s.byte a) ∧
    (((∀ src, s.port.phase ≠ .granted src) ∨ ∀ x, s.inProgress = some x → x.write = false) → t.mem = s.mem)

/-- RUN 1 in STOPPED begins the start: the anchor read is presented, untested by the windows, at ANCHOR with its
low two bits 0; NUDGE with it has no effect. -/
def Obligations.RunStartReadsAnchor : Prop :=
  ∀ (nudge : Bool) (s : State), s.run = .stopped → ∃ t, exec (.runStart nudge) s = .next t ∧
    t.run = .starting ∧ t.runBit = true ∧
    t.port.transfers = s.port.transfers ++ [⟨.anchor, false, s.anchor.toNat / 4 * 4, 64, []⟩] ∧
    (s.port.phase = .free → s.port.transfers = [] → t.port.phase = .requesting .board) ∧
    (s.port.phase ≠ .free → t.port.phase = s.port.phase) ∧ t.port.lastServed = s.port.lastServed ∧
    { t with run := s.run, runBit := s.runBit, port := s.port } = s

/-- A watch record after the fall of RUN (R158). -/
def alertedByHalt (r : WatchRec) : WatchRec :=
  if r.state = .confirmed ∨ r.state = .swapWait then { r with state := .alerted, run := 0, settle := 0 } else r

/-- The fall of RUN has reached the Watch Unit: it has taken the answers that the engine has given (log 7), and each
carrier that goes to ALERTED has marked its record and its stage's, and set ALERT. -/
def watchHalted (s t : State) (more : List Cause) : Prop :=
  let u := s.takeAnswers
  let falls := fun id => ∃ w, u.watchRec id = some w ∧ (w.state = .confirmed ∨ w.state = .swapWait)
  (∀ id, t.watchRec id = (u.watchRec id).map alertedByHalt) ∧ t.swapAnswers = [] ∧
    { t.watch with records := s.watch.records } = s.watch ∧
    marksAdded u t (fun r => ∃ id, falls id ∧ (r = .carrier id ∨ r = .stage (id / 256))) ∧
    ∀ c, t.hasCause c = true ↔ u.hasCause c = true ∨ c ∈ more ∨ c = .alert ∧ ∃ id, falls id

/-- A halt has reached the blocks (R158, R166, R190): the engine drops its requests and marks its order, the Sweep Unit
marks an order that it holds, the Board Handler stops its timer and ends a survey in progress, and the Watch Unit sees
the fall of RUN. -/
def haltReaches (s t : State) : Prop :=
  t.engine = { s.engine with
      requests := []
      order := s.engine.order.map fun o => { o with haltMark := true } } ∧
    t.sweep = (if s.sweep.order.isSome then { s.sweep with count := { s.sweep.count with haltMark := true } }
      else s.sweep) ∧
    t.board = { s.board with
      again := false
      timerOn := false
      ending := decide (s.board.pos ≠ .idle ∧ s.board.pos ≠ .begun)
      pos := if s.board.pos = .begun then .idle else s.board.pos } ∧
    watchHalted s t []

/-- RUN 0 in RUNNING: the halt reaches every block in the same event. RUN 0 in STARTING: RUN reads 0 at once, its fall
reaches the Plan Engine and the Watch Unit, and the start runs on. The watch records are those that the answers
already given by the engine have left (log 7), with a mark and ALERT for each carrier that the halt takes to ALERTED. -/
def Obligations.RunZeroReachesTheBlocks : Prop :=
  (∀ (nudge : Bool) (s : State), s.run = .running → s.watchOk → ∃ t, exec (.halt nudge) s = .next t ∧
    t.run = .halting ∧ t.runBit = false ∧
    haltReaches s t ∧
    { t with
      run := s.run, runBit := s.runBit, engine := s.engine, sweep := s.sweep, board := s.board, watch := s.watch
      swapAnswers := s.swapAnswers, status := s.status, causes := s.causes } = s) ∧
  ∀ (nudge : Bool) (s : State), s.run = .starting → s.runBit = true → s.watchOk →
    ∃ t, exec (.runZeroInStarting nudge) s = .next t ∧
      t.run = .starting ∧ t.runBit = false ∧
      t.engine = { s.engine with
        requests := []
        order := s.engine.order.map fun o => { o with haltMark := true } } ∧
      watchHalted s t [] ∧
      { t with
        runBit := s.runBit, engine := s.engine, watch := s.watch, swapAnswers := s.swapAnswers, status := s.status
        causes := s.causes } = s

/-- NUDGE gives a survey trigger in RUNNING alone, and is ignored in STARTING, STOPPED and HALTING, where the RUN bit
written with it acts by itself. In RUNNING a trigger begins a survey, or sets the survey-again mark when one is in
progress; that it sets the mark also while completions are waiting or being written is log 20, and that a survey that
begins takes up a mark set before it is log 49. -/
def Obligations.NudgeTriggersSurveyWhileRunning : Prop :=
  (∀ s : State, s.run = .running → s.board.pos = .idle → s.board.completions = [] →
    exec (.nudge true) s = .next { s with board := { s.board with pos := .begun, again := false } }) ∧
  (∀ s : State, s.run = .running → (s.board.pos ≠ .idle ∨ s.board.completions ≠ []) →
    exec (.nudge true) s = .next { s with board := { s.board with again := true } }) ∧
  (∀ s : State, s.run = .running → exec (.nudge false) s = exec (.halt false) s) ∧
  (∀ s : State, s.run = .stopped → exec (.nudge false) s = .next s ∧ exec (.nudge true) s = exec (.runStart false) s) ∧
  (∀ s : State, s.run = .starting → exec (.nudge true) s = .next s ∧
    exec (.nudge false) s = exec (.runZeroInStarting false) s) ∧
  ∀ (b : Bool) (s : State), s.run = .halting → exec (.nudge b) s = .next s

/-- A write of 1 to a cause flag clears it and a write of 0 leaves it; INT follows flags and enables at once. -/
def Obligations.ClearCauseClearsNamedFlags : Prop :=
  ∀ (v : Word) (s : State), ∃ t, exec (.clearCause v) s = .next t ∧
    (∀ i c, causeAt i = some c → t.hasCause c = (s.hasCause c && !v.getLsbD i)) ∧
    (t.intAsserted = true ↔
      ∃ i c, causeAt i = some c ∧ t.hasCause c = true ∧ (s.readRegister 0x0C).getLsbD i = true) ∧
    { t with causes := s.causes } = s

/-- Host writes of the registers: partial writes and writes of read-only registers have no effect; INT_ENABLE
takes bits 8 to 14, ANCHOR the word; a write of STATUS clears causes; a write of CONTROL acts as the run control
commands do (log 26). -/
def Obligations.RegisterWriteEffects : Prop :=
  ∀ (v : Word) (s : State),
    (∀ offset enables, enables ≠ 0xF#4 → exec (.registerWrite offset v enables) s = .next s) ∧
    (∀ offset, offset ∈ [0x00, 0x14, 0x18, 0x1C] → exec (.registerWrite offset v 0xF) s = .next s) ∧
    (∃ t, exec (.registerWrite 0x0C v 0xF) s = .next t ∧
      (∀ i < 7, t.intEnable.getLsbD i = v.getLsbD (8 + i)) ∧ { t with intEnable := s.intEnable } = s) ∧
    exec (.registerWrite 0x10 v 0xF) s = .next { s with anchor := v } ∧
    exec (.registerWrite 0x08 v 0xF) s = exec (.clearCause v) s ∧
    exec (.registerWrite 0x04 v 0xF) s =
      exec (if v.getLsbD 1 then .nudge (v.getLsbD 0) else if v.getLsbD 0 then .runStart false else .halt false) s

/-- What the host reads of the registers, bit by bit, the causes in bits 8 to 14 of STATUS each by its name, the
engine busy while it holds an order or serves a swap request, and of one that it reads with fewer than four byte
enables: the enabled bytes alone. A fault count above 255 does not occur. -/
def Obligations.RegistersReadTheirLayout : Prop :=
  ∀ s : State,
    s.readRegister 0x00 = 0x02120001 ∧
    (∀ i < 32, (s.readRegister 0x04).getLsbD i = (decide (i = 0) && s.runBit)) ∧
    (∀ i < 32, (s.readRegister 0x08).getLsbD i =
      if i = 0 then decide (s.run = .starting ∨ s.run = .running)
      else if i = 1 then decide (s.run = .halting)
      else if i = 2 then s.engine.order.isSome || s.engine.service.isSome
      else if i = 3 then decide (s.sweep.pos ≠ .idle)
      else (causeAt i).any s.hasCause) ∧
    (∀ i < 32, (s.readRegister 0x0C).getLsbD i = (decide (8 ≤ i ∧ i < 15) && s.intEnable.getLsbD (i - 8))) ∧
    s.readRegister 0x10 = s.anchor ∧ s.readRegister 0x14 = s.status.epoch ∧ s.readRegister 0x18 = s.fault.address ∧
    (s.fault.count ≤ 255 → ∀ i < 32, (s.readRegister 0x1C).getLsbD i =
      if i < 2 then
        (match s.fault.kind with
          | none => 0
          | some .window => 1
          | some .timeout => 2
          | some .busError => 3).testBit i
      else if 4 ≤ i ∧ i < 7 then
        (match s.fault.requester with
          | none => 0
          | some .board => 1
          | some .engine => 2
          | some .cache => 3
          | some .sweep => 4
          | some .status => 5).testBit (i - 4)
      else decide (8 ≤ i ∧ i < 16) && s.fault.count.testBit (i - 8)) ∧
    ∀ (offset : Nat) (enables : BitVec 4), (s.hostRead offset enables).length = 4 ∧
      ∀ i < 4, (s.hostRead offset enables)[i]? =
        some (if enables.getLsbD i then some ((s.readRegister offset).extractLsb' (8 * i) 8) else none)

/-- A bad anchor, or a fault on its read: ANCHOR_BAD, STOPPED, RUN 0, nothing latched, HALTED not set. A RUN that was
still 1 falls, which reaches the Plan Engine and the Watch Unit, the latter with the answers already given (log 7). A
search for a spare that is under way ends, so that no bin is read while the part is halted; a write-back of a swap goes
on: the model's own choice (log 55). -/
def Obligations.BadAnchorReturnsToStopped : Prop :=
  ∀ (a : Answer) (s : State), s.run = .starting → s.mail.anchor = some a →
    (a = .fault ∨ ∃ bs, a = .ok bs ∧ (half bs 0 ≠ 3 ∨ byteAt bs 2 = 0 ∨ byteAt bs 3 = 0)) →
    let searching := ∃ id next, s.engine.service = some (.search id next)
    ∃ t, exec .anchorReadDone s = .next t ∧
      t.run = .stopped ∧ t.runBit = false ∧ t.hasCause .anchorBad = true ∧
      t.hasCause .halted = s.hasCause .halted ∧
      t.latch = s.latch ∧ t.windows = s.windows ∧ t.board = s.board ∧ t.mail.anchor = none ∧
      (searching → t.engine.service = none ∧ t.engine.reading = none) ∧
      (¬ searching → t.engine.service = s.engine.service ∧ t.engine.reading = s.engine.reading) ∧
      (s.runBit = true → t.engine.requests = [] ∧
        t.engine.order = (s.engine.order.map fun o => { o with haltMark := true }) ∧
        (s.watchOk → watchHalted s t [.anchorBad])) ∧
      (s.runBit = false → t.engine.requests = s.engine.requests ∧ t.engine.order = s.engine.order ∧
        t.watch = s.watch ∧ t.swapAnswers = s.swapAnswers ∧ t.status = s.status ∧
        ∀ c, t.hasCause c = (s.hasCause c || decide (c = .anchorBad))) ∧
      { t.engine with
        requests := s.engine.requests, order := s.engine.order, service := s.engine.service
        reading := s.engine.reading } = s.engine ∧
      { t with
        run := s.run, runBit := s.runBit, causes := s.causes, mail := s.mail, engine := s.engine, watch := s.watch
        swapAnswers := s.swapAnswers, status := s.status } = s

/-- A good anchor: stages_in_use at most 12, board_slots at most 16, addresses with their low two bits 0, the four
windows as R181 reads them, and every record of R180 marked: those already on the mark list keep their places, and the
others join behind them in the order of R180. The rewrite waits for exactly these records to be written or lost once
each (log 34). -/
def Obligations.GoodAnchorIsLatched : Prop :=
  ∀ (bs : List Byte) (s : State), s.run = .starting → s.mail.anchor = some (.ok bs) →
    half bs 0 = 3 → byteAt bs 2 ≠ 0 → byteAt bs 3 ≠ 0 →
    let records : List RecId :=
      ((List.range (min (byteAt bs 2) 12)).flatMap fun n =>
        .stage n :: (List.range 96).map fun k => .carrier (n * 256 + k)) ++
      [.line 0, .line 1, .line 2, .line 3] ++ (List.range 64).map .spare
    ∃ t, exec .anchorReadDone s = .next t ∧
      t.run = .starting ∧ t.runBit = s.runBit ∧
      t.latch.stages = min (byteAt bs 2) 12 ∧ t.latch.boardSlots = min (byteAt bs 3) 16 ∧
      t.latch.boardAddr = word bs 4 / 4 * 4 ∧ t.latch.dirAddr = word bs 8 / 4 * 4 ∧
      t.latch.statusAddr = some (word bs 12 / 4 * 4) ∧
      (∀ i : Fin 4, (t.windows.get i).base = word bs (16 + 12 * i.val) / 256 * 256 ∧
        (t.windows.get i).size = min (word bs (20 + 12 * i.val) / 256 * 256) (2 ^ 24) ∧
        ((t.windows.get i).access = .read ↔ byteAt bs (24 + 12 * i.val) = 1) ∧
        ((t.windows.get i).access = .readWrite ↔ byteAt bs (24 + 12 * i.val) = 2)) ∧
      t.board = { s.board with cursor := 0, again := false } ∧
      t.rewrite = some records ∧
      t.status = { s.status with
        marks := s.status.marks ++ records.filter fun r => decide (r ∉ s.status.marks) } ∧
      { t with
        latch := s.latch, windows := s.windows, board := s.board, rewrite := s.rewrite, status := s.status
        mail := s.mail } = s

/-- The status rewrite is complete: RUNNING with the timer started and a first survey begun, or HALTING when RUN 0 was
written during the start, when the halt reaches every block; before that it does nothing. A halt whose parts are all
complete ends in STOPPED with HALTED set, and nothing else changes; while one part is not complete, and no work over the
map is left that could complete it, nothing happens (log 4). That the halt waits for the service of a swap request is
the model's own choice (log 55), as is that it waits for a SWEEP whose TAKEN write was in progress when the halt found
the unit IDLE (log 57). -/
def Obligations.StartAndHaltComplete : Prop :=
  (∀ s : State, s.run = .starting → s.rewrite = some [] → s.runBit = true → s.board.pos = .idle →
    s.board.completions = [] →
    exec .statusRewriteComplete s =
      .next { s with
        rewrite := none
        run := .running
        board := { s.board with timerOn := true, pos := .begun, again := false } }) ∧
  (∀ s : State, s.run = .starting → s.rewrite = some [] → s.runBit = false →
    ∃ t, exec .statusRewriteComplete s = .next t ∧ t.run = .halting ∧ t.rewrite = none ∧
      (s.watchOk → haltReaches s t) ∧
      { t with
        run := s.run, rewrite := s.rewrite, engine := s.engine, sweep := s.sweep, board := s.board, watch := s.watch
        swapAnswers := s.swapAnswers, status := s.status, causes := s.causes } = s) ∧
  (∀ s : State, (s.run ≠ .starting ∨ s.rewrite ≠ some []) → exec .statusRewriteComplete s = .next s) ∧
  (∀ s : State, s.run = .halting → s.board.pos = .idle → s.board.completions = [] → s.engine.order = none →
    s.engine.service = none → s.sweep.order = none → s.settings.job = .idle →
    ∃ t, exec .haltComplete s = .next t ∧ t.run = .stopped ∧
      (∀ c, t.hasCause c = (s.hasCause c || decide (c = .halted))) ∧ { t with run := s.run, causes := s.causes } = s) ∧
  ∀ s : State, s.run = .halting →
    (s.board.pos ≠ .idle ∨ s.board.completions ≠ [] ∨ s.engine.order.isSome = true ∨
      s.engine.service.isSome = true ∨ s.sweep.order.isSome = true ∨ s.settings.job ≠ .idle) → s.working = false →
    exec .haltComplete s = .next s

/-! ### Memory Port -/

/-- The last of a list of stores to an address. -/
def lastStore (writes : List (Nat × Byte)) (a : Nat) : Option Byte :=
  (writes.reverse.find? fun w => decide (w.1 = a)).map Prod.snd

/-- The source whose turn an owner's transfers take: the Board Handler also carries the anchor read and the settings
destination's transfers (R183). -/
def sourceOf : Owner → Source
  | .anchor => .board
  | .board => .board
  | .settings => .board
  | .engine => .engine
  | .cache => .cache
  | .sweep => .sweep
  | .status => .status

/-- The requester that a fault of an owner's transfer is recorded with (R185). -/
def requesterOf : Owner → Requester
  | .anchor => .board
  | .board => .board
  | .settings => .board
  | .engine => .engine
  | .cache => .cache
  | .sweep => .sweep
  | .status => .status

/-- The place of a source in the cyclic order (R183). -/
def cyclicPlace : Source → Nat
  | .board => 0
  | .engine => 1
  | .cache => 2
  | .sweep => 3
  | .status => 4

/-- How many sources come before a source when the rotation begins after the one served last (R183). -/
def turnsBefore (last src : Source) : Nat := (cyclicPlace src + 4 - cyclicPlace last) % 5

/-- A port that has been released: free when nothing is presented, and otherwise it has raised the bus request for the
first source in the rotation that presents a burst (R183). -/
def nextServed (p : Port) : Prop :=
  (p.transfers = [] → p.phase = .free) ∧
    ∀ y ∈ p.transfers,
      (∀ z ∈ p.transfers, turnsBefore p.lastServed (sourceOf y.owner) ≤ turnsBefore p.lastServed (sourceOf z.owner)) →
      p.phase = .requesting (sourceOf y.owner)

/-- A transfer after a burst of n bytes that is not its last. -/
def carriedOn (s : State) (x : Transfer) (n : Nat) : Transfer :=
  { x with
    addr := x.addr + n, left := x.left - n
    data := if x.write then x.data.drop n else x.data ++ (List.range n).map fun i => s.byte (x.addr + i) }

/-- A free port serves the sources that present bursts in rotation, beginning after the one it served last, and raises
the bus request; of one source the transfer presented first goes first (log 29). A beat moves 4 bytes, or 2 in the
16-bit width, and a burst runs to the end of the transfer or of its 16th beat; which beats are whole is read from the
layout of beats (log 15). A multi-byte quantity has its least significant byte first. The grant comes: the burst
begins, and shared memory holds what the host stored meanwhile (log 1). The last beat of a write burst: its bytes are
in shared memory, every other byte is as before, the source counts as served, and the bus is released and serves the
next source. After a burst that is not its last the transfer goes on with the next, and its requester waits. The last
burst of the anchor read, or of a sweep transfer: the requester has the data, or the end of its write. -/
def Obligations.BurstsBeginStoreAndAnswer : Prop :=
  (∀ s : State,
    (s.port.phase ≠ .free → s.serveBus = s) ∧
    (s.port.phase = .free → nextServed s.serveBus.port ∧
      { s.serveBus with port := { s.serveBus.port with phase := .free } } = s) ∧
    (s.port.phase = .free → s.inProgress = none) ∧
    ∀ src, s.port.phase = .requesting src ∨ s.port.phase = .granted src →
      s.inProgress = s.port.transfers.find? fun x => decide (sourceOf x.owner = src)) ∧
  (∀ s : State, s.beatBytes = if s.settings.copy.wide then 4 else 2) ∧
  (∀ beat a n k : Nat, 1 ≤ beat → 1 ≤ n →
    a + burstLength beat a n = min (a + n) (a / beat * beat + 16 * beat) ∧
    burstBeatCount beat a n = (a + n - 1) / beat - a / beat + 1 ∧
    beatAddress beat a k = (if k = 0 then a else a / beat * beat + k * beat) ∧
    a + beatsMoved beat a n k = if k = 0 then a else min (a + n) (a / beat * beat + k * beat)) ∧
  (∀ (bs : List Byte) (i : Nat), byteAt bs i = (bs.getD i 0).toNat ∧ half bs i = byteAt bs i + 256 * byteAt bs (i + 1) ∧
    word bs i = half bs i + 65536 * half bs (i + 2) ∧ byteSum bs = (bs.map BitVec.toNat).sum) ∧
  (∀ (a n : Nat) (s : State), memRead s.mem a n = (List.range n).map fun i => s.byte (a + i)) ∧
  (∀ (src : Source) (x : Transfer) (s : State), s.port.phase = .granted src → s.inProgress = some x →
    ∃ t, exec .burstComplete s = .next t ∧ t.port.lastServed = src ∧ nextServed t.port) ∧
  (∀ (src : Source) (x : Transfer) (s : State), s.port.phase = .granted src → s.inProgress = some x →
    burstLength s.beatBytes x.addr x.left < x.left →
    (x.owner = .board → s.boardMicro = none) → (x.owner = .settings → s.mail.settings = none) →
    (x.owner = .engine ∨ x.owner = .cache → s.engineMicro = none) → (x.owner = .status → s.mail.status = none) →
    ∃ t, exec .burstComplete s = .next t ∧
      t.port.transfers = s.port.transfers.map (fun y =>
        if y.owner = x.owner then carriedOn s x (burstLength s.beatBytes x.addr x.left) else y) ∧
      (x.write = false → t.mem = s.mem) ∧ { t with mem := s.mem, port := s.port } = s) ∧
  (∀ (writes : List (Nat × Byte)) (src : Source) (s : State), s.port.phase = .requesting src →
     (∀ w ∈ writes, w.1 < 2 ^ 32) →
     ∃ t, exec (.busGrant writes) s = .next t ∧ t.port = { s.port with phase := .granted src } ∧
       (∀ a < 2 ^ 32, t.byte a = (lastStore writes a).getD (s.byte a)) ∧
       { t with mem := s.mem, port := s.port } = s) ∧
  (∀ (src : Source) (x : Transfer) (s : State), s.port.phase = .granted src → s.inProgress = some x → x.write = true →
     x.data.length = x.left → x.addr + x.left ≤ 2 ^ 32 →
     ∃ t, exec .burstComplete s = .next t ∧ t.port.lastServed = src ∧
       ∀ a < 2 ^ 32, t.byte a =
         if x.addr ≤ a ∧ a < x.addr + burstLength s.beatBytes x.addr x.left then x.data.getD (a - x.addr) 0
         else s.byte a) ∧
  ∀ (src : Source) (x : Transfer) (s : State), s.port.phase = .granted src → s.port.transfers = [x] →
    sourceOf x.owner = src → (x.owner = .anchor ∨ x.owner = .sweep) →
    x.left ≤ burstLength s.beatBytes x.addr x.left →
    ∃ t, exec .burstComplete s = .next t ∧ t.port = ⟨[], .free, src⟩ ∧
      t.mail = s.mail.put x.owner
        (some (.ok (if x.write then [] else x.data ++ (List.range x.left).map fun i => s.byte (x.addr + i)))) ∧
      { t with mem := s.mem, port := s.port, mail := s.mail } = s ∧ (x.write = false → t.mem = s.mem)

/-- A fault as the record takes it: a record that was clear takes the address, kind and requester; in one that holds a
fault the count alone rises, saturating at 255. What the requester does on hearing of it may raise the count again. -/
def faultRecorded (s t : State) (addr : Word) (kind : FaultKind) (o : Owner) : Prop :=
  t.hasCause .memoryFault = true ∧
    (s.hasCause .memoryFault = false → t.fault.address = addr ∧ t.fault.kind = some kind ∧
      t.fault.requester = some (requesterOf o) ∧ 1 ≤ t.fault.count) ∧
    (s.hasCause .memoryFault = true → t.fault = { s.fault with count := t.fault.count } ∧
      min 255 (s.fault.count + 1) ≤ t.fault.count ∧ t.fault.count ≤ 255) ∧
    (o = .anchor ∨ o = .sweep →
      t.fault.count = if s.hasCause .memoryFault then min 255 (s.fault.count + 1) else 1)

/-- A burst that ends in a fault: TIMEOUT at the burst's first address, before the grant or after it, and BUS_ERROR at
its beat's. MEMORY_FAULT ends set; the bus is released and serves the next source in the rotation; the beats completed
stay written and no other byte changes, and before the grant no byte at all. The address of a bus error's beat is read
from the layout of beats (log 15). That a source whose burst times out before its grant counts as the one served last
is the model's own choice (log 62). -/
def Obligations.BurstFaultsFillRecord : Prop :=
  (∀ (k : Nat) (src : Source) (x : Transfer) (s : State), s.port.phase = .requesting src → s.inProgress = some x →
    ∃ t, exec (.transferTimeout k) s = .next t ∧ t.port.lastServed = src ∧ nextServed t.port ∧ t.mem = s.mem ∧
      faultRecorded s t (BitVec.ofNat 32 x.addr) .timeout x.owner) ∧
  ∀ (k : Nat) (src : Source) (x : Transfer) (s : State), s.port.phase = .granted src → s.inProgress = some x →
    x.data.length = x.left ∨ x.write = false → x.addr + x.left ≤ 2 ^ 32 →
    k < burstBeatCount s.beatBytes x.addr (burstLength s.beatBytes x.addr x.left) →
    let written := fun t : State => ∀ a < 2 ^ 32, t.byte a =
      if x.write = true ∧ x.addr ≤ a ∧
          a < x.addr + beatsMoved s.beatBytes x.addr (burstLength s.beatBytes x.addr x.left) k then
        x.data.getD (a - x.addr) 0 else s.byte a
    (∃ t, exec (.transferTimeout k) s = .next t ∧ t.port.lastServed = src ∧ nextServed t.port ∧ written t ∧
      faultRecorded s t (BitVec.ofNat 32 x.addr) .timeout x.owner) ∧
    ∃ t, exec (.busError k) s = .next t ∧ t.port.lastServed = src ∧ nextServed t.port ∧ written t ∧
      faultRecorded s t (BitVec.ofNat 32 (beatAddress s.beatBytes x.addr k)) .busError x.owner

/-- The window test: some single window covers the whole transfer with sufficient access. A transfer that fails it is
not issued: its owner has a fault at once, and the record takes WINDOW at its first address. The anchor read is not
tested. That the test is made, and the fault given, at the moment when the transfer is presented is the model's own
choice (log 50): the manual has it made before the first beat. That an area which runs past the top of the 32-bit space
is covered by no window, and that FAULT_ADDRESS holds an address modulo 2^32, is read from the registers' widths
(log 3). -/
def Obligations.WindowTestGuardsEveryTransfer : Prop :=
  (∀ (s : State) (w : Bool) (a n : Nat), s.allowed w a n = true ↔
    ∃ i : Fin 4, ((s.windows.get i).access = .readWrite ∨ (s.windows.get i).access = .read ∧ w = false) ∧
      (s.windows.get i).base ≤ a ∧ a + n ≤ (s.windows.get i).base + (s.windows.get i).size ∧ a + n ≤ 2 ^ 32) ∧
  (∀ (s : State) (o : Owner) (w : Bool) (a n : Nat) (d : List Byte), o ≠ .anchor → s.allowed w a n = false →
    (s.present o w a n d).port = s.port ∧ (s.present o w a n d).mail = s.mail.put o (some .fault) ∧
    (s.present o w a n d).hasCause .memoryFault = true ∧
    (s.present o w a n d).fault =
      if s.hasCause .memoryFault then { s.fault with count := min 255 (s.fault.count + 1) }
      else ⟨BitVec.ofNat 32 a, some .window, some (requesterOf o), 1⟩) ∧
  ∀ (s : State) (o : Owner) (w : Bool) (a n : Nat) (d : List Byte), (o = .anchor ∨ s.allowed w a n = true) →
    s.present o w a n d = { s with port := { s.port with transfers := s.port.transfers ++ [⟨o, w, a, n, d⟩] } }

/-! ### Settings -/

/-- The settings write completes: the new block is in force, and the order ends DONE OK with count_1 1 exactly when
the block passes its check. Before that the read of the block has ended: its bytes are the block to be written,
whatever their check, and nothing else changes but the port; a fault on it, of every kind, ends the order FAILED
MEMORY with both counts 0 and leaves the block in force as it is. -/
def Obligations.SettingsWriteReplacesBlock : Prop :=
  (∀ (slot : Nat) (block : List Byte) (s : State), s.settings.job = .writing slot block →
    exec .settingsWriteDone s =
      .next { s with
        settings := ⟨block, s.settings.copy, .idle⟩
        board := { s.board with
          completions := s.board.completions ++
            [⟨slot, false, .ok, if (block.map BitVec.toNat).sum % 256 = 0xA5 then 1 else 0, 0⟩] } }) ∧
  (∀ (slot : Nat) (x : Transfer) (s : State), s.settings.job = .reading slot → s.port.phase = .granted .board →
    s.port.transfers = [x] → x.owner = .settings → x.write = false →
    x.left ≤ burstLength s.beatBytes x.addr x.left →
    let failed : Board :=
      { s.board with completions := s.board.completions ++ [⟨slot, true, .memory, 0, 0⟩] }
    exec .burstComplete s = .next { s with
      settings := { s.settings with job := .writing slot (x.data ++ memRead s.mem x.addr x.left) }
      port := ⟨[], .free, .board⟩, mail := { s.mail with settings := none } } ∧
    ∀ (k : Nat) (c : Instr), c = .transferTimeout k ∨ c = .busError k →
      ∃ t, exec c s = .next t ∧ t.settings = { s.settings with job := .idle } ∧ t.board = failed ∧
        t.port = ⟨[], .free, .board⟩ ∧ t.mail = { s.mail with settings := none } ∧
        (∀ d, t.hasCause d = (s.hasCause d || decide (d = .memoryFault))) ∧
        { t with
          settings := s.settings, board := s.board, port := s.port, mail := s.mail, causes := s.causes
          fault := s.fault } = s) ∧
  ∀ (slot : Nat) (b : OrderBody) (s : State), s.allowed false b.listA 24 = false →
    ∃ t, (s.settingsTake slot b).settingsGo = t ∧ t.settings = { s.settings with job := .idle } ∧
      t.board = { s.board with completions := s.board.completions ++ [⟨slot, true, .memory, 0, 0⟩] } ∧
      (∀ d, t.hasCause d = (s.hasCause d || decide (d = .memoryFault))) ∧
      { t with
        settings := s.settings, board := s.board, mail := s.mail, causes := s.causes, fault := s.fault } = s

/-! ### Board Handler -/

/-- The survey timer in RUNNING triggers as NUDGE does; that it sets the survey-again mark also while completions are
written between surveys is log 20, and that a survey which begins takes up a mark set before it is log 49. The mark,
at the end of a survey, begins a new one; a SURVEY_AGAIN that is not due and cannot become due by the map's work
changes nothing (log 4). A survey that has begun reads the state word of its first slot that is not held, as one
16-bit read; a board outside the windows, or in one that lacks READ_WRITE access, abandons it with fault WINDOW. That
an abandoned survey keeps a survey-again mark is log 19, and that the access is asked over the bytes read is log 48. A
word that reads POSTED makes its slot one whose body is read: when every state word has been read, the 62 bytes from
the stop word on, of one slot after another; that the body is these 62 bytes, in one transfer, is read by inference
(log 16). A fault on a read abandons the survey. A halt ends the survey without a further read (log 18). -/
def Obligations.SurveysBeginAndReadStateWords : Prop :=
  ((∀ s : State, s.run = .running → s.board.timerOn = true → s.board.pos = .idle → s.board.completions = [] →
     exec .surveyTimer s = .next { s with board := { s.board with pos := .begun, again := false } }) ∧
   (∀ s : State, s.run = .running → s.board.timerOn = true → s.board.pos ≠ .idle →
     exec .surveyTimer s = .next { s with board := { s.board with again := true } }) ∧
   (∀ s : State, s.board.timerOn = false → exec .surveyTimer s = .next s) ∧
   (∀ s : State, s.run = .running → s.board.pos = .idle → s.board.again = true → s.board.completions = [] →
     exec .surveyAgain s = .next { s with board := { s.board with pos := .begun, again := false } }) ∧
   ∀ s : State, (s.run ≠ .running ∨ s.board.pos ≠ .idle ∨ s.board.again = false) → s.working = false →
     exec .surveyAgain s = .next s) ∧
  (∀ (k : Nat) (s : State), s.board.pos = .begun → s.board.ending = false → s.mail.board = none →
    s.latch.boardSlots ≤ 16 → k < s.latch.boardSlots → s.board.holds k = false → (∀ j < k, s.board.holds j = true) →
    (s.allowed true (s.latch.boardAddr + 64 * k) 2 = true →
      exec .survey s =
        .next (State.serveBus { s with
          board := { s.board with pos := .stateWait k [] }
          port := { s.port with
            transfers := s.port.transfers ++ [⟨.board, false, s.latch.boardAddr + 64 * k, 2, []⟩] } })) ∧
    (s.allowed true (s.latch.boardAddr + 64 * k) 2 = false →
      ∃ t, exec .survey s = .next t ∧ t.board = { s.board with pos := .idle } ∧ t.hasCause .memoryFault = true ∧
        t.port.transfers = s.port.transfers ∧
        { t with board := s.board, port := s.port, causes := s.causes, fault := s.fault } = s ∧
        (s.hasCause .memoryFault = false →
          t.fault = ⟨BitVec.ofNat 32 (s.latch.boardAddr + 64 * k), some .window, some .board, 1⟩))) ∧
  ∀ (slot : Nat) (found left : List Nat) (sound : List Candidate) (s : State),
    let address := s.latch.boardAddr + 64 * slot
    (s.board.pos = .stateWait slot found →
      (s.mail.board = some .fault → s.boardMicro = some (surveyOver (answerTaken s))) ∧
      ∀ bs, s.mail.board = some (.ok bs) → s.boardMicro = some { answerTaken s with board := { s.board with
        pos := .states (slot + 1) (if half bs 0 = 1 then found ++ [slot] else found) } }) ∧
    (s.board.pos = .states slot found →
      (s.board.ending = true → s.boardMicro = some (surveyOver s)) ∧
      (s.board.ending = false → s.latch.boardSlots ≤ slot →
        s.boardMicro = some { s with board := { s.board with pos := .bodies found [] } }) ∧
      (s.board.ending = false → slot < s.latch.boardSlots → s.board.holds slot = true →
        s.boardMicro = some { s with board := { s.board with pos := .states (slot + 1) found } }) ∧
      (s.board.ending = false → slot < s.latch.boardSlots → s.board.holds slot = false →
        s.allowed true address 2 = true →
        s.boardMicro = some (boardAsks s false address 2 [] (.stateWait slot found)))) ∧
    (s.board.pos = .bodies (slot :: left) sound →
      (s.board.ending = true → s.boardMicro = some (surveyOver s)) ∧
      (s.board.ending = false → s.allowed true (address + 2) 62 = true →
        s.boardMicro = some (boardAsks s false (address + 2) 62 [] (.bodyWait slot left sound)))) ∧
    (s.board.pos = .bodies [] sound → s.board.ending = false →
      s.boardMicro = some { s with board := { s.board with pos := .choose sound } })

/-- Tests 2, 3 and 4 of R168 pass: the lists' counts, the room for the outcome list, and the parameters, compared whole
(log 36). -/
def bodySound (k : OrderKind) (b : OrderBody) : Prop :=
  ((k = .airJoin ∨ k = .airLeave ∨ k = .changeover) → b.listACount ≤ 200) ∧ (k = .changeover → b.listBCount ≤ 200) ∧
    (k = .sparesLoad → b.listACount ≤ 64) ∧ (k = .rackRoster → b.listACount ≤ 8) ∧
    (k = .loadCoupling → b.listACount ≤ 144) ∧
    ((k = .airJoin ∨ k = .airLeave) → 4 * b.listACount ≤ b.capacity) ∧
    (k = .changeover → 4 * (b.listACount + b.listBCount) ≤ b.capacity) ∧ (k = .retune → 4 ≤ b.capacity) ∧
    ((k = .airJoin ∨ k = .changeover) → b.p0 ≤ 1) ∧ (k = .check → b.p0 < 12 ∨ b.p0 = 255) ∧
    (k = .markBand → b.p2 ≤ 2) ∧ ((k = .lineSetup ∨ k = .rackRoster) → b.p0 ≤ 3) ∧
    (k = .rackTune → b.p2 % 256 ≤ 3 ∧ 1 ≤ b.p2 / 256 % 256 ∧ b.p2 / 256 % 256 ≤ 30 ∧ b.p2 / 65536 % 256 ≤ 31 ∧
      b.p1 % 65536 ≤ 8959 ∧
      (b.p0 % 65536 = 65535 ∨ b.p0 % 65536 / 256 < 12 ∧ b.p0 % 65536 % 256 < 96))

/-- The areas that an order will use, each with whether it is written, its first address and its size (R168): list_a of
count × item size bytes, or the 24 bytes of a settings block; list_b of a CHANGEOVER; and the result area of
result_capacity bytes for the kinds that write one. -/
def areasUsed (k : OrderKind) (b : OrderBody) : List (Bool × Nat × Nat) :=
  [(false, b.listA,
      if k = .loadCoupling ∨ k = .rackRoster then b.listACount
      else if k = .airJoin ∨ k = .airLeave ∨ k = .changeover then 2 * b.listACount
      else if k = .sparesLoad then 4 * b.listACount
      else if k = .storeSettings then 24 else 0),
    (false, b.listB, if k = .changeover then 2 * b.listBCount else 0),
    (true, b.result,
      if k = .airJoin ∨ k = .airLeave ∨ k = .changeover ∨ k = .retune ∨ k = .check ∨ k = .sweep then b.capacity else 0)]

/-- Screening: a nonzero stop word is answered STOPPED; otherwise BAD_ORDER for a kind outside the catalogue, for a
body that fails test 2, 3 or 4, and for an area that no window covers, where alone a fault is recorded; an area of
size 0 is not tested. Of several such areas the first in the order list_a, list_b, result is recorded: the model's own
choice (log 25), as is the comparison of parameters whole (log 36). -/
def Obligations.ScreeningAnswersMalformedBodies : Prop :=
  (∀ (b : OrderBody) (s : State),
    (b.stop ≠ 0 → s.screen b = (s, .answered .stopped)) ∧
    (b.stop = 0 → catalogue.lookup b.kind = none → s.screen b = (s, .answered .badOrder)) ∧
    (∀ k, b.stop = 0 → catalogue.lookup b.kind = some k → ¬ bodySound k b → s.screen b = (s, .answered .badOrder)) ∧
    (∀ k, b.stop = 0 → catalogue.lookup b.kind = some k → bodySound k b →
      ((s.screen b = (s, .sound k) ↔ ∀ a ∈ areasUsed k b, a.2.2 ≠ 0 → s.allowed a.1 a.2.1 a.2.2 = true) ∧
        ∀ a, (areasUsed k b).find? (fun a => decide (a.2.2 ≠ 0 ∧ s.allowed a.1 a.2.1 a.2.2 = false)) = some a →
          ∃ t, s.screen b = (t, .answered .badOrder) ∧
            (∀ c, t.hasCause c = (s.hasCause c || decide (c = .memoryFault))) ∧
            t.fault = (if s.hasCause .memoryFault then { s.fault with count := min 255 (s.fault.count + 1) }
              else ⟨BitVec.ofNat 32 a.2.1, some .window, some .board, 1⟩) ∧
            { t with causes := s.causes, fault := s.fault } = s))) ∧
  ∀ (slot : Nat) (left : List Nat) (sound : List Candidate) (s : State), s.board.pos = .bodyWait slot left sound →
    (s.mail.board = some .fault → s.boardMicro = some (surveyOver (answerTaken s))) ∧
    ∀ bs, s.mail.board = some (.ok bs) →
      let r := (answerTaken s).screen (bodyAt bs)
      (∀ k, r.2 = .sound k → s.boardMicro =
        some { r.1 with board := { r.1.board with pos := .bodies left (sound ++ [⟨slot, k, bodyAt bs⟩]) } }) ∧
      ∀ c : Completion, c.slot = slot → c.failed = true → r.2 = .answered c.result → c.count1 = 0 → c.count2 = 0 →
        s.allowed true (s.latch.boardAddr + 64 * slot + 44) 6 = true →
        s.boardMicro = some (resultBurst r.1 c (.screenResultWait c left sound))

/-- Whether the destination of an order accepts an offer (R169): one that holds orders when no slot is held for it, the
map and the watch always, and a line always but for a RACK_TUNE, which it accepts with fewer than 6 entries queued. -/
def destinationAccepts (s : State) (c : Candidate) : Prop :=
  if c.kind ∈ [OrderKind.setParams, .loadCoupling, .sparesLoad, .sparesRelease, .flushCache, .airJoin, .airLeave,
      .changeover, .retune, .check] then s.board.heldEngine = none
  else if c.kind = .sweep then s.board.heldSweep = none
  else if c.kind = .storeSettings then s.board.heldSettings = none
  else if c.kind = .rackTune then
    ∀ k : Fin 4, k.val = parByte c.body.p2 0 → (s.line k).live.length + (s.line k).plan.length < 6
  else True

/-- How many slots lie before a slot when counting from the cursor upward, wrapping from the last slot to slot 0
(R170). -/
def slotsFromCursor (s : State) (slot : Nat) : Nat :=
  if s.board.cursor ≤ slot then slot - s.board.cursor else slot + s.latch.boardSlots - s.board.cursor

/-- The survey after a take: the cursor stands at the slot after the one taken, wrapping to 0 after the last slot, and
the choice goes on among the other candidates (R170). -/
def afterTake (s : State) (c : Candidate) (sound : List Candidate) : Board :=
  { s.board with
    cursor := if c.slot + 1 < s.latch.boardSlots then c.slot + 1 else 0
    pos := .choose (sound.filter fun d => decide (d.slot ≠ c.slot)) }

/-- Dispatch: the order taken is one whose destination accepts, of the highest priority, one above 3 read as 3, and
the first of that priority met from the cursor upward, wrapping from the last slot to slot 0; without such an order
none is taken and the survey ends. Of the order chosen the state word TAKEN is presented, and nothing else changes; a
fault on it abandons the take and the survey. When it has been written the cursor moves on, the destination's
held-slot entry names the slot, and the destination has the order. An immediate order is carried and its completion
presented, a RACK_ROSTER once its list has been read, whose fault ends it FAILED MEMORY with counts 0 and 0 (the
model's own choice, log 46). A RACK_TUNE is handed to its line first; then TAKEN is written, and a fault on it does
not undo what the line has queued, while one whose line has queued nothing is abandoned by it. Once a halt has come no
further order is taken (log 18). An order that the engine takes when RUN reads 0 carries the halt mark (log 21). -/
def Obligations.DispatchTakesHighestPriorityFromCursor : Prop :=
  (∀ (l : List Candidate) (s : State),
    (∀ c ∈ l, c.kind = .rackTune → parByte c.body.p2 0 ≤ 3) →
    (s.chooseCandidate l = none ↔ ∀ c ∈ l, ¬ destinationAccepts s c) ∧
    ∀ c, s.chooseCandidate l = some c →
      c ∈ l ∧ destinationAccepts s c ∧
      ∀ d ∈ l, destinationAccepts s d →
        min d.body.priority 3 ≤ min c.body.priority 3 ∧
        (min d.body.priority 3 = min c.body.priority 3 → slotsFromCursor s c.slot ≤ slotsFromCursor s d.slot)) ∧
  (∀ (sound : List Candidate) (s : State),
    ((s.board.ending = true ∨ s.chooseCandidate sound = none) → s.chooseStep sound = surveyOver s) ∧
    ∀ c, s.board.ending = false → s.chooseCandidate sound = some c →
      let rest := sound.filter fun d => decide (d.slot ≠ c.slot)
      let address := s.latch.boardAddr + 64 * c.slot
      (c.kind ≠ .rackTune → s.allowed true address 2 = true →
        s.chooseStep sound = boardAsks s true address 2 [2, 0] (.takenWait c sound)) ∧
      ∀ u e, c.kind = .rackTune → s.rackTune c.slot c.body = some (u, e) → s.allowed true address 2 = true →
        s.chooseStep sound = boardAsks u true address 2 [2, 0] (.tuneTakenWait e rest)) ∧
  (∀ (c : Candidate) (e : Completion) (sound : List Candidate) (s : State),
    let u := answerTaken s
    (s.board.pos = .takenWait c sound →
      (s.mail.board = some .fault → s.boardMicro = some (surveyOver u)) ∧
      ∀ bs, s.mail.board = some (.ok bs) → s.boardMicro = some (u.takeOrder c sound)) ∧
    (s.board.pos = .tuneTakenWait e sound →
      (s.mail.board = some .fault → e.failed = true → s.boardMicro = some (surveyOver u)) ∧
      ∀ a, s.mail.board = some a → a ≠ .fault ∨ e.failed = false →
        s.allowed true (s.latch.boardAddr + 64 * e.slot + 44) 6 = true →
        s.boardMicro = some (resultBurst
          { u with board := { s.board with cursor := if e.slot + 1 < s.latch.boardSlots then e.slot + 1 else 0 } } e
          (.immResultWait e sound))) ∧
    (s.board.pos = .rosterWait c sound → s.allowed true (s.latch.boardAddr + 64 * c.slot + 44) 6 = true →
      (s.mail.board = some .fault →
        let e : Completion := ⟨c.slot, true, .memory, 0, 0⟩
        s.boardMicro = some (resultBurst u e (.immResultWait e sound))) ∧
      ∀ bs, s.mail.board = some (.ok bs) →
        let r := u.rackRoster c.slot c.body bs
        s.boardMicro = some (resultBurst r.1 r.2 (.immResultWait r.2 sound)))) ∧
  ∀ (c : Candidate) (sound : List Candidate) (s : State),
    let b := afterTake s c sound
    let rest := sound.filter fun d => decide (d.slot ≠ c.slot)
    let carried := fun r : State × Completion => s.takeOrder c sound = resultBurst r.1 r.2 (.immResultWait r.2 rest)
    let roomForResult := s.allowed true (s.latch.boardAddr + 64 * c.slot + 44) 6 = true
    (c.kind ∈ [OrderKind.setParams, .loadCoupling, .sparesLoad, .sparesRelease, .flushCache, .airJoin, .airLeave,
        .changeover, .retune, .check] →
      s.takeOrder c sound = State.engineGo { s with
        board := { b with heldEngine := some c.slot }
        engine := { s.engine with order := some (newOrder c.slot c.kind c.body !s.runBit), pos := .taken } }) ∧
    (c.kind = .sweep →
      s.takeOrder c sound = State.sweepTake { s with board := { b with heldSweep := some c.slot } } c.slot c.body) ∧
    (c.kind = .storeSettings → s.mail.settings = none → s.allowed false c.body.listA 24 = true →
      s.takeOrder c sound = { s with
        board := { b with heldSettings := some c.slot }
        settings := { s.settings with job := .reading c.slot }
        port := { s.port with transfers := s.port.transfers ++ [⟨.settings, false, c.body.listA, 24, []⟩] } }) ∧
    (c.kind = .watchSetup ∨ c.kind = .watchRelease ∨ c.kind = .lineSetup → roomForResult →
      carried (State.carry { s with board := { b with pos := s.board.pos } } c)) ∧
    (c.kind = .rackRoster → c.body.listACount = 0 → roomForResult →
      carried (State.rackRoster { s with board := { b with pos := s.board.pos } } c.slot c.body [])) ∧
    (c.kind = .rackRoster → c.body.listACount ≠ 0 → s.allowed false c.body.listA c.body.listACount = true →
      s.takeOrder c sound = boardAsks { s with board := b } false c.body.listA c.body.listACount [] (.rosterWait c rest)) ∧
    (c.kind = .markBand →
      s.takeOrder c sound = { s.beginBand c.slot c.body with board := { b with pos := .bandWait rest } })

/-- The orders that are carried to their end within the take. WATCH_SETUP replaces the five Watch Parameters by the
values as read and counts those that differ from the values given. WATCH_RELEASE of a watched carrier that is ON_AIR
clears its swap count and takes it from ALERTED or HELD to QUIET. LINE_SETUP gives a line its three values at once,
or, during a transaction, as pending values; a line turned off ends its queued entries NO_REPLY, and that it drops the
wait after an exchange is the model's own choice (log 45). RACK_ROSTER builds the new roster in list order from the
addresses 1..30, each once, keeping the entries of the old roster, sets the rotation index to 0, and tells the Watch
Unit UNBLIND for each LOST rack that it removes, in the old roster's poll order: the model's own choice (log 54).
RACK_TUNE queues a plan-class entry for a carrier without an entry in the Air Set while fewer than 6 entries are
queued, which a line between transactions takes as its next work at once, and an off line ends NO_REPLY; a transaction
begun within the wait after an exchange is sent when that wait ends (log 32); for one with an entry it ends
NOT_OFF_AIR, with counts 0 and 0: the model's own choice (log 47); refused by the queue, it does not end. -/
def Obligations.ImmediateOrdersActAtOnce : Prop :=
  ∀ (slot : Nat) (b : OrderBody) (s : State),
    let ok := fun c1 c2 => (⟨slot, false, .ok, c1, c2⟩ : Completion)
    (let p : WatchParams := ⟨min (parByte b.p0 0) 200, max (parByte b.p0 1) 1, max 1 (min (parByte b.p0 2) 7),
        min (parByte b.p0 3) 15, max 1 (min (parByte b.p1 0) 7)⟩
     s.carry ⟨slot, .watchSetup, b⟩ = ({ s with watch := { s.watch with params := p } },
        ok (differing [(p.foreign, parByte b.p0 0), (p.error, parByte b.p0 1), (p.confirm, parByte b.p0 2),
          (p.settle, parByte b.p0 3), (p.swapLimit, parByte b.p1 0)]) 0)) ∧
    (let id := b.p0 % 65536
     let released := s.carry ⟨slot, .watchRelease, b⟩
     (s.onAirEntry id = none → released = (s, ⟨slot, true, .notOnAir, 0, 0⟩)) ∧
     (∀ e, s.onAirEntry id = some e → s.watchRec id = none → released = (s, ⟨slot, false, .nothingDone, 0, 0⟩)) ∧
     ∀ e w, s.onAirEntry id = some e → s.watchRec id = some w →
        let freed := w.state = .alerted ∨ w.state = .held
        released.2 = (if ¬ freed ∧ w.swaps = 0 then ⟨slot, false, .nothingDone, 0, 0⟩
          else ok (if freed then 1 else 0) w.swaps) ∧
        released.1.watchRec id = some
          (if freed then { w with state := .quiet, run := 0, settle := 0, swaps := 0 } else { w with swaps := 0 }) ∧
        (∀ j, j ≠ id → released.1.watchRec j = s.watchRec j) ∧
        marksAdded s released.1 (fun r => r = .carrier id ∨ freed ∧ r = .stage (id / 256)) ∧
        { released.1.watch with records := s.watch.records } = s.watch ∧
        { released.1 with watch := s.watch, status := s.status } = s) ∧
    (∀ k : Fin 4, k.val = b.p0 →
      let divisor := b.p1 % 65536
      let v : LineValues := ⟨min divisor 4095, max (parByte b.p2 0) 2, max (parByte b.p2 1) 1⟩
      let l := s.line k
      let ended := l.live ++ l.plan
      ∃ t, s.carry ⟨slot, .lineSetup, b⟩ = (t, ok (differing [(v.divisor, divisor),
          (v.replyTimeout, parByte b.p2 0), (v.pollInterval, parByte b.p2 1)]) 0) ∧
        t.line k = (if l.txn.isSome then { l with pendingSetup := some v }
          else if divisor ≠ 0 then { l with values := v, pendingSetup := none }
          else { l with
            values := v, pendingSetup := none, pollDue := false, phase := .quiet, live := [], plan := []
            roomNotices := l.roomNotices + ended.length
            outcomes := l.outcomes ++
              (ended.filter fun e => decide (e.id ≠ 65535)).map fun e => ⟨e.id, e.code, .noReply⟩
            liveOutcomes := l.liveOutcomes ++ (ended.filter fun e => e.live).map fun e => ⟨e.id, e.code, .noReply⟩ }) ∧
        (∀ j, j ≠ k → t.line j = s.line j) ∧ { t with lines := s.lines } = s) ∧
    (∀ (list : List Byte) (k : Fin 4), k.val = b.p0 → list.length ≤ 8 →
      let addrs : List Nat := list.map BitVec.toNat
      let sound := fun p : Nat × Nat => decide (1 ≤ p.1 ∧ p.1 ≤ 30 ∧ p.1 ∉ addrs.take p.2)
      let taken : List Nat := (addrs.zipIdx.filter sound).map Prod.fst
      let l := s.line k
      let gone := l.roster.filter fun e : RosterEntry => decide (e.state = .lost ∧ e.addr ∉ taken)
      ∃ t, s.rackRoster slot b list = (t, ok taken.length (list.length - taken.length)) ∧
        t.line k = { l with
          roster := taken.map fun a => (l.roster.find? fun e => e.addr == a).getD ⟨a, .unknown, 0, 0⟩
          rotation := 0
          txn := l.txn.map fun x => match x with
            | .poll a first _ => .poll a first true
            | .tune e n => .tune e n
          notices := l.notices ++ gone.map fun e => ⟨false, e.addr⟩ } ∧
        (∀ j, j ≠ k → t.line j = s.line j) ∧
        marksAdded s t (fun r => r = .line k ∨ ∃ e ∈ s.air, e.air = .onAir ∧ r = .stage e.stage ∧
          ∃ x, e.rack = some x ∧ x.line = k) ∧
        { t with lines := s.lines, status := s.status } = s) ∧
    ∀ k : Fin 4, k.val = parByte b.p2 0 →
      let id := b.p0 % 65536
      let e : Tune := ⟨false, parByte b.p2 1, parByte b.p2 2, id, b.p1 % 65536⟩
      ((s.airEntry id).isSome = true → s.rackTune slot b = some (s, ⟨slot, true, .notOffAir, 0, 0⟩)) ∧
      (s.airEntry id = none → ¬ queueAccepts (s.line k) false → s.rackTune slot b = none) ∧
      (s.airEntry id = none → queueAccepts (s.line k) false → ∃ t, s.rackTune slot b = some (t, ok 1 0) ∧
        t.line k = lineTakes (s.line k) e ∧ (∀ j, j ≠ k → t.line j = s.line j) ∧ { t with lines := s.lines } = s)

/-- A completion's writes have ended or faulted (R172): the held-slot entry that names its slot is cleared, it is off
the completion list, of which it was the last, and the order-end trigger begins a survey in RUNNING alone. -/
def slotReleased (s : State) (c : Completion) : Board :=
  let running := decide (s.run = .running)
  { s.board with
    pos := if running then .begun else .idle
    again := if running then false else s.board.again
    ending := false
    completions := []
    heldEngine := if s.board.heldEngine = some c.slot then none else s.board.heldEngine
    heldSweep := if s.board.heldSweep = some c.slot then none else s.board.heldSweep
    heldSettings := if s.board.heldSettings = some c.slot then none else s.board.heldSettings }

/-- Between surveys the oldest completion is written: its result fields first, as one burst of six bytes (log 17). When
that burst has ended without fault the state word, DONE or FAILED, is presented as one write of two bytes at the head of
the slot. When that word has been written, or either write has faulted, which leaves the state word unwritten, the
held-slot entry is cleared, ORDER_ENDED set, the completion taken off the list, and, in RUNNING, the order-end trigger
begins a survey. That this survey takes up a survey-again mark set before it is log 49. The completions inside a survey,
of screened and of immediate orders, are written so too, and the survey goes on. -/
def Obligations.CompletionIsWrittenAndReleasesSlot : Prop :=
  (∀ (c : Completion) (rest : List Completion) (s : State), s.board.pos = .idle → s.board.completions = c :: rest →
    s.mail.board = none → s.allowed true (s.latch.boardAddr + 64 * c.slot + 44) 6 = true →
    exec .orderCompletion s = .next (resultBurst s c (.listResultWait c)).serveBus) ∧
  (∀ (c : Completion) (x : Transfer) (s : State), s.port.phase = .granted .board → s.port.transfers = [x] →
    x.owner = .board → x.write = true → x.left ≤ burstLength s.beatBytes x.addr x.left →
    s.board.pos = .listResultWait c → s.allowed true (s.latch.boardAddr + 64 * c.slot) 2 = true →
    ∃ t, exec .burstComplete s = .next t ∧ t.board = { s.board with pos := .listStateWait c } ∧
      t.port = ⟨[⟨.board, true, s.latch.boardAddr + 64 * c.slot, 2, [if c.failed then 4 else 3, 0]⟩],
        .requesting .board, .board⟩ ∧
      { t with board := s.board, port := s.port, mem := s.mem, mail := s.mail } = s) ∧
  (∀ (c : Completion) (x : Transfer) (s : State), s.port.phase = .granted .board → s.port.transfers = [x] →
    x.owner = .board → x.write = true → s.board.completions = [c] →
    let ended := fun (t : State) (faults : List Cause) => t.board = slotReleased s c ∧ t.port = ⟨[], .free, .board⟩ ∧
      (∀ d, t.hasCause d = (s.hasCause d || decide (d = .orderEnded ∨ d ∈ faults))) ∧
      { t with board := s.board, port := s.port, mem := s.mem, mail := s.mail, causes := s.causes, fault := s.fault } = s
    (s.board.pos = .listStateWait c → x.left ≤ burstLength s.beatBytes x.addr x.left →
      ∃ t, exec .burstComplete s = .next t ∧ t.fault = s.fault ∧ ended t []) ∧
    (s.board.pos = .listResultWait c ∨ s.board.pos = .listStateWait c → ∀ k,
      (∃ t, exec (.transferTimeout k) s = .next t ∧ ended t [.memoryFault]) ∧
      ∃ t, exec (.busError k) s = .next t ∧ ended t [.memoryFault])) ∧
  ∀ (c : Completion) (p q next : BoardPos) (s : State),
    ((∃ sound, p = .immResultWait c sound ∧ q = .immStateWait c sound ∧ next = .choose sound) ∨
      ∃ left sound, p = .screenResultWait c left sound ∧ q = .screenStateWait c left sound ∧
        next = .bodies left sound) →
    let u := answerTaken s
    let goesOn := ∃ t, s.boardMicro = some t ∧
      (∀ d, t.hasCause d = (s.hasCause d || decide (d = .orderEnded))) ∧
      { t with causes := s.causes } = { u with board := { s.board with pos := next } }
    (∀ bs, s.board.pos = p → s.mail.board = some (.ok bs) →
      s.allowed true (s.latch.boardAddr + 64 * c.slot) 2 = true →
      s.boardMicro = some
        (boardAsks u true (s.latch.boardAddr + 64 * c.slot) 2 [if c.failed then 4 else 3, 0] q)) ∧
    (s.board.pos = p → s.mail.board = some .fault → goesOn) ∧ (s.board.pos = q → s.mail.board.isSome = true → goesOn)

/-! ### Plan Engine -/

/-- The codes of the conflict kinds (R194), which rise in the order in which a victim's conflicts are taken (R95). -/
def kindRank : ConflictKind → Nat
  | .spacing => 0
  | .t3 => 1
  | .t3x => 2
  | .t5 => 3
  | .occupied => 4

/-- The 16 bytes of a conflict record (R16, R194): the product as a signed 16-bit value, the weight clamped to
−128..63. -/
def conflictRecord (c : Conflict) : List Byte :=
  [BitVec.ofNat 8 (kindRank c.kind), BitVec.ofNat 8 c.stage] ++ twoBytes c.victim ++ twoBytes c.c1 ++
    twoBytes c.c2 ++ twoBytes c.c3 ++
    [(BitVec.ofInt 16 c.product).extractLsb' 0 8, (BitVec.ofInt 16 c.product).extractLsb' 8 8,
      BitVec.ofInt 8 (max (-128) (min c.weight 63)), 0, 0, 0]

/-- A spare of the list, at its index, is a victim at a stage (R6, R94): it stands behind the cursor, is AVAILABLE, and
the lowest stage that its mask names is that stage, which the scope takes. -/
def spareVictim (o : EngineOrder) (sp : Spare) (i stage : Nat) : Prop :=
  (∀ j, o.spareAt = some j → j < i) ∧ sp.state = .available ∧ sp.mask.getLsbD stage = true ∧
    (∀ k < stage, sp.mask.getLsbD k = false) ∧ (o.body.p0 = 255 ∨ o.body.p0 = stage)

/-- The end of a CHECK after its last step (R96): the result is chosen on the exact number of conflicts found. -/
def checkEnd (o : EngineOrder) : Completion :=
  ⟨o.slot, false, if o.found = 0 then .ok else if o.found = o.written then .conflicts else .truncated,
    min 65535 o.found, o.written⟩

/-- A CHECK begins with the first victim of its scope in Air Set order and goes on with the first behind its cursor of
code and ID; when no victim is left and spares are asked for, it goes on with the Spare List: the first spare behind
its index that is AVAILABLE and whose lowest stage the scope takes, judged as an entry would be that stood in the Air
Set at that stage with power 0. A CHECK with no victim goes to its spares without a boundary: the model's own choice
(log 59). A step begins with the reading of the bins around the victim, and nothing else changes but the order's step
counter. At each tick the engine reads one bin, as the bin then stands. After the last one the victim's conflicts are
counted, and as many of them as the order's capacity leaves room for are written, one after another in their order, 16
bytes each at result_address + 16 × the number written before; count_2 rises with each record written, and a fault on
one ends the writing, so that the order ends MEMORY at this step's boundary. With no room left nothing is written. The
Air Set and the tables are left as they are. At the boundary of its last step the order ends DONE, whatever halt has
come: OK when no conflict was found, CONFLICTS when every one found was written, and TRUNCATED otherwise, with count_1
saturating at 65535. A halt ends the order at the boundary of a step that is not its last: FAILED HALTED with the
counts reached. That the bins are read from the lowest upward, and the conflicts judged and written after the last of
them, is the model's own choice (log 9), as is the tick (log 5); each record is one transfer (log 31). -/
def Obligations.CheckEvaluatesNextVictim : Prop :=
  (∀ (o : EngineOrder) (s : State),
    let follows := fun e : AirEntry => (o.body.p0 = 255 ∨ o.body.p0 = e.stage) ∧
      ∀ c i, o.victim = some (c, i) → c < e.code ∨ c = e.code ∧ i < e.id
    (s.nextVictim o = none ↔ ∀ e ∈ s.air, ¬ follows e) ∧
    (∀ e, s.nextVictim o = some e → ∃ n : Nat, s.air[n]? = some e ∧ follows e ∧
      ∀ (m : Nat) (x : AirEntry), m < n → s.air[m]? = some x → ¬ follows x) ∧
    (s.nextSpare o = none ↔ ∀ (i : Nat) (sp : Spare) (stage : Nat), s.spares[i]? = some sp →
      ¬ spareVictim o sp i stage) ∧
    ∀ p, s.nextSpare o = some p → s.spares[p.2]? = some p.1 ∧
      (∃ stage, o.spareStage p.1 = some stage ∧ spareVictim o p.1 p.2 stage) ∧
      ∀ (j : Nat) (q : Spare) (stage : Nat), j < p.2 → s.spares[j]? = some q → ¬ spareVictim o q j stage) ∧
  (∀ (slot : Nat) (b : OrderBody) (halt : Bool) (s : State),
    let o := newOrder slot .check b halt
    s.beginOrder o = { s with engine := { s.engine with order := some o, pos := .step } } ∧ o.phase = .victims ∧
      o.victim = none ∧ o.spareAt = none ∧ o.found = 0 ∧ o.written = 0 ∧ o.outcomes = [] ∧ o.stepCounter = 0) ∧
  (∀ (o : EngineOrder) (s : State), o.kind = .check →
    (∀ e, o.phase = .victims → s.nextVictim o = some e → e.code ≤ 8959 → s.engine.reading = none → s.beginStep o =
      { s with engine := { s.engine with reading := some ⟨binsAround s.params.gocc e.code, false⟩ } }) ∧
    (o.phase = .victims → s.nextVictim o = none → o.body.p1.testBit 0 = true →
      s.beginStep o = s.beginStep { o with phase := .spares }) ∧
    (o.phase = .spares ∧ s.nextSpare o = none ∨
        o.phase = .victims ∧ s.nextVictim o = none ∧ o.body.p1.testBit 0 = false →
      o.outcomes = [] → s.beginStep o = handedOver s (checkEnd o)) ∧
    ∀ (sp : Spare) (i stage : Nat), o.phase = .spares → s.nextSpare o = some (sp, i) → o.spareStage sp = some stage →
      (sp.code ≤ 8959 → s.engine.reading = none → s.beginStep o =
        { s with engine := { s.engine with reading := some ⟨binsAround s.params.gocc sp.code, false⟩ } }) ∧
      ∀ r, s.engine.reading = some r →
        let conflicts := s.spareConflicts sp stage r.taken
        let records := (conflicts.take (min (o.body.capacity / 16) 65535 - o.written)).map conflictRecord
        let address := o.body.result + 16 * o.written
        let u := { s with engine := { s.engine with reading := none } }
        let o' := { o with spareAt := some i, found := o.found + conflicts.length, last := .spare }
        (∀ (e : AirEntry) (before behind : List AirEntry), s.airEntry 65535 = none → e.id = 65535 → e.code = sp.code →
          e.stage = stage → e.power = 0 → s.air = before ++ behind → (∀ a ∈ before, a.code ≤ e.code) →
          (∀ a ∈ behind, e.code < a.code) →
          conflicts = State.entryConflicts { s with air := before ++ e :: behind } e r.taken) ∧
        (records = [] → s.beginStep o = stepEnded u o' .spare) ∧
        ∀ d rest, records = d :: rest → s.allowed true address 16 = true → d.length = 16 ∧
          s.beginStep o = { u with
            engine := { u.engine with order := some o', pos := .conflictWait records }
            port := { s.port with transfers := s.port.transfers ++ [⟨.engine, true, address, 16, d⟩] } }) ∧
  (∀ (o : EngineOrder) (s : State), o.kind = .check → o.faultMark = false →
    (o.ahead ≠ .last → o.haltMark = false ∧ o.stopMark = false) →
    (o.last = .victim → o.phase = .victims → s.nextVictim o = none → o.body.p1.testBit 0 = true →
      (s.nextSpare o).isSome = true → s.decideBoundary o =
        { s with engine := { s.engine with order := some { o with phase := .spares, cursor := 0 }, pos := .step } }) ∧
    (o.last = .spare → o.phase = .spares → (s.nextSpare o).isSome = true →
      s.decideBoundary o = { s with engine := { s.engine with order := some o, pos := .step } }) ∧
    (s.engine.pos = .boundary → s.engine.service = none → s.engine.reading = none → s.engine.requests = [] →
      s.engine.order = some o → o.outcomes = [] →
      (o.last = .spare ∧ s.nextSpare o = none ∨
        o.last = .victim ∧ s.nextVictim o = none ∧ (o.body.p1.testBit 0 = true → s.nextSpare o = none)) →
      exec .engineStepBoundary s = .next (State.serveBus
        (handedOver { s with engine := { s.engine with airChanged := false } } (checkEnd o))))) ∧
  (∀ (o : EngineOrder) (e : AirEntry) (s : State), s.engine.pos = .boundary → s.engine.service = none →
    s.engine.reading = none → s.engine.requests = [] → s.engine.order = some o → o.kind = .check →
    o.phase = .victims → o.last = .victim → o.faultMark = false → o.haltMark = false → o.stopMark = false →
    o.stepCounter < 63 → s.nextVictim o = some e → e.code ≤ 8959 →
    ∃ o' t, exec .engineStepBoundary s = .next t ∧ t.engine.order = some o' ∧ t.engine.pos = .step ∧
      t.engine.reading = some ⟨binsAround s.params.gocc e.code, false⟩ ∧
      o'.stepCounter = o.stepCounter + 1 ∧ o'.found = o.found ∧ o'.written = o.written ∧ o'.victim = o.victim ∧
      { t with engine := s.engine, port := s.port } = s) ∧
  (∀ (b : Nat) (rest : List Nat) (taken : Bool) (s : State), s.pending = [] → s.band = none →
    s.engine.reading = some ⟨b :: rest, taken⟩ → rest ≠ [] →
    step s = .next (State.serveBus { s with
      engine := { s.engine with reading := some ⟨rest, taken || decide ((s.bin b).state ≠ .clear)⟩ } })) ∧
  (∀ (b : Nat) (taken : Bool) (o : EngineOrder) (e : AirEntry) (s : State), s.pending = [] → s.band = none →
    s.engine.reading = some ⟨[b], taken⟩ → s.engine.service = none → s.engine.order = some o → s.engine.pos = .step →
    s.mail.engine = none → o.phase = .victims → s.nextVictim o = some e →
    let conflicts := s.entryConflicts e (taken || decide ((s.bin b).state ≠ .clear))
    let records := (conflicts.take (min (o.body.capacity / 16) 65535 - o.written)).map conflictRecord
    let address := o.body.result + 16 * o.written
    records = [] ∨ s.allowed true address 16 = true →
    ∃ o' t, step s = .next t ∧ t.engine.order = some o' ∧ t.engine.reading = none ∧
      o'.found = o.found + conflicts.length ∧ o'.victim = some (e.code, e.id) ∧ o'.stepCounter = o.stepCounter ∧
      o'.written = o.written ∧ { t with engine := s.engine, port := s.port } = s ∧
      (records = [] → t.engine.pos = .boundary ∧ t.port.transfers = s.port.transfers) ∧
      (∀ d rest, records = d :: rest → t.engine.pos = .conflictWait records ∧ d.length = 16 ∧
        t.port.transfers = s.port.transfers ++ [⟨.engine, true, address, 16, d⟩])) ∧
  (∀ (o : EngineOrder) (d : List Byte) (left : List (List Byte)) (s : State),
    (s.conflictWritten o (d :: left) .fault = stepEnded s { o with faultMark := true } o.last) ∧
    (∀ bs, left = [] →
      s.conflictWritten o (d :: left) (.ok bs) = stepEnded s { o with written := o.written + 1 } o.last) ∧
    (∀ bs e rest, left = e :: rest → s.allowed true (o.body.result + 16 * (o.written + 1)) e.length = true →
      s.conflictWritten o (d :: left) (.ok bs) = { s with
        engine := { s.engine with order := some { o with written := o.written + 1 }, pos := .conflictWait left }
        port := { s.port with transfers := s.port.transfers ++
          [⟨.engine, true, o.body.result + 16 * (o.written + 1), e.length, e⟩] } })) ∧
  ∀ (o : EngineOrder) (s : State), s.engine.pos = .boundary → s.engine.service = none →
    s.engine.reading = none → s.engine.requests = [] →
    s.engine.order = some o → o.kind = .check → o.outcomes = [] → o.last = .victim → o.faultMark = false →
    o.haltMark = true → o.stepCounter < 63 → (s.nextVictim o).isSome = true →
    exec .engineStepBoundary s =
      .next (State.serveBus { s with
        engine := { s.engine with pos := .idle, order := none, airChanged := false }
        board := { s.board with
          completions := s.board.completions ++ [⟨o.slot, true, .halted, min 65535 o.found, o.written⟩] } })

/-- An ON_AIR carrier leaves the Air Set (R34, R86): its entry goes, and with it its watch, its held TUNE and its request
on the Swap Request List, and no other. The answers already given reach the Watch Unit first (log 7). The records of
the carrier and of its stage are marked. -/
def leftAir (s t : State) (id : Nat) : Prop :=
  let u := s.takeAnswers
  t.air = s.air.filter (fun e => decide (e.id ≠ id)) ∧ t.watchRec id = none ∧
  (∀ j, j ≠ id → t.watchRec j = u.watchRec j) ∧ t.watch.params = s.watch.params ∧
  t.watch.heldTunes =
    (if (s.watchRec id).isSome then s.watch.heldTunes.filter fun h => decide (h.tune.id ≠ id) else s.watch.heldTunes) ∧
  t.engine.requests = s.engine.requests.filter (fun x => decide (x ≠ id)) ∧ t.swapAnswers = [] ∧ t.causes = u.causes ∧
  marksAdded u t fun r => r = .carrier id ∨ r = .stage (id / 256)

/-- The take of an AIR_JOIN, an AIR_LEAVE or a CHANGEOVER (R67): its lists are read whole, 2 bytes for each carrier ID,
list_a and then list_b, an empty list not at all. Once they are read the order begins with its first item, a CHANGEOVER
without a leaver in PLACE (the model's own choice, log 59). A fault ends the order FAILED MEMORY with counts 0 and 0
before its first step, every item WITHDRAWN, with ID 65535 where its list was not received (log 24), and nothing else
has changed. An engine that holds requests serves the first of them before it goes on. An item of an AIR_LEAVE or of the
LEAVE phase of a CHANGEOVER: one that is ON_AIR leaves the Air Set with outcome LEFT and the code it held; otherwise the
outcome is NOT_ON_AIR and nothing but the order changes. At an item boundary the next item is handled so. -/
def Obligations.AirLeaveHandlesNextItem : Prop :=
  (∀ (slot : Nat) (k : OrderKind) (b : OrderBody) (halt : Bool) (s : State),
    k = .airJoin ∨ k = .airLeave ∨ k = .changeover →
    let o : EngineOrder :=
      { slot := slot, kind := k, body := b, phase := if k = .changeover then .leave else .items
        listA := [], listB := [], cursor := 0, stepCounter := 0, outcomes := [], haltMark := halt, faultMark := false
        stopMark := false, last := .item, ahead := .same, joiner := none, victim := none, spareAt := none
        found := 0, written := 0, commitFault := false, notWritten := 0 }
    let asks := fun (u : EngineOrder) (a n : Nat) (p : EnginePos) => { s with
      engine := { s.engine with order := some u, pos := p }
      port := { s.port with transfers := s.port.transfers ++ [⟨.engine, false, a, n, []⟩] } }
    let begins := fun u : EngineOrder => { s with engine := { s.engine with order := some u, pos := .step } }
    let ids := fun (bs : List Byte) (n : Nat) => (List.range n).map fun i => half bs (2 * i)
    let unread := fun n : Nat => List.replicate n 65535
    let roomA := s.allowed false b.listA (2 * b.listACount) = true
    let roomB := s.allowed false b.listB (2 * b.listBCount) = true
    newOrder slot k b halt = o ∧
    (b.listACount ≠ 0 → roomA → s.beginOrder o = asks o b.listA (2 * b.listACount) .listAWait) ∧
    (b.listACount = 0 → k ≠ .changeover → s.beginOrder o = handedOver s ⟨slot, false, .nothingDone, 0, 0⟩) ∧
    (b.listACount = 0 → k = .changeover → b.listBCount ≠ 0 → roomB →
      s.beginOrder o = asks o b.listB (2 * b.listBCount) .listBWait) ∧
    (b.listACount = 0 → k = .changeover → b.listBCount = 0 → s.beginOrder o = begins { o with phase := .place }) ∧
    s.listARead o .fault =
      s.finish { o with listA := unread b.listACount, listB := unread b.listBCount } true .memory 0 0 ∧
    ∀ bs bs' : List Byte,
      let u := { o with listA := ids bs b.listACount }
      let inPhase := fun w : EngineOrder => { w with phase := if b.listACount = 0 then .place else .leave }
      (k ≠ .changeover → s.listARead o (.ok bs) = begins u) ∧
      (k = .changeover → b.listBCount = 0 → s.listARead o (.ok bs) = begins (inPhase u)) ∧
      (k = .changeover → b.listBCount ≠ 0 → roomB →
        s.listARead o (.ok bs) = asks u b.listB (2 * b.listBCount) .listBWait) ∧
      (k = .changeover → s.listBRead u .fault = s.finish { u with listB := unread b.listBCount } true .memory 0 0 ∧
        s.listBRead u (.ok bs') = begins (inPhase { u with listB := ids bs' b.listBCount }))) ∧
  (∀ (o : EngineOrder) (s : State), s.engine.service = none → s.engine.reading = none → s.engine.order = some o →
    let u := { s with mail := { s.mail with engine := none } }
    (s.engine.pos = .taken → s.engineMicro = some (if s.engine.requests = [] then s.beginOrder o else s.serveHead)) ∧
    (s.engine.pos = .step → s.engineMicro = some (s.beginStep o)) ∧
    ∀ a, s.mail.engine = some a → (s.engine.pos = .listAWait → s.engineMicro = some (u.listARead o a)) ∧
      (s.engine.pos = .listBWait → s.engineMicro = some (u.listBRead o a))) ∧
  ∀ (o : EngineOrder) (id : Nat) (s : State),
    o.kind = .airLeave ∧ o.phase = .items ∨ o.kind = .changeover ∧ o.phase = .leave → o.listA[o.cursor]? = some id →
    (s.onAirEntry id = none → s.beginStep o = stepEnded s (itemAnswered o id .notOnAir 0) .item) ∧
    (∀ e, s.onAirEntry id = some e → ∃ u, s.beginStep o = stepEnded u (itemAnswered o id .left e.code) .item ∧
      leftAir s u id ∧ { u.engine with requests := s.engine.requests } = s.engine ∧
      { u with
        engine := s.engine, air := s.air, watch := s.watch, swapAnswers := s.swapAnswers, status := s.status
        causes := s.causes } = s) ∧
    (s.engine.pos = .boundary → s.engine.service = none → s.engine.reading = none → s.engine.requests = [] →
      s.engine.order = some o → o.last = .item → o.faultMark = false → o.haltMark = false → o.stopMark = false →
      o.stepCounter < 63 →
      ∃ t, exec .engineStepBoundary s = .next t ∧
        { t with
          engine := s.engine, air := s.air, watch := s.watch, swapAnswers := s.swapAnswers, status := s.status
          causes := s.causes, port := s.port } = s ∧
        (∀ e, s.onAirEntry id = some e → leftAir s t id) ∧
        (s.onAirEntry id = none → { t with engine := s.engine, port := s.port } = s) ∧
        t.engine = { s.engine with
          pos := .boundary, airChanged := false
          order := some { (match s.onAirEntry id with
              | some e => itemAnswered o id .left e.code
              | none => itemAnswered o id .notOnAir 0) with stepCounter := o.stepCounter + 1, ahead := .same } })

/-- The orders of the engine without boundaries, as they begin and, where they have a list, as its read ends.
SET_PARAMS loads the eleven Plan Parameters, each clamped into its range, and counts those clamped. LOAD_COUPLING
writes the cells that its list names, row by row, each at most 63, and never the diagonal. SPARES_LOAD checks the
whole list, and one that passes replaces the Spare List. SPARES_RELEASE makes a USED or BARRED spare AVAILABLE without
a user. FLUSH_CACHE makes every way of the flagged areas invalid and their alternation bits 0. Each hands its end over
with its counts; a fault on a list read ends it FAILED MEMORY with nothing changed. Nothing else changes but the marks
of the records concerned. -/
def Obligations.EngineOrdersLoadTheTables : Prop :=
  ∀ (slot : Nat) (b : OrderBody) (halt : Bool) (s : State),
    let order := fun k => newOrder slot k b halt
    let ok := fun c1 c2 => (⟨slot, false, .ok, c1, c2⟩ : Completion)
    let nothing : Completion := ⟨slot, false, .nothingDone, 0, 0⟩
    (let p : PlanParams :=
        { gcc := min (parByte b.p0 0) 31, g3 := min (parByte b.p0 1) 15, g5 := min (parByte b.p0 2) 15
          gocc := min (parByte b.p0 3) 7, reuse := min (parByte b.p1 0) 63
          t3 := min (signedByte (parByte b.p1 1)) 63, t5 := min (signedByte (parByte b.p1 2)) 63
          threeTone := (parByte b.p1 3).testBit 0, fifthOrder := (parByte b.p1 3).testBit 1
          cacheOff := (parByte b.p1 3).testBit 2, searchLimit := max 1 (min (b.p2 % 65536) 4095) }
     s.beginOrder (order .setParams) = handedOver { s with params := p }
        (ok (differing [(p.gcc, parByte b.p0 0), (p.g3, parByte b.p0 1), (p.g5, parByte b.p0 2),
          (p.gocc, parByte b.p0 3), (p.reuse, parByte b.p1 0), (p.t3, signedByte (parByte b.p1 1)),
          (p.t5, signedByte (parByte b.p1 2)), (p.searchLimit, (b.p2 % 65536 : Nat))]) 0)) ∧
    (∀ k, k = .loadCoupling ∨ k = .sparesLoad → b.listACount ≠ 0 →
      let n := if k = .loadCoupling then b.listACount else b.listACount * 4
      (s.allowed false b.listA n = true → s.beginOrder (order k) = { s with
        engine := { s.engine with pos := .listAWait, order := some (order k) }
        port := { s.port with transfers := s.port.transfers ++ [⟨.engine, false, b.listA, n, []⟩] } }) ∧
      s.listARead (order k) .fault = handedOver s ⟨slot, true, .memory, 0, 0⟩) ∧
    (b.listACount = 0 → s.beginOrder (order .loadCoupling) = handedOver s nothing ∧
      s.beginOrder (order .sparesLoad) = s.listARead (order .sparesLoad) (.ok [])) ∧
    (∀ bs : List Byte, bs.length = b.listACount → bs ≠ [] → bs.length ≤ 144 →
      let given := fun i => (bs.getD i 0).toNat
      let count := fun p : Nat → Bool => ((List.range bs.length).filter p).length
      ∃ t, s.listARead (order .loadCoupling) (.ok bs) = handedOver t
          (ok (count fun i => if i / 12 = i % 12 then decide (given i ≠ 0) else decide (63 < given i))
            (count fun i => decide (i / 12 ≠ i % 12))) ∧
        (∀ row col, row < 12 → col < 12 → t.isolation row col =
          if row ≠ col ∧ row * 12 + col < bs.length then min (given (row * 12 + col)) 63 else s.isolation row col) ∧
        { t with coupling := s.coupling } = s) ∧
    (∀ bs : List Byte, bs.length = 4 * b.listACount →
      let list : List (Nat × BitVec 12) :=
        (List.range b.listACount).map fun i => (half bs (4 * i), BitVec.ofNat 12 (half bs (4 * i + 2)))
      let ends := s.listARead (order .sparesLoad) (.ok bs)
      let outside := ∃ e ∈ list, 8960 ≤ e.1
      (outside → ends = handedOver s ⟨slot, true, .badOrder, 0, 0⟩) ∧
      (¬ outside → ¬ (list.map Prod.fst).Nodup → ends = handedOver s ⟨slot, true, .duplicate, 0, 0⟩) ∧
      (¬ outside → (list.map Prod.fst).Nodup →
        ∃ t, ends = handedOver t (ok b.listACount (list.filter fun e => decide (e.2 = 0)).length) ∧
          t.spares = list.map (fun e => ⟨e.1, e.2, .available, none⟩) ∧
          marksAdded s t (fun r => (∃ i, r = .spare i) ∨ ∃ sp ∈ s.spares, ∃ u, sp.user = some u ∧ r = .carrier u) ∧
          { t with spares := s.spares, status := s.status } = s)) ∧
    (let ends := s.beginOrder (order .sparesRelease)
     (∀ sp, s.spares[b.p0]? = some sp → sp.state ≠ .available →
        ∃ t, ends = handedOver t (ok 1 0) ∧
          t.spares = s.spares.set b.p0 { sp with state := .available, user := none } ∧
          marksAdded s t (fun r => r = .spare b.p0 ∨ ∃ u, sp.user = some u ∧ r = .carrier u) ∧
          { t with spares := s.spares, status := s.status } = s) ∧
     ((∀ sp, s.spares[b.p0]? = some sp → sp.state = .available) → ends = handedOver s nothing)) ∧
    (let areas := (List.range 12).filter fun k => b.p0.testBit k
     let ends := s.beginOrder (order .flushCache)
     (areas = [] → ends = handedOver s nothing) ∧
     (areas ≠ [] →
        ∃ t, ends = handedOver t (ok (16 * areas.length)
            (((List.range 192).filter fun set => decide (set / 16 ∈ areas)).map fun set =>
              (s.way set false).toList.length + (s.way set true).toList.length).sum) ∧
          (∀ set w, t.way set w = if set / 16 ∈ areas then none else s.way set w) ∧
          (∀ set, sparseGet false t.alt set = if set / 16 ∈ areas then false else sparseGet false s.alt set) ∧
          { t with cache := s.cache, alt := s.alt } = s))

/-- A carrier goes on air by AIR_JOIN (R29, R84): its entry, with the copies of its record, ON_AIR at its assigned code;
its watch, in QUIET, if it is a watched microphone with a rack; the marks of its record and its stage's; the outcome
KEPT; and its TUNE to be offered, if it has a rack. -/
def joinedOnAir (s t : State) (o : EngineOrder) (id : Nat) (i : CarrierInfo) : Prop :=
  let watched := i.kind = .mic ∧ i.watched = true ∧ i.rack.isSome = true
  let o' := { itemAnswered o id .kept i.assigned with joiner := none }
  t.airEntry id = some ⟨id, id / 256, i.assigned, powerOf i.powerClass, i.kind, i.locked, i.autoSwap, i.watched,
    i.tuneLow, i.tuneHigh, i.tuneStep, i.rack, .onAir, .unconfirmed, none⟩ ∧
  (∀ j, j ≠ id → t.airEntry j = s.airEntry j) ∧ t.air.length = s.air.length + 1 ∧
  let marked := fun u : State =>
    marksAdded u t (fun r => r = .carrier id ∨ r = .stage (id / 256)) ∧ t.causes = u.causes
  (watched → s.watchRec id = none → t.watchRec id = some ⟨id, .quiet, 0, 0, 0, none, none⟩ ∧
    (∀ j, j ≠ id → t.watchRec j = s.takeAnswers.watchRec j) ∧ t.watch.params = s.watch.params ∧
    t.watch.heldTunes = s.watch.heldTunes ∧ t.swapAnswers = [] ∧ marked s.takeAnswers) ∧
  (¬ watched → t.watch = s.watch ∧ t.swapAnswers = s.swapAnswers ∧ marked s) ∧
  t.engine = { s.engine with
    order := some (if i.rack.isSome then o' else { o' with last := .item })
    pos := if i.rack.isSome then .tune [id] false else .boundary } ∧
  { t with
    engine := s.engine, air := s.air, watch := s.watch, swapAnswers := s.swapAnswers, status := s.status
    causes := s.causes } = s

/-- The tests of an AIR_JOIN item in their order: on air already; 200 entries; the lookup and its answers; no assigned
code; a code outside the range; and, in VERIFY mode, tests 2 to 6 once the bins around the code have been read. An item
that passes goes on air at its assigned code. In FORCE mode no test reads the map. That the bins are read before tests
3 to 6 are judged is the model's own choice (log 9), as is that the Watch Unit takes the answers already given before it
begins a watch (log 7). -/
def Obligations.AirJoinHandlesItem : Prop :=
  ∀ (o : EngineOrder) (id : Nat) (s : State), o.kind = .airJoin →
    let ends := fun out => stepEnded s (itemAnswered o id out 0) .item
    (o.phase = .items → o.joiner = none → o.listA[o.cursor]? = some id →
      ((s.airEntry id).isSome = true → s.beginStep o = ends .alreadyOnAir) ∧
      (s.airEntry id = none → 200 ≤ s.air.length → s.beginStep o = ends .airSetFull) ∧
      (s.airEntry id = none → s.air.length < 200 → s.beginStep o =
        { s with engine := { s.engine with order := some o, lookup := some .ask, pos := .lookup id } })) ∧
    s.lookedUp o id .unknown = ends .unknownCarrier ∧ s.lookedUp o id .damaged = ends .recordDamaged ∧
    s.lookedUp o id .memory = stepEnded s { o with faultMark := true } .item ∧
    (∀ i : CarrierInfo,
      let t := s.lookedUp o id (.found i)
      let inside := i.tuneLow ≤ i.assigned ∧ i.assigned ≤ i.tuneHigh ∧ i.assigned ≤ 8959
      (i.assigned = 65535 → t = ends .noFrequency) ∧
      (i.assigned ≠ 65535 → ¬ inside → t = ends .outOfRange) ∧
      (inside → o.body.p0 = 0 → t = takenInHand s o ⟨id, i, .assigned, i.assigned, none, none⟩) ∧
      (inside → o.body.p0 ≠ 0 → s.airEntry id = none → s.air.length < 200 → joinedOnAir s t o id i)) ∧
    ∀ j : Joiner, o.phase = .items → o.joiner = some j → j.candidate ≤ 8959 →
      (s.engine.reading = none → s.beginStep o =
        { s with engine := { s.engine with reading := some ⟨binsAround s.params.gocc j.candidate, false⟩ } }) ∧
      ∀ r, s.engine.reading = some r →
        let u := { s with engine := { s.engine with reading := none } }
        let fails :=
          s.firstFailing ⟨j.id, j.candidate, j.id / 256, powerOf j.info.powerClass⟩ (othersThan s j.id) none r.taken
        (fails ≠ none → s.beginStep o =
          stepEnded u { itemAnswered o j.id .refusedConflict 0 with joiner := none } .item) ∧
        (fails = none → s.airEntry j.id = none → s.air.length < 200 → joinedOnAir u (s.beginStep o) o j.id j.info)

/-- A joiner of a CHANGEOVER that is not placed (R89). Under BEST_EFFORT it keeps its outcome and the engine goes on
with the next joiner, or, `closing`, with COMMIT. Under ALL_OR_NONE the order ends: its PENDING entries are removed,
the joiners placed get WITHDRAWN, and the end is NO_CANDIDATE with both counts 0. -/
def joinerRefused (s t : State) (o : EngineOrder) (id : Nat) (out : ItemOutcome) (closing : Bool) : Prop :=
  let o' := { itemAnswered o id out 0 with joiner := none }
  (o.body.p0 ≠ 0 → t = { s with engine := { s.engine with
    order := some { o' with phase := if closing then .commit else .place }, pos := .step } }) ∧
  (o.body.p0 = 0 → ∃ u, t = u.finish { o' with outcomes := o'.outcomes.map fun r =>
      if r.outcome = .placed ∨ r.outcome = .kept then { r with outcome := .withdrawn } else r } true .noCandidate 0 0 ∧
    u.air = s.air.filter (fun e => decide (e.owner ≠ some o.slot)) ∧
    marksAdded s u (fun r => ∃ e ∈ s.air, e.owner = some o.slot ∧ r = .carrier e.id) ∧
    { u with air := s.air, status := s.status } = s)

/-- The search of a carrier begins with the first point of its walk, if the walk has one (R81). -/
def walkBegins (s t : State) (o : EngineOrder) (id : Nat) (i : CarrierInfo) (w : Walk) (ends : Prop) : Prop :=
  (∀ x w', w.next = (some x, w') → t = takenInHand s o ⟨id, i, .walk, x, none, some { w' with examined := 1 }⟩) ∧
    (w.next.1 = none → ends)

/-- The tests that CHANGEOVER and RETUNE make before they examine a code, and one examination. A joiner: on air
already, 200 entries, its lookup, an empty range; then its assigned code is taken in hand, or the first point of its
walk, which begins at its preferred code or at the bottom of its range; a LOCKED one without an assigned code is
refused. A RETUNE: not ON_AIR, LOCKED, its lookup, an empty range; then its target, or the first point of the walk
from c + s without c. A lookup that faults ends a joiner's step, and a RETUNE at once (the model's own reading, log
23). An examination is test 1 and then, once the bins around the code have been read, tests 2 to 6, with the power of
the carrier's entry or, when it has none, of its record; its result waits for the boundary. The order of reads and
tests is the model's own choice (log 9); of a walk, logs 12 and 52. -/
def Obligations.SearchesBeginWithTheirTests : Prop :=
  ∀ (o : EngineOrder) (id : Nat) (s : State), 1 ≤ s.params.searchLimit →
    (o.kind = .changeover →
      let refused := fun t out => joinerRefused s t o id out false
      let limit := s.params.searchLimit
      (o.phase = .place → o.joiner = none → o.listB[o.cursor]? = some id →
        ((s.airEntry id).isSome = true → refused (s.beginStep o) .alreadyOnAir) ∧
        (s.airEntry id = none → 200 ≤ s.air.length → refused (s.beginStep o) .airSetFull) ∧
        (s.airEntry id = none → s.air.length < 200 → s.beginStep o =
          { s with engine := { s.engine with order := some o, lookup := some .ask, pos := .lookup id } })) ∧
      refused (s.lookedUp o id .unknown) .unknownCarrier ∧ refused (s.lookedUp o id .damaged) .recordDamaged ∧
      s.lookedUp o id .memory = stepEnded s { o with faultMark := true } .item ∧
      ∀ i : CarrierInfo,
        let t := s.lookedUp o id (.found i)
        let empty := i.tuneHigh < i.tuneLow ∨ 8959 < i.tuneLow
        let start := if i.preferred ≠ 65535 ∧ test1 i.tuneLow i.tuneHigh i.tuneStep i.preferred = true then i.preferred
          else i.tuneLow
        (empty → refused t .outOfRange) ∧
        (¬ empty → i.assigned ≠ 65535 →
          t = takenInHand s o ⟨id, i, if i.locked then .locked else .assigned, i.assigned, none, none⟩) ∧
        (¬ empty → i.assigned = 65535 → i.locked = true → refused t .noFrequency) ∧
        (¬ empty → i.assigned = 65535 → i.locked = false →
          walkBegins s t o id i (startWalk start i.tuneLow i.tuneHigh i.tuneStep none limit)
            (refused t .refusedConflict))) ∧
    (o.kind = .retune → id = o.body.p0 % 65536 →
      let fails := fun out r => s.finish (itemAnswered o id out 0) true r 0 0
      (s.onAirEntry id = none → s.beginOrder o = fails .notOnAir .notOnAir) ∧
      (∀ e, s.onAirEntry id = some e → e.locked = true → s.beginOrder o = fails .permission .permission) ∧
      (∀ e, s.onAirEntry id = some e → e.locked = false → s.beginOrder o =
        { s with engine := { s.engine with order := some o, lookup := some .ask, pos := .lookup id } }) ∧
      s.lookedUp o id .unknown = fails .unknownCarrier .nothingDone ∧
      s.lookedUp o id .damaged = fails .recordDamaged .nothingDone ∧
      s.lookedUp o id .memory = s.finish o true .memory 0 0 ∧
      ∀ (i : CarrierInfo) (e : AirEntry), s.onAirEntry id = some e →
        let t := s.lookedUp o id (.found i)
        let target := o.body.p1 % 65536
        let empty := i.tuneHigh < i.tuneLow ∨ 8959 < i.tuneLow
        (empty → t = fails .outOfRange .refusedConflict) ∧
        (¬ empty → target ≠ 65535 → t = takenInHand s o ⟨id, i, .target, target, none, none⟩) ∧
        (¬ empty → target = 65535 →
          walkBegins s t o id i
            (startWalk (e.code + i.tuneStep) i.tuneLow i.tuneHigh i.tuneStep (some e.code) s.params.searchLimit)
            (t = fails .refusedConflict .refusedConflict))) ∧
    ∀ j : Joiner, o.phase = .place ∨ o.phase = .search → o.joiner = some j →
      let u := { s with engine := { s.engine with reading := none } }
      let judged := fun (s : State) (test : Option Nat) =>
        stepEnded s { o with joiner := some { j with failedTest := test } } .examined
      let power := ((s.airEntry j.id).map AirEntry.power).getD (powerOf j.info.powerClass)
      let first := test1 j.info.tuneLow j.info.tuneHigh j.info.tuneStep j.candidate
      (first = false → s.beginStep o = judged s (some 1)) ∧
      (first = true → s.engine.reading = none → s.beginStep o =
        { s with engine := { s.engine with reading := some ⟨binsAround s.params.gocc j.candidate, false⟩ } }) ∧
      ∀ r, first = true → s.engine.reading = some r → s.beginStep o =
        judged u (s.firstFailing ⟨j.id, j.candidate, j.id / 256, power⟩ (othersThan s j.id) none r.taken)

/-- The boundary after an examination, when no cause ends the order there. If a swap served since has changed the Air
Set, the code is examined afresh. A code that passed is taken: a joiner's entry goes into the Air Set PENDING, owned
by the order, with outcome KEPT for an assigned code and PLACED for one that its walk found; a RETUNE's carrier takes
the code and the fresh range, unconfirmed, the Watch Unit gets its notice, and COMMIT begins. A code that failed sends
an unlocked joiner at its assigned code to its walk, and a walk to its next point, whose end is REFUSED_CONFLICT, or
SEARCH_LIMIT once search_limit codes have been examined; that SEARCH_LIMIT stands also when no point is left is log
13. Otherwise the joiner is refused, and the RETUNE ends FAILED with the number of codes examined. The answers of the
engine already given reach the Watch Unit before the notice (log 7). -/
def Obligations.ExaminedCodeIsTakenOrPassedOver : Prop :=
  ∀ (o : EngineOrder) (j : Joiner) (s : State), o.kind = .changeover ∨ o.kind = .retune → o.joiner = some j →
    o.last = .examined → o.faultMark = false → o.haltMark = false → o.stopMark = false →
    let t := s.decideBoundary o
    let closing := decide (o.listB.length ≤ o.cursor + 1)
    let refused := fun out : ItemOutcome =>
      (o.kind = .changeover → joinerRefused s t o j.id out closing) ∧
      (o.kind = .retune → t = s.finish (itemAnswered o (o.body.p0 % 65536) out 0) true
        (if out = .searchLimit then .searchLimit else .refusedConflict) ((j.walk.map Walk.examined).getD 1) 0)
    let walks := fun w : Walk =>
      (w.limit ≤ w.examined → refused .searchLimit) ∧
      (w.examined < w.limit → ∀ x w', w.next = (some x, w') →
        t = takenInHand s o { j with
          placing := .walk, candidate := x, walk := some { w' with examined := w.examined + 1 }, failedTest := none }) ∧
      (w.examined < w.limit → w.next.1 = none → refused .refusedConflict)
    (s.engine.airChanged = true → t = { s with engine := { s.engine with order := some o, pos := .step } }) ∧
    (s.engine.airChanged = false → ∀ test, j.failedTest = some test →
      (j.placing = .locked ∨ j.placing = .target → refused (if test = 1 then .outOfRange else .refusedConflict)) ∧
      (j.placing = .assigned → walks (startWalk
        (if j.info.preferred ≠ 65535 ∧
            test1 j.info.tuneLow j.info.tuneHigh j.info.tuneStep j.info.preferred = true then j.info.preferred
          else j.info.tuneLow)
        j.info.tuneLow j.info.tuneHigh j.info.tuneStep none s.params.searchLimit)) ∧
      (∀ w, j.placing = .walk → j.walk = some w → walks w)) ∧
    (s.engine.airChanged = false → j.failedTest = none → o.kind = .changeover → s.airEntry j.id = none →
      s.air.length < 200 →
      t.airEntry j.id = some ⟨j.id, j.id / 256, j.candidate, powerOf j.info.powerClass, j.info.kind, j.info.locked,
        j.info.autoSwap, j.info.watched, j.info.tuneLow, j.info.tuneHigh, j.info.tuneStep, j.info.rack, .pending,
        .unconfirmed, some o.slot⟩ ∧
      (∀ x, x ≠ j.id → t.airEntry x = s.airEntry x) ∧ marksAdded s t (fun r => r = .carrier j.id) ∧
      t.engine = { s.engine with
        order := some { itemAnswered o j.id
            (if j.placing = .locked ∨ j.placing = .assigned then .kept else .placed) j.candidate with
          joiner := none, phase := if closing then .commit else .place }
        pos := .step } ∧
      { t with engine := s.engine, air := s.air, status := s.status } = s) ∧
    ∀ e, s.engine.airChanged = false → j.failedTest = none → o.kind = .retune → s.airOk → s.airEntry j.id = some e →
      t.airEntry j.id = some { e with
        code := j.candidate, confirmed := .unconfirmed, tuneLow := j.info.tuneLow, tuneHigh := j.info.tuneHigh
        tuneStep := j.info.tuneStep } ∧
      (∀ x, x ≠ j.id → t.airEntry x = s.airEntry x) ∧
      (∀ w, s.takeAnswers.watchRec j.id = some w →
        t.watchRec j.id = some (if w.state = .blind then w
          else if s.watch.params.settle = 0 then { w with state := .quiet, run := 0, settle := 0 }
          else { w with state := .settling, run := 0, settle := s.watch.params.settle }) ∧
        t.watch.heldTunes = s.watch.heldTunes.filter (fun h => h.tune.id != j.id) ∧
        t.engine.requests =
          if w.state = .swapWait then s.engine.requests.filter fun x => x != j.id else s.engine.requests) ∧
      (s.takeAnswers.watchRec j.id = none → t.watch.heldTunes = s.watch.heldTunes ∧
        t.engine.requests = s.engine.requests) ∧
      (∀ x, x ≠ j.id → t.watchRec x = s.takeAnswers.watchRec x) ∧ t.swapAnswers = [] ∧
      marksAdded s.takeAnswers t (fun r => r = .carrier j.id ∨ r = .stage (j.id / 256) ∧
        ∃ w, s.takeAnswers.watchRec j.id = some w ∧ (w.state = .alerted ∨ w.state = .held)) ∧
      t.causes = s.takeAnswers.causes ∧ t.watch.params = s.watch.params ∧
      { t.engine with requests := s.engine.requests } = { s.engine with
        order := some { itemAnswered o j.id .placed j.candidate with phase := .commit }
        pos := .commitWrite [j.id] } ∧
      { t with
        engine := s.engine, air := s.air, watch := s.watch, swapAnswers := s.swapAnswers, status := s.status
        causes := s.causes } = s

/-- An item outcome record (R72, R194): the carrier ID, then the group and the final code, which is the entry's code now
for PLACED and KEPT and the code held for LEFT, or the outcome's own code. -/
def outcomeRecord (s : State) (r : ItemRecord) : List Byte :=
  let code := ((s.airEntry r.id).map AirEntry.code).getD r.code
  twoBytes r.id ++ twoBytes (match r.outcome with
    | .placed => code % 16384
    | .kept => 16384 + code % 16384
    | .left => 32768 + r.code % 16384
    | .refusedConflict => 49155
    | .noFrequency => 49156
    | .outOfRange => 49157
    | .unknownCarrier => 49158
    | .recordDamaged => 49159
    | .alreadyOnAir => 49160
    | .notOnAir => 49161
    | .searchLimit => 49162
    | .airSetFull => 49163
    | .withdrawn => 49164
    | .permission => 49165)

/-- No candidate is left for a carrier in hand whose code has failed (R81, R88, R92): that code was the only one, or its
walk goes no further. -/
def searchOver (s : State) (j : Joiner) : Prop :=
  let first := startWalk
    (if j.info.preferred ≠ 65535 ∧ test1 j.info.tuneLow j.info.tuneHigh j.info.tuneStep j.info.preferred = true then
      j.info.preferred else j.info.tuneLow)
    j.info.tuneLow j.info.tuneHigh j.info.tuneStep none s.params.searchLimit
  let w := if j.placing = .walk then j.walk.getD first else first
  j.placing = .locked ∨ j.placing = .target ∨ w.limit ≤ w.examined ∨ w.next.1 = none

/-- The next step after a boundary belongs to a different phase (R68, R69): PLACE follows the last leaver; COMMIT
follows the code that a RETUNE has found, and the last joiner when it is placed, or not placed under BEST_EFFORT (log 22
for one that was not examined); SPARES follow the last victim. A code that is to be examined afresh changes no phase. -/
def phaseChanges (s : State) (o : EngineOrder) : Prop :=
  (o.last = .item ∧ o.phase = .leave ∧ o.listA.length ≤ o.cursor + (if o.faultMark then 1 else 0)) ∨
  o.last = .phaseEnd ∨
  (o.last = .examined ∧ s.engine.airChanged = false ∧ ∃ j, o.joiner = some j ∧
    (j.failedTest = none ∧ (o.kind = .retune ∨ o.listB.length ≤ o.cursor + 1) ∨
      j.failedTest ≠ none ∧ searchOver s j ∧ o.kind = .changeover ∧ o.body.p0 ≠ 0 ∧ o.listB.length ≤ o.cursor + 1)) ∨
  (o.last = .victim ∧ s.nextVictim o = none ∧ o.body.p1.testBit 0 = true ∧ (s.nextSpare o).isSome = true)

/-- A boundary after which the order has no further step (R68). -/
def lastBoundary (s : State) (o : EngineOrder) : Prop :=
  (o.last = .item ∧ o.phase ≠ .place ∧ o.phase ≠ .leave ∧
    o.listA.length ≤ o.cursor + (if o.faultMark then 1 else 0)) ∨
  (o.last = .victim ∧ s.nextVictim o = none ∧ (o.body.p1.testBit 0 = true → s.nextSpare o = none)) ∨
  (o.last = .spare ∧ s.nextSpare o = none)

/-- COMMIT and the ends of the engine's orders. At COMMIT every PENDING entry that a CHANGEOVER owns becomes ON_AIR at
once, those that qualify are watched, after the answers already given (log 7), and the PLACED joiners' records are to be
written. Each write-back is made with the entry's code and source ENGINE, and those that do not end WRITTEN are counted;
a plan-class TUNE at the entry's code now is then offered for each carrier put on air or moved that has a rack, a line
takes it as lineTakes states (a TUNE begun within a wait after an exchange is sent when that wait ends: log 32), and one
refused waits. The last one accepted ends an AIR_JOIN's item, and a COMMIT: OK, PARTIAL when some joiner is not on air,
or MEMORY after a write-back answered FAULT. AIR_JOIN and AIR_LEAVE end after their last item. An end writes the whole
outcome list first, the items not reached WITHDRAWN, and a fault on that write makes it FAILED MEMORY unless it was
FAILED already. A boundary serves the swap requests first; then the stop word of the slot is read when the next step
belongs to a different phase, or at the 64th step since it was read, and at a last boundary never. A fault on that read
counts as one of the step. The order ends MEMORY after a fault, otherwise HALTED, otherwise STOPPED, the last two not at
a last boundary: AIR_JOIN and AIR_LEAVE with the counts of the items handled, a CHANGEOVER with its placements withdrawn
and counts 0, a RETUNE with the number of candidates examined, a CHECK with the counts reached. That an outcome list is
one transfer is log 31; that a RETUNE whose write-back answers FAULT keeps its outcome PLACED, for which R93 gives none,
is log 39; that a stop word due is read also when a fault will end the order is log 40; which boundary a faulted lookup
or record write makes is log 58. -/
def Obligations.CommitsAndEndsWriteTheirOutcomes : Prop :=
  (∀ (o : EngineOrder) (s : State), o.phase = .commit →
    let owned := s.air.filter fun e => decide (e.owner = some o.slot)
    let t := s.beginStep o
    t.air = s.air.map (fun e => if e.owner = some o.slot then { e with air := .onAir, owner := none } else e) ∧
    t.engine = { s.engine with
      order := some o
      pos := .commitWrite ((o.outcomes.filter fun r => decide (r.outcome = .placed)).map ItemRecord.id) } ∧
    let begins := fun e : AirEntry =>
      decide (e.kind = .mic ∧ e.watched = true ∧ e.rack.isSome = true ∧ s.watchRec e.id = none)
    let u := if owned.any begins then s.takeAnswers else s
    (∀ id, t.watchRec id = if (owned.filter begins).any (fun e => decide (e.id = id)) then
      some ⟨id, .quiet, 0, 0, 0, none, none⟩ else u.watchRec id) ∧
    t.watch.params = s.watch.params ∧ t.watch.heldTunes = s.watch.heldTunes ∧ t.swapAnswers = u.swapAnswers ∧
    t.causes = u.causes ∧ marksAdded u t (fun r => ∃ e ∈ owned, r = .carrier e.id ∨ r = .stage e.stage) ∧
    { t with
      engine := s.engine, air := s.air, watch := s.watch, swapAnswers := s.swapAnswers, status := s.status
      causes := s.causes } = s) ∧
  (∀ (o : EngineOrder) (id : Nat) (rest : List Nat) (s : State),
    (s.commitNext o [] = { s with engine := { s.engine with
      pos := .tune ((o.outcomes.filter fun r => decide (r.outcome = .placed ∨ r.outcome = .kept)).map ItemRecord.id)
        false } }) ∧
    (∀ e, s.airEntry id = some e → s.commitNext o (id :: rest) =
      { s with engine := { s.engine with wb := some ⟨id, e.code, false, .ask⟩, pos := .commitWriteWait (id :: rest) } }) ∧
    (∀ a, s.commitWritten o (id :: rest) a = { s with engine := { s.engine with
      order := some { o with
        commitFault := o.commitFault || decide (a = .fault)
        notWritten := if a = .written then o.notWritten else o.notWritten + 1 }
      pos := .commitWrite rest } }) ∧
    ((∀ e, s.airEntry id = some e → e.rack = none) →
      s.tuneNext o (id :: rest) = { s with engine := { s.engine with pos := .tune rest false } }) ∧
    (∀ e r, s.airEntry id = some e → e.rack = some r →
      let t := s.tuneNext o (id :: rest)
      (¬ queueAccepts (s.line r.line) false → t = { s with engine := { s.engine with pos := .tuneHeld (id :: rest) } }) ∧
      (queueAccepts (s.line r.line) false → t.engine = { s.engine with pos := .tune rest false } ∧
        t.line r.line = lineTakes (s.line r.line) ⟨false, r.addr, r.slot, id, e.code⟩ ∧
        (∀ k, k ≠ r.line → t.line k = s.line k) ∧ { t with engine := s.engine, lines := s.lines } = s))) ∧
  (∀ (o : EngineOrder) (s : State),
    let onAir := fun r : ItemRecord => decide (r.outcome = .placed ∨ r.outcome = .kept)
    let count := fun p : ItemRecord → Bool => (o.outcomes.filter p).length
    (o.kind = .airJoin → s.tuneNext o [] = stepEnded s o .item) ∧
    (o.kind = .changeover → s.tuneNext o [] = s.finish o o.commitFault
      (if o.commitFault then .memory else if ∀ r ∈ o.outcomes.drop o.listA.length, onAir r = true then .ok
        else .partialDone) (count onAir) o.notWritten) ∧
    (∀ j, o.kind = .retune → o.joiner = some j → s.tuneNext o [] = s.finish o o.commitFault
      (if o.commitFault then .memory else .ok) ((j.walk.map Walk.examined).getD 1) o.notWritten) ∧
    (∀ good, o.kind = .airJoin ∧ good = .kept ∨ o.kind = .airLeave ∧ good = .left → o.phase = .items →
      o.last = .item → o.faultMark = false → o.ahead = .last → o.listA.length ≤ o.cursor →
      let bad := count fun r => decide (r.outcome ≠ good)
      s.decideBoundary o = s.finish o false
        (if o.listA = [] then .nothingDone else if bad = 0 then .ok else .partialDone)
        (count fun r => decide (r.outcome = good)) bad)) ∧
  (∀ (o : EngineOrder) (failed : Bool) (r : ResultCode) (c1 c2 : Nat) (s : State),
    let items := if o.kind = .airJoin ∨ o.kind = .airLeave then o.listA
      else if o.kind = .changeover then o.listA ++ o.listB
      else if o.kind = .retune then [o.body.p0 % 65536] else []
    let list := o.outcomes ++ (items.drop o.outcomes.length).map fun id => (⟨id, .withdrawn, 0⟩ : ItemRecord)
    let bytes := list.flatMap (outcomeRecord s)
    (list = [] → s.finish o failed r c1 c2 = handedOver s ⟨o.slot, failed, r, c1, c2⟩) ∧
    (list ≠ [] → s.allowed true o.body.result bytes.length = true → bytes.length = 4 * list.length ∧
      s.finish o failed r c1 c2 = { s with
        engine := { s.engine with order := some o, pos := .outcomeWait failed r c1 c2 }
        port := { s.port with transfers := s.port.transfers ++
          [⟨.engine, true, o.body.result, bytes.length, bytes⟩] } }) ∧
    (∀ d, s.outcomesWritten o (.ok d) failed r c1 c2 = handedOver s ⟨o.slot, failed, r, c1, c2⟩) ∧
    s.outcomesWritten o .fault failed r c1 c2 = handedOver s ⟨o.slot, true, if failed then r else .memory, c1, c2⟩) ∧
  (∀ s : State, s.engine.pos = .boundary → s.engine.service = none → exec .engineStepBoundary s = .next
    (State.serveBus (State.engineGo { s with engine := { s.engine with pos := .serve, airChanged := false } }))) ∧
  (∀ (o : EngineOrder) (s : State), s.engine.service = none → s.engine.reading = none → s.engine.order = some o →
    let at' := fun (o' : EngineOrder) (p : EnginePos) => { s.engine with order := some o', pos := p }
    let address := s.latch.boardAddr + 64 * o.slot + 2
    let reads := fun ahead : Ahead => s.allowed false address 2 = true → s.engineMicro = some { s with
      engine := at' { o with ahead := ahead, stepCounter := 0 } .stopWait
      port := { s.port with transfers := s.port.transfers ++ [⟨.engine, false, address, 2, []⟩] } }
    (s.engine.pos = .serve → s.engine.requests ≠ [] → s.engineMicro = some s.serveHead) ∧
    (s.engine.pos = .serve → s.engine.requests = [] →
      (phaseChanges s o → reads .next) ∧
      (¬ phaseChanges s o → ¬ lastBoundary s o → o.stepCounter = 63 → reads .same) ∧
      (¬ phaseChanges s o → ¬ lastBoundary s o → o.stepCounter ≠ 63 → s.engineMicro = some { s with
        engine := at' { o with ahead := .same, stepCounter := o.stepCounter + 1 } .decide }) ∧
      (lastBoundary s o → s.engineMicro = some { s with engine := at' { o with ahead := .last } .decide })) ∧
    (s.engine.pos = .stopWait →
      let taken := { s with mail := { s.mail with engine := none } }
      (s.mail.engine = some .fault →
        s.engineMicro = some { taken with engine := at' { o with faultMark := true } .decide }) ∧
      ∀ bs, s.mail.engine = some (.ok bs) →
        s.engineMicro = some { taken with engine := at' { o with stopMark := decide (half bs 0 ≠ 0) } .decide }) ∧
    (s.engine.pos = .decide → s.engineMicro = some (s.decideBoundary o))) ∧
  ∀ (o : EngineOrder) (r : ResultCode) (s : State),
    (o.faultMark = true ∧ r = .memory ∨
      o.faultMark = false ∧ o.ahead ≠ .last ∧ o.haltMark = true ∧ r = .halted ∨
      o.faultMark = false ∧ o.ahead ≠ .last ∧ o.haltMark = false ∧ o.stopMark = true ∧ r = .stopped) →
    let count := fun p : ItemOutcome → Bool => (o.outcomes.filter fun x => p x.outcome).length
    let t := s.decideBoundary o
    (∀ good, o.kind = .airJoin ∧ good = .kept ∨ o.kind = .airLeave ∧ good = .left →
      t = s.finish o true r (count fun x => decide (x = good)) (count fun x => decide (x ≠ good))) ∧
    (o.kind = .changeover → ∃ u, t = u.finish { o with outcomes := o.outcomes.map fun x =>
        if x.outcome = .placed ∨ x.outcome = .kept then { x with outcome := .withdrawn } else x } true r 0 0 ∧
      u.air = s.air.filter (fun e => decide (e.owner ≠ some o.slot)) ∧
      marksAdded s u (fun x => ∃ e ∈ s.air, e.owner = some o.slot ∧ x = .carrier e.id) ∧
      { u with air := s.air, status := s.status } = s) ∧
    (o.kind = .retune → t = s.finish o true r
      ((o.joiner.map fun j => (j.walk.map Walk.examined).getD 1).getD 0) 0) ∧
    (o.kind = .check → t = s.finish o true r (min 65535 o.found) o.written)

/-- The service of the head request, carrier X. A carrier that is LOCKED or not ON_AIR is answered NO_SPARE at once;
otherwise a search begins. The search tries the spares in list order: one that meets conditions 1 to 3 has its bins
read, and is then taken or passed over; when none is left the answer is NO_SPARE. With spare number i taken: X stands at
the spare's code, unconfirmed, every other entry is as before; the spare is USED by X, X's former spare is BARRED
without a user and the others are as before; a live-class TUNE for the new code is offered to the line of X's rack,
whose queue takes it (a TUNE begun within a wait after an exchange is sent when that wait ends: log 32), or the Watch
Unit holds it as its newest; the request is gone, the answer is given, the engine knows that the Air Set has changed, so
that a code examined before is examined afresh, and the write-back with source SWAP is begun, after whose end the
records of X and of the spares changed are marked. A search whose request has left the list ends without an answer. The
model's own choices: a carrier without an ON_AIR entry is answered NO_SPARE (log 37), the service goes on over ticks
(log 8), a spare's bins are read before the other tests of it (log 9), and a request listed anew counts as still listed
(log 51). -/
def Obligations.SwapServiceMovesCarrierOrAnswersNoSpare : Prop :=
  let gone := fun (x : Nat) (s : State) => s.engine.requests.filter fun y => y != x
  (∀ (x : Nat) (rest : List Nat) (s : State), s.engine.requests = x :: rest →
    ((s.onAirEntry x).all (fun e => e.locked) = true →
      s.serveHead = { s with
        engine := { s.engine with requests := gone x s }
        swapAnswers := s.swapAnswers ++ [⟨x, false⟩] }) ∧
    (∀ e, s.onAirEntry x = some e → e.locked = false →
      s.serveHead = { s with engine := { s.engine with service := some (.search x 0) } })) ∧
  (∀ (x next : Nat) (s : State), (∀ e, s.onAirEntry x = some e → s.nextTry e next = none) →
    (x ∈ s.engine.requests → s.serviceStep x next = { s with
      engine := { s.engine with requests := gone x s, service := none }
      swapAnswers := s.swapAnswers ++ [⟨x, false⟩] }) ∧
    (x ∉ s.engine.requests → s.serviceStep x next = { s with engine := { s.engine with service := none } })) ∧
  (∀ (e : AirEntry) (next i : Nat) (sp : Spare) (s : State), s.nextTry e next = some (sp, i) →
    let meets := fun q : Spare => q.state = .available ∧ q.mask.getLsbD e.stage = true ∧
      test1 e.tuneLow e.tuneHigh e.tuneStep q.code = true
    next ≤ i ∧ s.spares[i]? = some sp ∧ meets sp ∧
    ∀ (j : Nat) (q : Spare), next ≤ j → j < i → s.spares[j]? = some q → ¬ meets q) ∧
  (∀ (e : AirEntry) (next : Nat) (s : State), s.nextTry e next = none ↔
    ∀ (j : Nat) (q : Spare), next ≤ j → s.spares[j]? = some q → ¬ (q.state = .available ∧
      q.mask.getLsbD e.stage = true ∧ test1 e.tuneLow e.tuneHigh e.tuneStep q.code = true)) ∧
  (∀ (x next i : Nat) (e : AirEntry) (sp : Spare) (s : State), s.onAirEntry x = some e →
    s.nextTry e next = some (sp, i) → s.engine.reading = none →
    s.serviceStep x next =
      { s with engine := { s.engine with reading := some ⟨binsAround s.params.gocc sp.code, false⟩ } }) ∧
  (∀ (x next i : Nat) (e : AirEntry) (sp : Spare) (r : BinRead) (s : State), s.airOk → s.onAirEntry x = some e →
    s.nextTry e next = some (sp, i) → s.engine.reading = some r →
    let fits := s.firstFailing ⟨x, sp.code, e.stage, e.power⟩ (othersThan s x) (some sp.code) r.taken = none
    let t := s.serviceStep x next
    (¬ fits → t = { s with engine := { s.engine with reading := none, service := some (.search x (i + 1)) } }) ∧
    (fits → x ∉ s.engine.requests →
      t = { s with engine := { s.engine with reading := none, service := none } }) ∧
    (fits → x ∈ s.engine.requests →
      t.airEntry x = some { e with code := sp.code, confirmed := .unconfirmed } ∧
      (∀ j, j ≠ x → t.airEntry j = s.airEntry j) ∧
      t.spares.length = s.spares.length ∧ t.spares[i]? = some { sp with state := .used, user := some x } ∧
      (∀ (j : Nat) (q : Spare), j ≠ i → s.spares[j]? = some q →
        t.spares[j]? = some (if q.user = some x then { q with state := .barred, user := none } else q)) ∧
      t.swapAnswers = s.swapAnswers ++ [⟨x, true⟩] ∧ marksAdded s t (fun r => r = .carrier x) ∧
      (e.rack = none → t.lines = s.lines ∧ t.watch = s.watch) ∧
      (∀ r, e.rack = some r →
        let tune : Tune := ⟨true, r.addr, r.slot, x, sp.code⟩
        (¬ queueAccepts (s.line r.line) true → t.lines = s.lines ∧
          t.watch = { s.watch with
            heldTunes := (s.watch.heldTunes.filter fun h => h.tune.id != x) ++ [⟨r.line, tune⟩] }) ∧
        (queueAccepts (s.line r.line) true → t.watch = s.watch ∧ (∀ j, j ≠ r.line → t.line j = s.line j) ∧
          t.line r.line = lineTakes (s.line r.line) tune)) ∧
      (∃ changed, t.engine = { s.engine with
          requests := gone x s, wb := some ⟨x, sp.code, true, .ask⟩, service := some (.writing x changed)
          reading := none, airChanged := true } ∧
        (∀ q ∈ changed, ∃ j, q = .spare j) ∧
        ∀ j, .spare j ∈ changed ↔ j = i ∧ i < s.spares.length ∨ (s.spares[j]?.bind Spare.user) = some x) ∧
      { t with
        engine := s.engine, air := s.air, spares := s.spares, swapAnswers := s.swapAnswers, status := s.status
        lines := s.lines, watch := s.watch } = s)) ∧
  ∀ (x : Nat) (changed : List RecId) (a : WriteBackAnswer) (s u : State), s.wbStep = .done a u →
    ∃ t, s.swapMicro x changed = some t ∧ t.engine = { u.engine with service := none } ∧
      marksAdded u t (fun r => r = .carrier x ∨ r ∈ changed) ∧
      { t with engine := u.engine, status := u.status } = u

/-- The rack_confirm of a TUNE outcome (R138): OUT_OF_RANGE is kept distinct. -/
def confirmOf : TuneOutcome → RackConfirm
  | .applied => .applied
  | .refused => .refused
  | .noReply => .noReply
  | .outOfRange => .outOfRange

/-- The outcome of a TUNE at the engine: recorded when the entry is ON_AIR at the TUNE's code, with OUT_OF_RANGE as
REFUSED; kept for the status record then and when there is no entry, with OUT_OF_RANGE kept distinct; dropped otherwise.
The outcome itself is taken off its line in every case. -/
def Obligations.TuneOutcomeIsRecorded : Prop :=
  ∀ (k : Fin 4) (m : OutcomeMsg) (rest : List OutcomeMsg) (s : State), s.airOk → (s.line k).outcomes = m :: rest →
    ∃ t, exec (.tuneOutcomeRecord k) s = .next t ∧ t.lines = (s.onLine k fun l => { l with outcomes := rest }).lines ∧
      (let kept := (∀ id, t.kept id = if id = m.id ∧ recordExists (.carrier id) then
            { s.kept id with rackConfirm := confirmOf m.outcome } else s.kept id) ∧
          marksJoined s t (fun r => r = .carrier m.id) ∧
          { t.status with marks := s.status.marks, kept := s.status.kept } = s.status
       (∀ e, s.airEntry m.id = some e → e.air = .onAir → e.code = m.code →
          t.airEntry m.id = some { e with confirmed :=
            match m.outcome with
            | .applied => .applied
            | .refused => .refused
            | .outOfRange => .refused
            | .noReply => .noReply } ∧
          (∀ j, j ≠ m.id → t.airEntry j = s.airEntry j) ∧ t.air.length = s.air.length ∧ kept) ∧
       (s.airEntry m.id = none → t.air = s.air ∧ kept)) ∧
      (∀ e, s.airEntry m.id = some e → (e.air = .pending ∨ e.code ≠ m.code) → t.air = s.air ∧ t.status = s.status) ∧
      { t with lines := s.lines, air := s.air, status := s.status } = s

/-- A room notice has the TUNEs held for its line offered anew, by the Plan Engine and by the Watch Unit, in the order
that the notice names. The Watch Unit offers its own oldest first, until one finds 8 entries queued: those accepted
leave it, and the others stay held in their order. The engine, in COMMIT_WAIT, offers the plan-class TUNE of its next
carrier: refused, it stays held; accepted, the engine goes on to the carriers after it. An entry accepted by a busy
line joins the others of its class, an idle line begins the TUNE at once, and an off line ends it NO_REPLY. A notice
with nothing held for the line only passes. That a swap request listed already is served first at this wait is the
model's own choice (log 56); that a TUNE begun during a wait after an exchange is sent when that wait ends is log 32. -/
def Obligations.RoomNoticeOffersHeldTune : Prop :=
  (∀ (k : Fin 4) (b : Bool) (s : State), (s.line k).roomNotices ≠ 0 →
    let told := s.onLine k fun l => { l with roomNotices := l.roomNotices - 1 }
    exec (.queueRoomNotice k b) s =
      .next (if b then (told.engineRoom k).watchRoom k else (told.watchRoom k).engineRoom k).serveBus) ∧
  (∀ (k : Fin 4) (s : State), (∀ h ∈ s.watch.heldTunes, h.tune.live = true) →
    (s.watch.heldTunes.map fun h => h.tune.id).Nodup →
    let mine := s.watch.heldTunes.filter fun h => decide (h.line = k)
    let offered := offersTaken (s.line k) (mine.map HeldTune.tune)
    s.watchRoom k = { s.onLine k fun _ => offered.1 with
      watch := { s.watch with
        heldTunes := s.watch.heldTunes.filter fun h => decide (h ∉ mine.take offered.2) } }) ∧
  (∀ (k : Fin 4) (s : State), (∀ left, s.engine.pos ≠ .tuneHeld left) → s.engineRoom k = s) ∧
  ∀ (k : Fin 4) (id : Nat) (rest : List Nat) (o : EngineOrder) (e : AirEntry) (r : Rack) (s : State),
    s.engine.pos = .tuneHeld (id :: rest) → s.engine.order = some o → s.airEntry id = some e → e.rack = some r →
    (r.line ≠ k ∨ s.engine.service.isSome = true → s.engineRoom k = s) ∧
    (r.line = k → s.engine.service = none → s.engine.reading = none →
      let goesOn := runMicro State.engineMicro (Config.microSteps - 1)
      (s.engine.requests = [] → ¬ queueAccepts (s.line k) false → s.engineRoom k = s) ∧
      (s.engine.requests = [] → queueAccepts (s.line k) false → s.engineRoom k = goesOn
        { s.onLine k fun l => lineTakes l ⟨false, r.addr, r.slot, id, e.code⟩ with
          engine := { s.engine with pos := .tune rest false } }) ∧
      (s.engine.requests ≠ [] → s.engineRoom k = goesOn
        (State.serveHead { s with engine := { s.engine with pos := .tune (id :: rest) true } }))) ∧
    ∀ u : State, u.engine.service = none → u.engine.reading = none → u.engine.order = some o →
      u.engine.pos = .tune rest false → u.engineMicro = some (u.tuneNext o rest)

/-- A walk begins at its first point with no direction exhausted and nothing examined; its range ends at 8959, and its
lattice stands on tune_low. It examines, in the order of its points, only points inside the range, on the lattice,
other than the one it skips, of a direction that is not exhausted; every point before them is passed over for one of
these reasons. The points stand at p, p + s, p − s, p + 2s, p − 2s, … A direction is exhausted exactly when a point of
it has been met outside the range, and the walk has no further point exactly when both are. That p belongs to neither
direction is the model's own choice (log 12), as is that the excluded point exhausts its direction when it lies
outside (log 52). -/
def Obligations.WalkGivesNextLatticePoint : Prop :=
  (∀ (p : Int) (low high step limit : Nat) (skip : Option Int), startWalk p low high step skip limit =
    { start := p, step := step, low := low, high := (min high 8959 : Nat), lattice := low, skip := skip, index := 0
      upDone := false, downDone := false, examined := 0, limit := limit }) ∧
  (∀ (w : Walk) (d : Nat), w.point 0 = w.start ∧ w.point (2 * d + 1) = w.start + (d + 1) * w.step ∧
    w.point (2 * d + 2) = w.start - (d + 1) * w.step) ∧
  ∀ (w w' : Walk) (r : Option Nat), w.next = (r, w') →
    let outside := fun i : Nat => w.point i < w.low ∨ w.high < w.point i
    let upOver := fun j : Nat => w.upDone = true ∨ ∃ i, w.index ≤ i ∧ i < j ∧ i % 2 = 1 ∧ outside i
    let downOver := fun j : Nat => w.downDone = true ∨ ∃ i, w.index ≤ i ∧ i < j ∧ i % 2 = 0 ∧ i ≠ 0 ∧ outside i
    let dirOver := fun j : Nat => j % 2 = 1 ∧ upOver j ∨ j % 2 = 0 ∧ j ≠ 0 ∧ downOver j
    let passed := fun j : Nat => outside j ∨ w.skip = some (w.point j) ∨
      (w.point j - w.lattice) % (w.step : Int) ≠ 0 ∨ dirOver j
    { w' with index := w.index, upDone := w.upDone, downDone := w.downDone } = w ∧ w.index ≤ w'.index ∧
    (w'.upDone = true ↔ upOver w'.index) ∧ (w'.downDone = true ↔ downOver w'.index) ∧
    (1 ≤ w.step → 0 ≤ w.low → w.high ≤ 8959 → (r = none ↔ w'.upDone = true ∧ w'.downDone = true)) ∧
    (r = none → ∀ j, w.index ≤ j → j < w'.index → passed j) ∧
    ∀ x, r = some x → 0 ≤ w.low →
      ∃ k, w.index ≤ k ∧ w'.index = k + 1 ∧ (x : Int) = w.point k ∧ ¬ passed k ∧
        ∀ j, w.index ≤ j → j < k → passed j

/-- Test 1: a code on the grid, within the range, and a whole number of steps above tune_low; a step of 0 is read
as 1. -/
def Obligations.TestOneIsGridRangeAndStep : Prop :=
  (∀ low high step x : Nat, test1 low high step x = true ↔
    x ≤ 8959 ∧ low ≤ x ∧ x ≤ high ∧ ∃ n, x = low + n * step) ∧
  (∀ low high x : Nat, test1 low high 1 x = true ↔ x ≤ 8959 ∧ low ≤ x ∧ x ≤ high) ∧
  (∀ low high step x : Nat, high < low → test1 low high step x = false) ∧
  ∀ bs : List Byte, byteAt bs 8 = 0 → (carrierInfo bs).tuneStep = 1

/-! ### Compatibility arithmetic -/

/-- The signal level of a carrier at a stage (R5). -/
def signal (s : State) (c : Tx) (stage : Nat) : Int := c.power - s.isolation c.stage stage

/-- y is within g of x (R2). -/
def near (g : Nat) (y x : Int) : Prop := x - g ≤ y ∧ y ≤ x + g

/-- A T3 product of a, doubled, and b hits v (R9). -/
def t3Conflict (s : State) (v a b : Tx) : Prop :=
  near s.params.g3 (2 * a.code - b.code) v.code ∧
    s.params.t3 + v.power ≤ 2 * signal s a v.stage + signal s b v.stage

/-- A T3X product of a and b, with c subtracted, hits v (R10). -/
def t3xConflict (s : State) (v a b c : Tx) : Prop :=
  s.params.threeTone = true ∧ near s.params.g3 (a.code + b.code - c.code) v.code ∧
    s.params.t3 + v.power ≤ signal s a v.stage + signal s b v.stage + signal s c v.stage + 6

/-- A T5 product of a, tripled, and b hits v (R11). -/
def t5Conflict (s : State) (v a b : Tx) : Prop :=
  s.params.fifthOrder = true ∧ near s.params.g5 (3 * a.code - 2 * b.code) v.code ∧
    s.params.t5 + v.power ≤ 3 * signal s a v.stage + 2 * signal s b v.stage

/-- A conflict is taken before another of the same victim (R95): by their kinds, and within one kind by the positions in
the Air Set of c1, then c2, then c3. -/
def takenBefore (s : State) (c d : Conflict) : Prop :=
  let place := fun id : Nat => s.air.findIdx fun e => e.id == id
  kindRank c.kind < kindRank d.kind ∨ c.kind = d.kind ∧
    (place c.c1 < place d.c1 ∨ c.c1 = d.c1 ∧
      (place c.c2 < place d.c2 ∨ c.c2 = d.c2 ∧ place c.c3 < place d.c3))

/-- The conflicts of an Air Set entry are exactly those of the five kinds, each once, in the order of the kinds and,
within one kind, of their constituents' places in the Air Set: its constituents are the other entries, distinct within
a product; of a T3X pair the earlier in Air Set order is named first; an OCCUPIED conflict stands when the reading of
its bins has found one taken. -/
def Obligations.ConflictsAreTheFiveKinds : Prop :=
  ∀ (e : AirEntry) (taken : Bool) (s : State), s.airOk → e ∈ s.air →
    let v := txOf e
    let others := othersThan s e.id
    let record := fun (kind : ConflictKind) (c1 c2 c3 : Nat) (product weight : Int) =>
      (⟨kind, e.id, e.stage, c1, c2, c3, product, weight⟩ : Conflict)
    (s.entryConflicts e taken).Nodup ∧ (s.entryConflicts e taken).Pairwise (takenBefore s) ∧
    ∀ c : Conflict, c ∈ s.entryConflicts e taken ↔
      (∃ u ∈ others, near s.params.gcc u.code v.code ∧ s.isolation u.stage v.stage < s.params.reuse ∧
        c = record .spacing u.id 65535 65535 u.code 0) ∨
      (∃ a ∈ others, ∃ b ∈ others, a.id ≠ b.id ∧ t3Conflict s v a b ∧
        c = record .t3 a.id b.id 65535 (2 * a.code - b.code) (2 * signal s a v.stage + signal s b v.stage)) ∨
      (∃ a ∈ others, ∃ b ∈ others, ∃ d ∈ others, a.id ≠ b.id ∧ d.id ≠ a.id ∧ d.id ≠ b.id ∧
        (a.code < b.code ∨ a.code = b.code ∧ a.id < b.id) ∧ t3xConflict s v a b d ∧
        c = record .t3x a.id b.id d.id (a.code + b.code - d.code)
          (signal s a v.stage + signal s b v.stage + signal s d v.stage + 6)) ∨
      (∃ a ∈ others, ∃ b ∈ others, a.id ≠ b.id ∧ t5Conflict s v a b ∧
        c = record .t5 a.id b.id 65535 (3 * a.code - 2 * b.code)
          (3 * signal s a v.stage + 2 * signal s b v.stage)) ∨
      taken = true ∧ c = record .occupied 65535 65535 65535 v.code 0

/-- Some product with constituents from a list, such that `ok` holds of their IDs, hits v. -/
def productHit (s : State) (v : Tx) (l : List Tx) (ok : List Nat → Prop) : Prop :=
  (∃ a ∈ l, ∃ b ∈ l, a.id ≠ b.id ∧ ok [a.id, b.id] ∧ (t3Conflict s v a b ∨ t5Conflict s v a b)) ∨
    ∃ a ∈ l, ∃ b ∈ l, ∃ c ∈ l, a.id ≠ b.id ∧ a.id ≠ c.id ∧ b.id ≠ c.id ∧ ok [a.id, b.id, c.id] ∧
      t3xConflict s v a b c

/-- Tests 2 to 6 for carrier j against the set E, in their order: the first that fails decides. Test 3 exempts the spare
that a live swap is taking. -/
def Obligations.TestsTwoToSixDecideInOrder : Prop :=
  ∀ (j : Tx) (l : List Tx) (exempt : Option Nat) (taken : Bool) (s : State), (l.map Tx.id).Nodup →
    j.id ∉ l.map Tx.id →
    let three := ∀ sp ∈ s.spares, sp.state = .available → exempt ≠ some sp.code →
      ¬ near s.params.gcc j.code sp.code
    let four := ∀ u ∈ l, near s.params.gcc u.code j.code →
      s.params.reuse ≤ s.isolation u.stage j.stage ∧ s.params.reuse ≤ s.isolation j.stage u.stage
    let five := ¬ productHit s j l fun _ => True
    let six := ∀ v ∈ l, ¬ productHit s v (j :: l.filter fun u => decide (u.id ≠ v.id)) fun ids => j.id ∈ ids
    let first := s.firstFailing j l exempt taken
    (first = some 2 ↔ taken = true) ∧ (first = some 3 ↔ taken = false ∧ ¬ three) ∧
    (first = some 4 ↔ taken = false ∧ three ∧ ¬ four) ∧ (first = some 5 ↔ taken = false ∧ three ∧ four ∧ ¬ five) ∧
    (first = some 6 ↔ taken = false ∧ three ∧ four ∧ five ∧ ¬ six) ∧
    (first = none ↔ taken = false ∧ three ∧ four ∧ five ∧ six)

/-! ### Carrier Cache -/

/-- A way holds carrier `id`. -/
def holdsCarrier (id : Nat) (w : CacheWay) : Prop := w.tag = id % 256 / 16

/-- A directory entry names carrier `id`. -/
def dirNames (dir : List Byte) (id : Nat) : Prop := byteAt dir 0 ≠ 0 ∧ id % 256 < min (byteAt dir 1) 96

/-- A carrier record as the part reads it (R47), its fields at the offsets of R194: a tune_step of 0 is read as 1 and one
above 64 as 64; a rack line above 3, or an address outside 1..30, names no rack. -/
def recordRead (bs : List Byte) : CarrierInfo :=
  let bit := fun n => (byteAt bs 0).testBit n
  { kind := if bit 0 then .iem else .mic
    powerClass := byteAt bs 0 / 2 % 4, locked := bit 3, autoSwap := bit 4, watched := bit 5
    tuneLow := half bs 4, tuneHigh := half bs 6
    tuneStep := if byteAt bs 8 = 0 then 1 else min 64 (byteAt bs 8)
    preferred := half bs 10
    rack := if byteAt bs 2 ≤ 3 ∧ 1 ≤ byteAt bs 3 ∧ byteAt bs 3 ≤ 30 then
      some ⟨Fin.ofNat 4 (byteAt bs 2), byteAt bs 3, byteAt bs 1 % 32⟩ else none
    assigned := half bs 24, source := byteAt bs 26 }

/-- A lookup, piece by piece: bounds, hit, and the miss walk with its directory read, its record read and its one
re-read. A fault ends it MEMORY. A record is taken in as R47 reads it, and only a record that passes its check is
filled, outside cache_off: into way A if that is invalid, else into way B if that is, else into the way that the
alternation bit names, which then flips. -/
def Obligations.LookupAnswersAndFills : Prop :=
  ∀ (id : Nat) (s : State), s.cacheOk →
    let set := id / 256 * 16 + id % 256 % 16
    let inside := id / 256 < 12 ∧ id / 256 < s.latch.stages ∧ id % 256 < 96
    let taken := { s with mail := { s.mail with cache := none } }
    let put := fun (u : State) (l : Option LookupStage) => { u with engine := { u.engine with lookup := l } }
    let reads := fun (u : State) (a n : Nat) (l : LookupStage) =>
      (Progress.more (put (u.present .cache false a n []) (some l)) : Progress LookupAnswer)
    let found := fun bs : List Byte => (Progress.done (.found (recordRead bs))
      (put (if s.params.cacheOff then taken else taken.fillWay id (recordRead bs)) none))
    (s.engine.lookup = some .ask →
      (¬ inside → s.lookupStep id = .done .unknown (put s none)) ∧
      (∀ b w, inside → s.params.cacheOff = false → s.way set b = some w → holdsCarrier id w →
        s.lookupStep id = .done (.found w.info) (put s none)) ∧
      (inside → (s.params.cacheOff = true ∨ ∀ b w, s.way set b = some w → ¬ holdsCarrier id w) →
        s.lookupStep id = reads s (s.latch.dirAddr + 8 * (id / 256)) 8 .dirWait)) ∧
    (∀ dir, s.engine.lookup = some .dirWait → s.mail.cache = some (.ok dir) →
      (¬ dirNames dir id → s.lookupStep id = .done .unknown (put taken none)) ∧
      (dirNames dir id → let a := word dir 4 / 4 * 4 + id % 256 * 32
        s.lookupStep id = reads taken a 32 (.recordWait a))) ∧
    (∀ a bs, s.engine.lookup = some (.recordWait a) → s.mail.cache = some (.ok bs) →
      s.lookupStep id = if byteSum (bs.take 24) % 256 = 0 then found bs else reads taken a 32 (.rereadWait a)) ∧
    (∀ a bs, s.engine.lookup = some (.rereadWait a) → s.mail.cache = some (.ok bs) →
      s.lookupStep id =
        if byteSum (bs.take 24) % 256 = 0 then found bs else .done .damaged (put taken none)) ∧
    (∀ l, s.engine.lookup = some l → l ≠ .ask → s.mail.cache = some .fault →
      s.lookupStep id = .done .memory (put taken none)) ∧
    ((∀ b w, s.way set b = some w → ¬ holdsCarrier id w) → ∀ i : CarrierInfo,
      let full := (s.way set false).isSome = true ∧ (s.way set true).isSome = true
      let bit := fun (u : State) (n : Nat) => sparseGet false u.alt n
      let b := if full then bit s set else (s.way set false).isSome
      (∀ n c, (s.fillWay id i).way n c = if n = set ∧ c = b then some ⟨id % 256 / 16, i⟩ else s.way n c) ∧
      (∀ n, bit (s.fillWay id i) n = if n = set ∧ full then !bit s n else bit s n) ∧
      { s.fillWay id i with cache := s.cache, alt := s.alt } = s)

/-- A write-back, piece by piece: the directory is read afresh, and the part area written whole, with source ENGINE or
SWAP. WRITTEN gives a way that holds the carrier the values written; FAULT and SKIPPED make it invalid; no way is
filled, and no alternation bit moves. -/
def Obligations.WriteBackKeepsCacheAndRecordAgreed : Prop :=
  ∀ (w : WriteBack) (s : State), s.cacheOk → s.engine.wb = some w →
    let set := w.id / 256 * 16 + w.id % 256 % 16
    let source := if w.swap then 3 else 2
    let taken := { s with mail := { s.mail with cache := none } }
    let put := fun (u : State) (x : WriteBackStage) =>
      (Progress.more { u with engine := { u.engine with wb := some { w with stage := x } } } : Progress WriteBackAnswer)
    let ends := fun (u : State) (a : WriteBackAnswer) (f : CacheWay → Option CacheWay) =>
      ∃ t, s.wbStep = .done a t ∧
        (∀ n b, (n ≠ set → t.way n b = s.way n b) ∧
          ∀ x, (s.way set b = some x → holdsCarrier w.id x → t.way set b = f x) ∧
            (s.way set b = some x → ¬ holdsCarrier w.id x → t.way set b = some x) ∧
            (s.way set b = none → t.way set b = none)) ∧
        { t with cache := u.cache } = { u with engine := { u.engine with wb := none } }
    (w.stage = .ask → w.id / 256 ≥ s.latch.stages → ends s .skipped fun _ => none) ∧
    (w.stage = .ask → w.id / 256 < s.latch.stages →
      s.wbStep = put (s.present .cache false (s.latch.dirAddr + 8 * (w.id / 256)) 8 []) .dirWait) ∧
    (∀ dir, w.stage = .dirWait → s.mail.cache = some (.ok dir) →
      (¬ dirNames dir w.id → ends taken .skipped fun _ => none) ∧
      (dirNames dir w.id →
        s.wbStep = put (taken.present .cache true (word dir 4 / 4 * 4 + w.id % 256 * 32 + 24) 8
          [BitVec.ofNat 8 w.code, BitVec.ofNat 8 (w.code / 256), BitVec.ofNat 8 source, 0, 0, 0, 0, 0]) .writeWait)) ∧
    (w.stage ≠ .ask → s.mail.cache = some .fault → ends taken .fault fun _ => none) ∧
    ∀ d, w.stage = .writeWait → s.mail.cache = some (.ok d) →
      ends taken .written fun x => some { x with info := { x.info with assigned := w.code, source := source } }

/-- MARK_BAND is carried bin by bin, upward from its first bin: with k bins reached, exactly those hold the values
that its operation gives, and every other bin its own. When the last is reached the order ends DONE OK with the bins
of the band and the bins whose state changed, or NOTHING_DONE for a band with no bin. That a tick of the model reaches
one bin is log 5. A bin is EXCLUDED when its flag is set; otherwise it is MARKED from counter 4 on, and CLEAR below. -/
def Obligations.MarkBandChangesBandAlone : Prop :=
  (∀ v : Bin, (v.state = .excluded ↔ v.excluded = true) ∧
    (v.state = .marked ↔ v.excluded = false ∧ 4 ≤ v.counter) ∧
    (v.state = .clear ↔ v.excluded = false ∧ v.counter ≤ 3)) ∧
  ∀ (slot first last : Nat) (b : OrderBody) (s : State), b.p0 % 65536 = first → b.p1 % 65536 = last →
    b.p2 ≤ 2 →
    let lo := min first last
    let hi := min (max first last) 8959
    let band := (List.range 8960).filter fun x => decide (lo ≤ x ∧ x ≤ hi)
    let given := fun x : Nat =>
      if b.p2 = 0 then { s.bin x with excluded := true }
      else if b.p2 = 1 then { s.bin x with excluded := false } else { s.bin x with counter := 0 }
    let reached := fun k : Nat => Nat.iterate State.bandStep k (s.beginBand slot b)
    (∀ k, k ≤ band.length →
      (∀ x, (reached k).bin x = if x ∈ band.take k then given x else s.bin x) ∧
      { reached k with bins := s.bins, band := s.band } = s ∧
      ((reached k).bandRuns = true ↔ k < band.length)) ∧
    (reached band.length).band.map Band.completion = some
      (if band = [] then ⟨slot, false, .nothingDone, 0, 0⟩
      else ⟨slot, false, .ok, band.length, (band.filter fun x => decide ((s.bin x).state ≠ (given x).state)).length⟩) ∧
    ∀ (k : Nat) (sound : List Candidate), k < band.length → s.pending = [] → s.engine.reading = none →
      s.board.pos = .bandWait sound → s.mail.board = none →
      (k + 1 < band.length → step (reached k) = .next (reached (k + 1)).serveBus) ∧
      (k + 1 = band.length → s.allowed true (s.latch.boardAddr + 64 * slot + 44) 6 = true →
        ∃ t n, step (reached k) = .next t ∧ t.bins = (reached (k + 1)).bins ∧ t.band = none ∧
          t.board = { s.board with pos := .immResultWait ⟨slot, false, .ok, band.length, n⟩ sound })

/-! ### Sweep Unit -/

/-- A sound SWEEP begins its first point, with its threshold in force, every counter 0 and the halt mark clear; one that
fails a check of R110 ends BAD_ORDER and changes neither the threshold nor the tuner line. -/
def Obligations.SweepTakeChecksFields : Prop :=
  ∀ (slot : Nat) (b : OrderBody) (s : State),
    let first := b.p0 % 65536
    let last := b.p0 / 65536 % 65536
    let step := if b.p1 % 256 = 0 then 1 else min (b.p1 % 256) 64
    let points := (last - first) / step + 1
    let ok := first ≤ 8959 ∧ last ≤ 8959 ∧ first ≤ last ∧ points ≤ b.capacity
    (ok → s.sweepTake slot b = { s with
      occThreshold := min 200 (b.p3 % 256)
      sweep :=
        { pos := .tuning
          order := some
            { slot := slot, slotAddr := s.latch.boardAddr + 64 * slot, first := first, last := last, step := step
              dwell := max 1 (b.p1 / 256 % 256), passes := b.p1 / 65536 % 256, lockLimit := max 1 (b.p2 % 256)
              threshold := min 200 (b.p3 % 256), buffer := b.result, capacity := b.capacity }
          count := ⟨points, 0, 0, 0, 0, false, 0, false, false⟩
          line := ⟨false, s.sweep.line.data, false⟩ } }) ∧
    (¬ ok → s.sweepTake slot b = { s with
      sweep := { s.sweep with pos := .idle, order := none }
      board := { s.board with completions := s.board.completions ++ [⟨slot, true, .badOrder, 0, 0⟩] } })

/-- One point, from its word to its byte. The word first + index × step goes out on DATA, the most significant bit
first, each held over a period of CLK, low and then high; LATCH is high for one period with CLK low; the tuner has the
word when LATCH falls. Lock leads to the dwell, and LOCK high at its end to the conversion. The point stores 255 when
lock does not come or is lost in the dwell, otherwise the reading div 4, at most 200: one byte at result_address +
index. That DATA keeps the word's last bit is the model's own choice (log 28), as is a tuner that is present (log 53). -/
def Obligations.SweepPointFollowsItsStates : Prop :=
  (∀ w : BitVec 16, (tunerWave w).length = 35 ∧
    (∀ i < 16, (tunerWave w)[2 * i]? = some ⟨false, w.getLsbD (15 - i), false⟩ ∧
      (tunerWave w)[2 * i + 1]? = some ⟨true, w.getLsbD (15 - i), false⟩) ∧
    (∀ i, (i = 32 ∨ i = 33) → (tunerWave w)[i]? = some ⟨false, w.getLsbD 0, true⟩) ∧
    (tunerWave w)[34]? = some ⟨false, w.getLsbD 0, false⟩) ∧
  ∀ (o : SweepOrder) (s : State), s.sweep.order = some o →
    let code := o.first + s.sweep.count.index * o.step
    (s.sweep.pos = .tuning → exec .tuningWordSent s =
      .next { s with
        sweep := ⟨.lockWait, some o, s.sweep.count, ⟨false, decide (code % 2 = 1), false⟩⟩
        tuner := some (BitVec.ofNat 16 code) }) ∧
    (s.sweep.pos = .lockWait → exec .lockComes s = .next { s with sweep := { s.sweep with pos := .dwell } }) ∧
    (s.sweep.pos = .dwell → exec (.dwellEnd true) s =
      .next (State.serveBus { s with sweep := { s.sweep with pos := .converting } })) ∧
    (s.allowed true (o.buffer + s.sweep.count.index) 1 = true →
      let stored := fun (level : Nat) (failed : Bool) =>
        State.serveBus { s with
          sweep := { s.sweep with
            count := { s.sweep.count with level := level, lockFailed := failed }
            pos := .bufferWait }
          port := { s.port with
            transfers := s.port.transfers ++
              [⟨.sweep, true, o.buffer + s.sweep.count.index, 1, [BitVec.ofNat 8 level]⟩] } }
      (s.sweep.pos = .lockWait → exec .lockLimitExpiry s = .next (stored 255 true)) ∧
      (s.sweep.pos = .dwell → exec (.dwellEnd false) s = .next (stored 255 true)) ∧
      (s.sweep.pos = .converting → ∀ r : BitVec 10,
        exec (.conversionComplete r) s = .next (stored (if 800 ≤ r.toNat then 200 else r.toNat / 4) false)))

/-- The counters after a point whose byte has been stored. -/
def pointCounted (c : SweepCount) : SweepCount :=
  { c with
    failRun := if c.lockFailed then c.failRun + 1 else 0
    failTotal := if c.lockFailed then min 65535 (c.failTotal + 1) else c.failTotal }

/-- The bin of a point's code after its measurement (R99, R100). -/
def measuredBin (s : State) (code level : Nat) : Bin :=
  let v := s.bin code
  if level = 255 ∨ ∃ e ∈ s.air, code ≤ e.code + 1 ∧ e.code ≤ code + 1 then v
  else if s.occThreshold ≤ level then { v with counter := min 7 (v.counter + 2) }
  else { v with counter := v.counter - 1 }

/-- A stored point: the map counts an unmasked measurement up by 2 or down by 1 within 0..7 and moves no other bin;
the lock failures are counted; the eighth in a row ends the order TUNER_FAULT, a halt ends it HALTED, and otherwise
the stop word is read. This statement covers the points that do not end a pass; PassEndAndStopWordDecide the others. -/
def Obligations.StoredPointFeedsTheMap : Prop :=
  ∀ (o : SweepOrder) (d : List Byte) (s : State), s.sweep.order = some o → s.sweep.pos = .bufferWait →
    s.mail.sweep = some (.ok d) → s.sweep.count.index + 1 < s.sweep.count.points →
    let c := s.sweep.count
    let code := o.first + c.index * o.step
    ∃ t, exec .bufferWriteDone s = .next t ∧
      (∀ b, b ≠ code → t.bin b = s.bin b) ∧
      t.bin code = measuredBin s code c.level ∧
      (c.lockFailed = true → 7 ≤ c.failRun → t.sweep.order = none ∧ t.sweep.pos = .idle ∧
        t.board.completions = s.board.completions ++
          [⟨o.slot, true, .tunerFault, c.passCount, min 65535 (c.failTotal + 1)⟩]) ∧
      (c.haltMark = true → (c.lockFailed = false ∨ c.failRun < 7) → t.sweep.order = none ∧ t.sweep.pos = .idle ∧
        t.board.completions = s.board.completions ++
          [⟨o.slot, true, .halted, c.passCount, (pointCounted c).failTotal⟩]) ∧
      (c.haltMark = false → (c.lockFailed = false ∨ c.failRun < 7) → s.allowed false (o.slotAddr + 2) 2 = true →
        t.sweep = { s.sweep with
          pos := .stopWait
          count := { pointCounted c with index := c.index + 1, passEnded := false } } ∧
        t.board = s.board ∧
        t.port.transfers = s.port.transfers ++ [⟨.sweep, false, o.slotAddr + 2, 2, []⟩]) ∧
      { t with
        bins := s.bins, sweep := s.sweep, board := s.board, port := s.port, mail := s.mail, fault := s.fault
        causes := s.causes } = s

/-- The end of a pass: the map takes the last point's measurement as any other's, the point is counted, the pass
counter rises and is written to the progress field. When that write has succeeded the point index is 0 for the next
pass, the eighth lock failure in a row ends the order TUNER_FAULT, the halt mark ends it HALTED, and otherwise the
stop word is read. A fault on the point's byte or on the progress field ends the order MEMORY; that it leaves the
index is the model's own choice (log 60). The stop word of a point: a fault ends the order MEMORY, a nonzero word
STOPPED; the last pass ends it DONE OK; otherwise the next point begins. -/
def Obligations.PassEndAndStopWordDecide : Prop :=
  (let ends := fun (o : SweepOrder) (r : ResultCode) (s : State) => State.serveBus { s with
     mail := { s.mail with sweep := none }
     sweep := { s.sweep with pos := .idle, order := none }
     board := { s.board with
       completions := s.board.completions ++ [⟨o.slot, true, r, s.sweep.count.passCount, s.sweep.count.failTotal⟩] } }
   (∀ (o : SweepOrder) (d : List Byte) (s : State), s.sweep.order = some o → s.sweep.pos = .bufferWait →
     s.mail.sweep = some (.ok d) → s.sweep.count.points ≤ s.sweep.count.index + 1 →
     s.allowed true (o.slotAddr + 50) 2 = true →
     let n := min 65535 (s.sweep.count.passCount + 1)
     let code := o.first + s.sweep.count.index * o.step
     ∃ t, exec .bufferWriteDone s = .next t ∧
       (∀ b, b ≠ code → t.bin b = s.bin b) ∧ t.bin code = measuredBin s code s.sweep.count.level ∧
       t.sweep = { s.sweep with
         pos := .progressWait
         count := { pointCounted s.sweep.count with passCount := n, passEnded := true } } ∧
       t.port.transfers = s.port.transfers ++
         [⟨.sweep, true, o.slotAddr + 50, 2, [BitVec.ofNat 8 n, BitVec.ofNat 8 (n / 256)]⟩] ∧
       { t with bins := s.bins, sweep := s.sweep, port := s.port, mail := s.mail } = s) ∧
   (∀ (o : SweepOrder) (d : List Byte) (s : State), s.sweep.order = some o → s.sweep.pos = .progressWait →
     s.mail.sweep = some (.ok d) →
     let first := { s.sweep.count with index := 0 }
     let u := { s with sweep := { s.sweep with count := first } }
     (8 ≤ s.sweep.count.failRun → exec .progressWriteDone s = .next (ends o .tunerFault u)) ∧
     (s.sweep.count.failRun < 8 → s.sweep.count.haltMark = true → exec .progressWriteDone s = .next (ends o .halted u)) ∧
     (s.sweep.count.failRun < 8 → s.sweep.count.haltMark = false → s.allowed false (o.slotAddr + 2) 2 = true →
       exec .progressWriteDone s =
         .next (State.serveBus { s with
           mail := { s.mail with sweep := none }
           sweep := { s.sweep with pos := .stopWait, count := first }
           port := { s.port with transfers := s.port.transfers ++ [⟨.sweep, false, o.slotAddr + 2, 2, []⟩] } }))) ∧
   ∀ (o : SweepOrder) (s : State), s.sweep.order = some o → s.mail.sweep = some .fault →
     (s.sweep.pos = .bufferWait → exec .bufferWriteDone s = .next (ends o .memory s)) ∧
     (s.sweep.pos = .progressWait → exec .progressWriteDone s = .next (ends o .memory s))) ∧
  ∀ (o : SweepOrder) (a : Answer) (s : State), s.sweep.order = some o → s.sweep.pos = .stopWait →
    s.mail.sweep = some a →
    let c := s.sweep.count
    let ends := fun (failed : Bool) (r : ResultCode) => State.serveBus { s with
      mail := { s.mail with sweep := none }
      sweep := { s.sweep with pos := .idle, order := none }
      board := { s.board with
        completions := s.board.completions ++ [⟨o.slot, failed, r, c.passCount, c.failTotal⟩] } }
    (a = .fault → exec .sweepStopWordReadDone s = .next (ends true .memory)) ∧
    (∀ bs, a = .ok bs → half bs 0 ≠ 0 → exec .sweepStopWordReadDone s = .next (ends true .stopped)) ∧
    (∀ bs, a = .ok bs → half bs 0 = 0 → c.passEnded = true → o.passes ≠ 0 → c.passCount = o.passes →
      exec .sweepStopWordReadDone s = .next (ends false .ok)) ∧
    (∀ bs, a = .ok bs → half bs 0 = 0 → (c.passEnded = false ∨ o.passes = 0 ∨ c.passCount ≠ o.passes) →
      exec .sweepStopWordReadDone s =
        .next (State.serveBus { s with
          mail := { s.mail with sweep := none }
          sweep := { s.sweep with pos := .tuning, line := { s.sweep.line with clk := false, latch := false } } }))

/-! ### Rack Lines -/

/-- A frame on a line: DIR is high and TXD carries one bit time of 1, then each byte as a start bit 0, its bits from
the least significant, the mark bit, 1 in the first character alone, and a stop bit 1. DIR falls at the end of the
request and the reply is awaited; at the end of the wait after an exchange the next frame of a transaction in hand
begins, and DIR rises. A line that sends nothing holds TXD at 1. The poll timer of a line that is on sets the poll-due
mark; an idle line with an empty queue polls the rack that the rotation index names, from its slot cursor. The timer
of an off line does not act. -/
def Obligations.LinesPollAndSendFrames : Prop :=
  (∀ (k : Fin 4) (s : State),
     (∀ f, (s.line k).phase = .sending f →
       (s.line k).dir = true ∧ dirTime f = 1 + 11 * f.length ∧ (s.line k).txd 0 = true ∧
       (∀ i b, f[i]? = some b → ∀ j < 11, (s.line k).txd (1 + 11 * i + j) =
         if j = 0 then false else if j ≤ 8 then b.getLsbD (j - 1) else if j = 9 then decide (i = 0) else true) ∧
       exec (.requestFrameSent k) s = .next (s.onLine k fun l => { l with phase := .awaiting ⟨[], false, false, none⟩ })) ∧
     ((∀ f, (s.line k).phase ≠ .sending f) → (s.line k).dir = false ∧ ∀ n, (s.line k).txd n = true) ∧
     (∀ c : Instr, c = .failedExchangeWaitEnd k ∧ (s.line k).phase = .failedWait ∨
         c = .goodExchangeWaitEnd k ∧ (s.line k).phase = .goodWait →
       (∀ x, (s.line k).txn = some x → exec c s = .next (s.onLine k fun l => { l with phase := .sending (requestOf x) })) ∧
       ((s.line k).txn = none → exec c s = .next (s.onLine k fun l => { l with phase := .quiet })))) ∧
  ∀ (k : Fin 4) (s : State),
    ((s.line k).values.divisor = 0 → exec (.pollTimer k) s = .next s) ∧
    ((s.line k).values.divisor ≠ 0 → (s.line k).txn.isSome = true →
      exec (.pollTimer k) s = .next (s.onLine k fun l => { l with pollDue := true })) ∧
    (∀ r : RosterEntry, (s.line k).values.divisor ≠ 0 → (s.line k).txn = none → (s.line k).live = [] →
      (s.line k).plan = [] → (s.line k).roster[(s.line k).rotation]? = some r → (s.line k).phase = .quiet →
      exec (.pollTimer k) s = .next (s.onLine k fun l =>
        { l with
          pollDue := false
          txn := some (.poll r.addr r.cursor false)
          phase := .sending [BitVec.ofNat 8 r.addr, 2, 1, BitVec.ofNat 8 r.cursor,
            BitVec.ofNat 8 (256 - ((BitVec.ofNat 8 r.addr).toNat + 3 + (BitVec.ofNat 8 r.cursor).toNat) % 256)] }))

/-- A character on a line. Each of its eleven bits is the majority of three samples; a start bit of 1 is a glitch; the
eight data bits come from the least significant, then the mark bit and the stop bit; samples that disagree in any bit
make it noisy, and a stop bit of 0 makes it framed. With DIR high, the line off or a start bit that is a glitch, nothing
happens; while no reply is awaited it is discarded and counted; the first one with mark bit 1 begins the awaited frame,
and one with mark bit 0 before it is unsolicited. Inside a frame one with mark bit 0 joins it, and the frame ends
complete with as many bytes as its length byte tells, or at a length byte outside 1..36; one with mark bit 1 breaks the
frame and is counted as unsolicited. A count that rises marks the line's record. Both rows of the table act by the
line's state: the model's own choice (log 27). -/
def Obligations.CharactersFillTheAwaitedFrame : Prop :=
  (∀ x : BitVec 33,
    let ones := fun i : Nat => ((List.range 3).filter fun j => x.getLsbD (3 * i + j)).length
    let bit := fun i : Nat => decide (2 ≤ ones i)
    (bit 0 = true → readChar x = none) ∧
    (bit 0 = false → ∃ r, readChar x = some r ∧ (∀ i < 8, r.byte.getLsbD i = bit (1 + i)) ∧ r.mark = bit 9 ∧
      (r.noisy = true ↔ ∃ i < 11, ones i ≠ 0 ∧ ones i ≠ 3) ∧ (r.framed = true ↔ bit 10 = false))) ∧
  ∀ (k : Fin 4) (x : BitVec 33) (c : Instr) (s : State),
    (c = .characterReceived k x ∨ c = .unsolicitedCharacter k x) →
    let counted := if (s.line k).unsolicited < 65535 then (s.line k).unsolicited + 1 else (s.line k).unsolicited
    let marked := fun s t : State => marksAdded s t fun q => q = .line k ∧ (s.line k).unsolicited < 65535
    ((s.line k).dir = true ∨ (s.line k).values.divisor = 0 ∨ readChar x = none → exec c s = .next s) ∧
    (∀ r : RxChar, (s.line k).dir = false → (s.line k).values.divisor ≠ 0 → readChar x = some r →
      (∀ a, (s.line k).phase = .awaiting a → a.ended = none → a.bytes = [] → r.mark = true →
        exec c s = .next (s.onLine k fun l =>
          { l with phase := .awaiting ⟨[r.byte], a.noisy || r.noisy, a.framed || r.framed, none⟩ })) ∧
      (((∀ a, (s.line k).phase ≠ .awaiting a) ∨
          ∃ a, (s.line k).phase = .awaiting a ∧ (a.ended ≠ none ∨ a.bytes = [] ∧ r.mark = false)) →
        ∃ t, exec c s = .next t ∧ t.line k = { s.line k with unsolicited := counted } ∧
          (∀ j, j ≠ k → t.line j = s.line j) ∧ marked s t ∧ { t with lines := s.lines, status := s.status } = s) ∧
      ∀ a, (s.line k).phase = .awaiting a → a.ended = none → a.bytes ≠ [] →
        (r.mark = true →
          ∃ t, exec c s = .next t ∧
            t.line k = { s.line k with phase := .awaiting { a with ended := some .broken }, unsolicited := counted } ∧
            (∀ j, j ≠ k → t.line j = s.line j) ∧ marked s t ∧ { t with lines := s.lines, status := s.status } = s) ∧
        (r.mark = false → ∃ ended, exec c s = .next (s.onLine k fun l =>
            { l with phase := .awaiting ⟨a.bytes ++ [r.byte], a.noisy || r.noisy, a.framed || r.framed, ended⟩ }) ∧
          let n := byteAt (a.bytes ++ [r.byte]) 1
          (n = 0 ∨ 36 < n → ended = some .badLength) ∧
          (1 ≤ n → n ≤ 36 → a.bytes.length + 1 = n + 3 → ended = some .complete) ∧
          (1 ≤ n → n ≤ 36 → a.bytes.length + 1 ≠ n + 3 → ended = none)))

/-- Of the lines only line k has changed, and besides them only the status marks and the cause flags. -/
def lineAlone (k : Fin 4) (s t : State) : Prop :=
  (∀ j, j ≠ k → t.line j = s.line j) ∧ { t with lines := s.lines, status := s.status, causes := s.causes } = s

/-- A roster entry after an exchange (R132). -/
def entryJudged (e : RosterEntry) (good : Bool) : RosterEntry :=
  let missed := if good then 0 else min 255 (e.missed + 1)
  { e with missed := missed, state := if good then .answering else if 3 ≤ missed then .lost else .silent }

/-- The entry of a rack in its line's roster. -/
def rackEntry (l : Line) (addr : Nat) : Option RosterEntry := l.roster.find? fun r => r.addr == addr

/-- An exchange changes the state of a rack from `old` to `new` (R132). An address without an entry changes none. -/
def rackMoves (l : Line) (addr : Nat) (good : Bool) (old new : RackState) : Bool :=
  (rackEntry l addr).any fun e =>
    decide (e.state = old) && decide ((entryJudged e good).state = new) && decide (old ≠ new)

/-- A line after an exchange with a rack has been judged: its entry, and the notice of a rack that becomes LOST, BLIND,
or returns from LOST, UNBLIND (R132). -/
def rackJudged (l : Line) (addr : Nat) (good : Bool) : Line :=
  match rackEntry l addr with
  | none => l
  | some e =>
    let new := entryJudged e good
    { l with
      roster := l.roster.map fun r => if r.addr = addr then new else r
      notices := l.notices ++
        (if new.state = .lost ∧ e.state ≠ .lost then [⟨true, addr⟩]
        else if e.state = .lost ∧ new.state ≠ .lost then [⟨false, addr⟩] else []) }

/-- The rack with which a transaction exchanges frames. -/
def rackOf : Transaction → Nat
  | .tune e _ => e.addr
  | .poll addr _ _ => addr

/-- A complete reply passes the five content tests of R128, with the lengths of R126. -/
def contentGood (x : Transaction) (bs : List Byte) : Prop :=
  (bs.map BitVec.toNat).sum % 256 = 0 ∧ byteAt bs 0 = 128 + rackOf x ∧
    match x with
    | .poll _ _ _ => byteAt bs 2 = 3 ∧ ∃ n ≤ 8, byteAt bs 1 = 1 + 4 * n
    | .tune e _ => byteAt bs 2 = 4 ∧ byteAt bs 1 = 3 ∧ byteAt bs 3 = e.slot ∧ 1 ≤ byteAt bs 4 ∧ byteAt bs 4 ≤ 3

/-- What the judging of an exchange tells the rest of the part (R128, R132): a rack that becomes LOST sets ALERT, and
no other cause changes; the line's record is marked when a counter rises or the rack's state changes, and with the
latter the records of the stages that the rack serves. Of the lines only line k has changed. -/
def judgedOnward (k : Fin 4) (addr : Nat) (good counts : Bool) (s t : State) : Prop :=
  let changed := ∃ old new, rackMoves (s.line k) addr good old new = true
  let lost := ∃ old, rackMoves (s.line k) addr good old .lost = true
  (∀ c, t.hasCause c = true ↔ s.hasCause c = true ∨ c = .alert ∧ lost) ∧
    marksAdded s t (fun r => r = .line k ∧ (counts = true ∨ changed) ∨ changed ∧ ∃ e ∈ s.air, e.air = .onAir ∧
      r = .stage e.stage ∧ ∃ x, e.rack = some x ∧ x.line = k ∧ x.addr = addr) ∧ lineAlone k s t

/-- A line with the counters of another. -/
def countersOf (l t : Line) : Line :=
  { l with
    noise := t.noise, framing := t.framing, check := t.check, gap := t.gap, timeout := t.timeout
    unsolicited := t.unsolicited }

/-- One counter has risen, saturating at 65535, and no other has changed (R128). -/
def failureCounted (l : Line) (c : Counter) (t : Line) : Prop :=
  t.count c = min 65535 (l.count c + 1) ∧ ∀ d, d ≠ c → t.count d = l.count d

/-- How a failed exchange leaves a line in a TUNE (R137): the rack is judged and the wait begins; with attempts left the
entry is kept for the next one, and without, NO_REPLY is delivered to the engine and, for live class, to the Watch Unit,
and the line goes on. -/
def failedTune (l : Line) (e : Tune) (n : Nat) (c : Counter) (t : Line) : Prop :=
  let m := countersOf (rackJudged l e.addr false) t
  failureCounted l c t ∧
    (n < 3 → t = { m with phase := .failedWait, txn := some (.tune e (n + 1)) }) ∧
    (n = 3 → t = lineGoesOn { m with
      phase := .failedWait
      outcomes := if e.id = 65535 then l.outcomes else l.outcomes ++ [⟨e.id, e.code, .noReply⟩]
      liveOutcomes := if e.live then l.liveOutcomes ++ [⟨e.id, e.code, .noReply⟩] else l.liveOutcomes })

/-- How a failed exchange leaves a line in a POLL (R136): the rack is judged, nothing is handed on, the rotation index
moves on unless the roster was loaded meanwhile (R131), the wait begins and the line goes on. -/
def failedPoll (l : Line) (addr : Nat) (reloaded : Bool) (c : Counter) (t : Line) : Prop :=
  failureCounted l c t ∧
    t = lineGoesOn { countersOf (rackJudged l addr false) t with
      phase := .failedWait
      rotation := if reloaded then l.rotation else if l.rotation + 1 < l.roster.length then l.rotation + 1 else 0 }

/-- How a failed exchange of either transaction leaves a line. -/
def exchangeLost (l : Line) (x : Transaction) (c : Counter) (t : Line) : Prop :=
  match x with
  | .tune e n => failedTune l e n c t
  | .poll addr _ reloaded => failedPoll l addr reloaded c t

/-- GAP_TIMEOUT, REPLY_TIMEOUT and a failed REPLY_FRAME of a TUNE or a POLL, failed also by any one of the five
content tests: exactly one counter rises, as R128 orders them, the rack's entry is judged as R132 states, with ALERT,
the notices and the marks, and the transaction goes on or ends as its kind does. A line whose transaction has ended
takes values that wait for that, and goes on to the oldest live entry, else the oldest plan entry, else a poll that is
due; a line turned off ends its queue NO_REPLY. That the frame of the work chosen so waits for the end of the wait is
log 32, and that a line turned off drops that wait is the model's own choice (log 45). -/
def Obligations.FailedExchangeCounts : Prop :=
  ∀ (k : Fin 4) (a : Assembler) (x : Transaction) (s : State), (s.line k).phase = .awaiting a →
    (s.line k).txn = some x → (∀ d, (s.line k).count d ≤ 65535) →
    let told := fun (c : Counter) (t : State) =>
      judgedOnward k (rackOf x) false (decide ((s.line k).count c < 65535)) s t
    (a.bytes ≠ [] → a.ended = none →
      ∃ t, exec (.gapTimeout k) s = .next t ∧ exchangeLost (s.line k) x .gap (t.line k) ∧ told .gap t) ∧
    (a.bytes = [] → a.ended = none →
      ∃ t, exec (.replyTimeout k) s = .next t ∧ exchangeLost (s.line k) x .timeout (t.line k) ∧ told .timeout t) ∧
    (∀ f, a.ended = some f → (f ≠ .complete ∨ a.framed = true ∨ a.noisy = true ∨ ¬ contentGood x a.bytes) →
      let c := if a.framed then .framing else if a.noisy then .noise else .check
      ∃ t, exec (.replyFrame k) s = .next t ∧ exchangeLost (s.line k) x c (t.line k) ∧ told c t)

/-- A good reply. A TUNE_ACK ends the TUNE with its outcome, delivered with the entry's carrier and code. A REPORT
ends the POLL: its entries for the slots 0..31 go to the Watch Unit in frame order, the rack's slot cursor moves past
them, or back to 0 after fewer than 8 or at the end of the slots, and the rotation index moves on unless the roster
was loaded meanwhile. Either way the rack's entry is judged as R132 states, with the UNBLIND notice of a rack that was
LOST and the marks, no counter rises, the wait of one character begins, and the line takes values that wait for the
end of the transaction and goes on to the oldest live entry, else the oldest plan entry, else a poll that is due; a
line turned off ends its queue NO_REPLY. That the frame of the work chosen so waits for the end of the wait is log 32,
and that a line turned off drops that wait is the model's own choice (log 45). That the cursor counts from the rack's
entry as it stands, whatever first slot the POLL named, is the model's own choice (log 44). -/
def Obligations.GoodReplyEndsTransaction : Prop :=
  (∀ (k : Fin 4) (a : Assembler) (e : Tune) (n : Nat) (r : TuneOutcome) (s : State), (s.line k).phase = .awaiting a →
      (s.line k).txn = some (.tune e n) → a.ended = some .complete → a.framed = false → a.noisy = false →
      byteSum a.bytes % 256 = 0 → byteAt a.bytes 0 = 128 + e.addr → byteAt a.bytes 2 = 4 → byteAt a.bytes 1 = 3 →
      byteAt a.bytes 3 = e.slot →
      (byteAt a.bytes 4 = 1 ∧ r = .applied ∨ byteAt a.bytes 4 = 2 ∧ r = .refused ∨
        byteAt a.bytes 4 = 3 ∧ r = .outOfRange) →
      ∃ t, exec (.replyFrame k) s = .next t ∧
        t.line k = lineGoesOn { rackJudged (s.line k) e.addr true with
          phase := .goodWait
          outcomes := if e.id = 65535 then (s.line k).outcomes else (s.line k).outcomes ++ [⟨e.id, e.code, r⟩]
          liveOutcomes := if e.live then
            (s.line k).liveOutcomes ++ [⟨e.id, e.code, if r = .outOfRange then .refused else r⟩]
            else (s.line k).liveOutcomes } ∧
        (∀ c, (t.line k).count c = (s.line k).count c) ∧ judgedOnward k e.addr true false s t) ∧
  ∀ (k : Fin 4) (a : Assembler) (addr first : Nat) (reloaded : Bool) (s : State), s.rostersOk →
    (s.line k).phase = .awaiting a → (s.line k).txn = some (.poll addr first reloaded) → a.ended = some .complete →
    a.framed = false → a.noisy = false → byteSum a.bytes % 256 = 0 → byteAt a.bytes 0 = 128 + addr →
    byteAt a.bytes 2 = 3 → byteAt a.bytes 1 % 4 = 1 → byteAt a.bytes 1 ≤ 33 →
    let n := (byteAt a.bytes 1 - 1) / 4
    let judged := rackJudged (s.line k) addr true
    ∃ t, exec (.replyFrame k) s = .next t ∧
      t.line k = lineGoesOn { judged with
        phase := .goodWait
        rotation := if reloaded then (s.line k).rotation
          else if (s.line k).rotation + 1 < (s.line k).roster.length then (s.line k).rotation + 1 else 0
        roster := judged.roster.map fun r =>
          if r.addr = addr then { r with cursor := if n < 8 ∨ 32 ≤ r.cursor + n then 0 else r.cursor + n } else r
        reports := (s.line k).reports ++
          ((List.range n).map fun i =>
            (⟨addr, byteAt a.bytes (3 + 4 * i), min (byteAt a.bytes (4 + 4 * i)) 200,
              decide (byteAt a.bytes (5 + 4 * i) % 2 = 1), byteAt a.bytes (6 + 4 * i)⟩ : Report)).filter
                (fun r => decide (r.slot ≤ 31)) } ∧
      (∀ e, rackEntry (s.line k) addr = some e → rackEntry (t.line k) addr = some
        ⟨addr, .answering, 0, if n < 8 ∨ 32 ≤ e.cursor + n then 0 else e.cursor + n⟩) ∧
      (∀ c, (t.line k).count c = (s.line k).count c) ∧ judgedOnward k addr true false s t

/-- A command judges an exchange of line k, good or failed (R128). -/
def judgesExchange (c : Instr) (k : Fin 4) (x : Transaction) (good : Bool) (s : State) : Prop :=
  (s.line k).txn = some x ∧ ∃ a, (s.line k).phase = .awaiting a ∧
    (c = .gapTimeout k ∧ a.bytes ≠ [] ∧ a.ended = none ∧ good = false ∨
      c = .replyTimeout k ∧ a.bytes = [] ∧ a.ended = none ∧ good = false ∨
      c = .replyFrame k ∧ ∃ f, a.ended = some f ∧
        (good = true ↔ f = .complete ∧ a.framed = false ∧ a.noisy = false ∧ contentGood x a.bytes))

/-- An exchange judged, by GAP_TIMEOUT, REPLY_TIMEOUT or REPLY_FRAME: the roster entry of the rack that the request
went to becomes ANSWERING with missed count 0 on a good one; on a failed one the missed count rises and the entry is
SILENT, or LOST from 3 on. Becoming LOST sets ALERT and gives the Watch Unit a BLIND notice; returning from LOST gives
an UNBLIND notice. A change of state marks the line's record and those of the stages that the rack serves. An address
without an entry changes none, and tells nobody. -/
def Obligations.ExchangeChangesRosterEntry : Prop :=
  (∀ (k : Fin 4) (addr : Nat) (good : Bool) (e : RosterEntry) (s : State), s.rostersOk →
    (s.line k).roster.find? (fun r => r.addr == addr) = some e →
    let missed := if good then 0 else min 255 (e.missed + 1)
    let new := if good then RackState.answering else if 3 ≤ missed then .lost else .silent
    ((s.judgeRack k addr good).line k).roster.find? (fun r => r.addr == addr) =
      some { e with missed := missed, state := new } ∧
    (∀ b, b ≠ addr → ((s.judgeRack k addr good).line k).roster.find? (fun r => r.addr == b) =
      (s.line k).roster.find? fun r => r.addr == b) ∧
    ((s.judgeRack k addr good).line k).notices =
      (s.line k).notices ++
        (if new = .lost ∧ e.state ≠ .lost then [⟨true, addr⟩]
        else if e.state = .lost ∧ new ≠ .lost then [⟨false, addr⟩] else []) ∧
    (∀ c, (s.judgeRack k addr good).hasCause c =
      (s.hasCause c || (decide (c = .alert) && decide (new = .lost ∧ e.state ≠ .lost)))) ∧
    (new ≠ e.state → .line k ∈ (s.judgeRack k addr good).status.marks) ∧ lineAlone k s (s.judgeRack k addr good)) ∧
  ∀ (c : Instr) (k : Fin 4) (x : Transaction) (good : Bool) (s : State), s.rostersOk → judgesExchange c k x good s →
    let addr := rackOf x
    ∃ t, exec c s = .next t ∧ lineAlone k s t ∧
      (rackEntry (s.line k) addr = none → (t.line k).roster = (s.line k).roster ∧
        (t.line k).notices = (s.line k).notices ∧ t.causes = s.causes) ∧
      ∀ e, rackEntry (s.line k) addr = some e →
        let missed := if good then 0 else min 255 (e.missed + 1)
        let new := if good then RackState.answering else if 3 ≤ missed then .lost else .silent
        (∃ cursor, rackEntry (t.line k) addr = some ⟨addr, new, missed, cursor⟩ ∧
          ((∃ tune n, x = .tune tune n) ∨ good = false → cursor = e.cursor)) ∧
        (∀ b, b ≠ addr → rackEntry (t.line k) b = rackEntry (s.line k) b) ∧
        (t.line k).notices = (s.line k).notices ++
          (if new = .lost ∧ e.state ≠ .lost then [⟨true, addr⟩]
          else if e.state = .lost ∧ new ≠ .lost then [⟨false, addr⟩] else []) ∧
        (∀ d, t.hasCause d = (s.hasCause d || (decide (d = .alert) && decide (new = .lost ∧ e.state ≠ .lost)))) ∧
        (new ≠ e.state → .line k ∈ t.status.marks ∧ ∀ a ∈ s.air, a.air = .onAir →
          (∃ r, a.rack = some r ∧ r.line = k ∧ r.addr = addr) → recordExists (.stage a.stage) →
          .stage a.stage ∈ t.status.marks)

/-! ### Watch Unit -/

/-- A watch record whose fields last written have been brought up to date by a report entry (R146). -/
def fieldsMoved (r : Report) (w : WatchRec) : WatchRec :=
  { w with
    lastRf := if w.lastRf.all (fun o => decide (o + 4 ≤ r.rf) || decide (r.rf + 4 ≤ o)) then some r.rf else w.lastRf
    lastErrors := if w.lastErrors.all (fun o => decide (o ≠ r.errors)) then some r.errors else w.lastErrors }

/-- A bad report entry (R147). -/
def badReport (p : WatchParams) (r : Report) : Bool :=
  if r.pilot then decide (p.error ≤ r.errors) else decide (p.foreign ≤ r.rf)

/-- A report entry confirms a carrier (R148, R149). -/
def confirms (p : WatchParams) (r : Report) (w : WatchRec) : Bool :=
  decide (w.state = .quiet ∨ w.state = .suspect) && badReport p r && decide (p.confirm ≤ min 7 (w.run + 1))

/-- A report entry brings a swap decision for a carrier (R149, R150). -/
def decides (p : WatchParams) (r : Report) (w : WatchRec) : Bool := confirms p r w || decide (w.state = .confirmed)

/-- The decision offers an addition to the Swap Request List that only a full list refuses (R73, R150). -/
def asksSwap (s : State) (r : Report) (e : AirEntry) : Bool :=
  (s.watchRec e.id).any fun w => decides s.watch.params r w && e.autoSwap &&
    decide (w.swaps < s.watch.params.swapLimit) && s.runBit && decide (e.id ∉ s.engine.requests)

/-- Where a swap decision takes a carrier in CONFIRMED (R150), with the carriers whose requests are added. -/
def swapFate (s : State) (added : List Nat) (e : AirEntry) (w : WatchRec) : WatchState :=
  if e.autoSwap = false ∨ s.watch.params.swapLimit ≤ w.swaps ∨ s.runBit = false then .alerted
  else if e.id ∈ added then .swapWait else .confirmed

/-- The watch record of a matched carrier after a report entry, by the state it finds. -/
def reported (s : State) (r : Report) (added : List Nat) (e : AirEntry) (w : WatchRec) : WatchRec :=
  let w' := fieldsMoved r w
  let fate := swapFate s added e w
  if decides s.watch.params r w then
    if w.state = .confirmed ∧ fate = .confirmed then w' else { w' with state := fate, run := 0, settle := 0 }
  else if w.state = .quiet ∨ w.state = .suspect then
    if badReport s.watch.params r then { w' with state := .suspect, run := min 7 (w.run + 1) }
    else if w.state = .suspect then { w' with state := .quiet, run := 0, settle := 0 } else w'
  else if w.state = .settling then
    if w.settle ≤ 1 then { w' with state := .quiet, run := 0, settle := 0 } else { w' with settle := w.settle - 1 }
  else w'

/-- A report entry for the watched carriers that it matches, none, one or several. In QUIET or SUSPECT it is
classified and counted (R147, R148), and a run of confirm_count or more confirms the carrier: a foreign one is marked
in the map at its code, and the swap decision is made. In CONFIRMED it makes the decision anew. A decision leads to
ALERTED with ALERT set, to SWAP_WAIT with the request added at the tail, or leaves the carrier CONFIRMED while the
list is full; of several carriers the earlier in Air Set order have the room that is left. In SETTLING the settle
count falls by 1, and the carrier goes to QUIET with run 0 when it reaches 0 (R153). The fields last written, and with
them the fields of the status record, move as R146 states; the records of the carriers changed are marked, and those
of the stages of the carriers that become ALERTED; no other carrier's record changes. That a carrier whose request is
listed already stays CONFIRMED is log 37. Before a decision the Watch Unit takes the answers that the engine has
given, so that no carrier is listed anew with an old answer still to come (R73; log 7). An engine at a boundary goes
on at ENGINE_STEP_BOUNDARY; an idle one serves an addition at once: the search begins with the bins of the first spare
that meets conditions 1 to 3, or the answer is NO_SPARE. The engine holds no order, or stands at a boundary. -/
def Obligations.ReportCountsTowardsConfirmation : Prop :=
  ∀ (k : Fin 4) (r : Report) (rest : List Report) (s : State),
    (s.line k).reports = r :: rest → s.engine.service = none → s.engine.reading = none →
    (s.engine.order = none ∧ s.engine.requests = [] ∧ s.engine.pos = .idle ∨
      s.engine.order.isSome = true ∧ s.engine.pos = .boundary) → s.watchOk →
    let matched := s.air.filter fun x =>
      decide (x.air = .onAir ∧ x.kind = .mic ∧ x.watched = true ∧ x.rack = some ⟨k, r.addr, r.slot⟩)
    let deciding := matched.any fun e => (s.watchRec e.id).any (decides s.watch.params r)
    let u := if deciding then s.takeAnswers else s
    let added := ((matched.filter (asksSwap u r)).take (8 - s.engine.requests.length)).map AirEntry.id
    (matched.map AirEntry.id).Nodup →
    ∃ t : State, exec (.reportEntry k) s = .next t.engineGo.serveBus ∧
      (s.engine.order.isSome = true ∨ added = [] → t.engineGo = t) ∧
      (∀ x more, s.engine.order = none → added = x :: more →
        t.engineMicro = some t.serveHead ∧
        (∀ e sp i, s.onAirEntry x = some e → e.locked = false → s.nextTry e 0 = some (sp, i) →
          t.engineGo = { t with engine := { t.engine with
            service := some (.search x 0), reading := some ⟨binsAround s.params.gocc sp.code, false⟩ } }) ∧
        (more = [] → (∀ e, s.onAirEntry x = some e → e.locked = true ∨ s.nextTry e 0 = none) →
          t.engineGo = { t with
            engine := { t.engine with requests := [] }, swapAnswers := t.swapAnswers ++ [⟨x, false⟩] })) ∧
      (∀ e ∈ matched, t.watchRec e.id = (u.watchRec e.id).map (reported u r added e)) ∧
      (∀ id, id ∉ matched.map AirEntry.id → t.watchRec id = u.watchRec id) ∧ t.swapAnswers = u.swapAnswers ∧
      t.engine = { s.engine with requests := s.engine.requests ++ added } ∧
      (∀ b, t.bin b =
        if ∃ e ∈ matched, e.code = b ∧ r.pilot = false ∧ (s.watchRec e.id).any (confirms s.watch.params r) = true then
          { s.bin b with counter := 7 } else s.bin b) ∧
      (∀ c, t.hasCause c = (u.hasCause c || (decide (c = .alert) && matched.any fun e => (u.watchRec e.id).any fun w =>
        decides s.watch.params r w && decide (swapFate u added e w = .alerted)))) ∧
      (let becomes := fun (e : AirEntry) (p : WatchRec → WatchRec → Prop) =>
          ∃ w, u.watchRec e.id = some w ∧ p w (reported u r added e w)
       marksJoined u t (fun q => ∃ e ∈ matched,
          q = .carrier e.id ∧
            becomes e (fun w v => v.state ≠ w.state ∨ v.lastRf ≠ w.lastRf ∨ v.lastErrors ≠ w.lastErrors) ∨
          q = .stage (e.id / 256) ∧ becomes e fun w v => w.state ≠ .alerted ∧ v.state = .alerted) ∧
       { t.status with marks := u.status.marks, kept := u.status.kept } = u.status ∧
       (∀ id, (∀ e ∈ matched, e.id ≠ id) → t.kept id = u.kept id) ∧
       ∀ e ∈ matched, ∀ w, recordExists (.carrier e.id) → u.watchRec e.id = some w →
          let v := fieldsMoved r w
          t.kept e.id = { u.kept e.id with
            lastRf := if v.lastRf = w.lastRf then (u.kept e.id).lastRf else r.rf
            lastErrors := if v.lastErrors = w.lastErrors then (u.kept e.id).lastErrors else r.errors }) ∧
      t.watch.params = s.watch.params ∧ t.watch.heldTunes = s.watch.heldTunes ∧
      t.lines = (s.onLine k fun l => { l with reports := rest }).lines ∧
      { t with
        watch := s.watch, status := s.status, lines := s.lines, engine := s.engine, bins := s.bins
        causes := s.causes, swapAnswers := s.swapAnswers } = s

/-- The answer of the engine at the Watch Unit, by the state it finds (R151), with the marks of the change. -/
def Obligations.SwapAnswerActsByState : Prop :=
  ∀ (a : SwapAnswer) (rest : List SwapAnswer) (s : State), s.swapAnswers = a :: rest → s.watchOk →
    (s.watchRec a.id = none → exec .swapAnswer s = .next { s with swapAnswers := rest }) ∧
    ∀ w, s.watchRec a.id = some w →
      ∃ t, exec .swapAnswer s = .next t ∧ t.swapAnswers = rest ∧
        t.watchRec a.id = some
          (if w.state = .swapWait then
            (if a.swapped then { w with state := .retuning, run := 0, settle := 0, swaps := min 7 (w.swaps + 1) }
            else { w with state := .held, run := 0, settle := 0 })
          else if a.swapped then { w with swaps := min 7 (w.swaps + 1) } else w) ∧
        (∀ j, j ≠ a.id → t.watchRec j = s.watchRec j) ∧
        (∀ c, t.hasCause c =
          (s.hasCause c || (decide (c = .alert) && decide (w.state = .swapWait ∧ a.swapped = false)))) ∧
        marksAdded s t (fun r => r = .carrier a.id ∧ (a.swapped = true ∨ w.state = .swapWait) ∨
          r = .stage (a.id / 256) ∧ w.state = .swapWait ∧ a.swapped = false) ∧
        { t.watch with records := s.watch.records } = s.watch ∧
        { t with swapAnswers := s.swapAnswers, watch := s.watch, status := s.status, causes := s.causes } = s

/-- The outcome of a live TUNE: a carrier in RETUNING at that code settles when it was applied, for settle_reports
reports or not at all, and is HELD otherwise, with ALERT; its record is marked, and its stage's when it is HELD; any
other outcome is ignored. -/
def Obligations.LiveOutcomeEndsRetuning : Prop :=
  ∀ (k : Fin 4) (m : OutcomeMsg) (rest : List OutcomeMsg) (s : State), s.watchOk → s.swapAnswers = [] →
    (s.line k).liveOutcomes = m :: rest →
    ((∀ w e, s.watchRec m.id = some w → s.airEntry m.id = some e → w.state ≠ .retuning ∨ e.code ≠ m.code) →
      exec (.liveTuneOutcome k) s = .next (s.onLine k fun l => { l with liveOutcomes := rest })) ∧
    ∀ w e, s.watchRec m.id = some w → s.airEntry m.id = some e → w.state = .retuning → e.code = m.code →
      ∃ t, exec (.liveTuneOutcome k) s = .next t ∧
        t.watchRec m.id = some
          (if m.outcome = .applied then
            (if s.watch.params.settle = 0 then { w with state := .quiet, run := 0, settle := 0 }
            else { w with state := .settling, run := 0, settle := s.watch.params.settle })
          else { w with state := .held, run := 0, settle := 0 }) ∧
        (∀ j, j ≠ m.id → t.watchRec j = s.watchRec j) ∧
        (∀ c, t.hasCause c = (s.hasCause c || decide (c = .alert ∧ m.outcome ≠ .applied))) ∧
        marksAdded s t (fun r => r = .carrier m.id ∨ r = .stage (m.id / 256) ∧ m.outcome ≠ .applied) ∧
        { t.watch with records := s.watch.records } = s.watch ∧
        t.lines = (s.onLine k fun l => { l with liveOutcomes := rest }).lines ∧
        { t with watch := s.watch, status := s.status, lines := s.lines, causes := s.causes } = s

/-- A BLIND notice makes every watched carrier of the rack BLIND and takes the requests of those in SWAP_WAIT off the
list; an UNBLIND notice takes those that are BLIND to QUIET. Every other carrier's record stays. The records of the
carriers that change are marked, and those of the stages of the carriers that leave ALERTED or HELD. That a request
which is being served is taken off at once, and never waits behind its service, is the model's own choice (log 8). -/
def Obligations.BlindNoticesMoveTheRacksCarriers : Prop :=
  ∀ (k : Fin 4) (addr : Nat) (rest : List RackNotice) (s : State), s.watchOk →
    let served := fun id => ∃ e ∈ s.air, e.id = id ∧ e.air = .onAir ∧ e.kind = .mic ∧ e.watched = true ∧
      ∃ x, e.rack = some x ∧ x.line = k ∧ x.addr = addr
    let goes := fun (id : Nat) (p : WatchState → Prop) => served id ∧ ∃ w, s.watchRec id = some w ∧ p w.state
    ((s.line k).notices = ⟨true, addr⟩ :: rest →
      ∃ t, exec (.blindNotice k) s = .next t ∧
        (∀ id w, served id → s.watchRec id = some w → t.watchRec id = some { w with state := .blind, run := 0, settle := 0 }) ∧
        (∀ id, ¬ served id → t.watchRec id = s.watchRec id) ∧
        (∀ id, id ∈ t.engine.requests ↔ id ∈ s.engine.requests ∧
          ¬ (served id ∧ ∃ w, s.watchRec id = some w ∧ w.state = .swapWait)) ∧
        t.engine = { s.engine with requests := t.engine.requests } ∧
        t.engine.requests.Sublist s.engine.requests ∧
        marksAdded s t (fun r => ∃ id, r = .carrier id ∧ goes id (fun w => w ≠ .blind) ∨
          r = .stage (id / 256) ∧ goes id fun w => w = .alerted ∨ w = .held) ∧
        { t.watch with records := s.watch.records } = s.watch ∧
        t.lines = (s.onLine k fun l => { l with notices := rest }).lines ∧
        { t with watch := s.watch, engine := s.engine, status := s.status, lines := s.lines } = s) ∧
    ((s.line k).notices = ⟨false, addr⟩ :: rest →
      ∃ t, exec (.unblindNotice k) s = .next t ∧
        (∀ id w, served id → s.watchRec id = some w → t.watchRec id = some
          (if w.state = .blind then { w with state := .quiet, run := 0, settle := 0 } else w)) ∧
        (∀ id, ¬ served id → t.watchRec id = s.watchRec id) ∧
        marksAdded s t (fun r => ∃ id, r = .carrier id ∧ goes id fun w => w = .blind) ∧
        { t.watch with records := s.watch.records } = s.watch ∧
        t.lines = (s.onLine k fun l => { l with notices := rest }).lines ∧
        { t with watch := s.watch, status := s.status, lines := s.lines } = s)

/-! ### Status Writer -/

/-- The code of a rack state (R194). -/
def rackCode : RackState → Nat
  | .unknown => 0
  | .answering => 1
  | .silent => 2
  | .lost => 3

/-- The code of a watch state, OFF for a carrier that is not watched (R194). -/
def watchCode : Option WatchState → Nat
  | none => 0
  | some .quiet => 1
  | some .suspect => 2
  | some .confirmed => 3
  | some .swapWait => 4
  | some .retuning => 5
  | some .settling => 6
  | some .alerted => 7
  | some .held => 8
  | some .blind => 9

/-- The states of the racks that serve a stage's ON_AIR entries: each as its address stands in its line's roster,
UNKNOWN when it has no entry there (R178). -/
def racksServing (s : State) (stage : Nat) : List RackState :=
  (s.air.filter fun e => decide (e.stage = stage ∧ e.air = .onAir)).filterMap fun e => e.rack.map fun r =>
    (((s.line r.line).roster.find? fun x => x.addr == r.addr).map RosterEntry.state).getD .unknown

/-- The bytes of a status record before its sequence (R177, R178, R194). -/
def statusBytes (s : State) (r : RecId) : List Byte :=
  match r with
  | .stage n =>
    let racks := racksServing s n
    [BitVec.ofNat 8 (s.air.filter fun e => decide (e.stage = n ∧ e.air = .onAir)).length,
      BitVec.ofNat 8 (s.watch.records.filter fun w =>
        decide (w.id / 256 = n ∧ (w.state = .alerted ∨ w.state = .held))).length,
      if racks = [] then 255 else if .lost ∈ racks then 3 else if .silent ∈ racks then 2
      else if .unknown ∈ racks then 0 else 1,
      0, 0, 0]
  | .carrier id =>
    let e := s.airEntry id
    let kept := match (s.kept id).rackConfirm with
      | .unconfirmed => 0
      | .applied => 1
      | .refused => 2
      | .noReply => 3
      | .outOfRange => 4
    [match e with
      | none => 0
      | some e => if e.air = .pending then 1 else 2,
      if e.any (fun e => decide (e.confirmed = .unconfirmed)) then 0 else kept] ++
      twoBytes ((e.map AirEntry.code).getD 65535) ++
      [BitVec.ofNat 8 (watchCode ((s.watchRec id).map WatchRec.state)), BitVec.ofNat 8 (s.kept id).lastRf,
        BitVec.ofNat 8 (s.kept id).lastErrors, BitVec.ofNat 8 (((s.watchRec id).map WatchRec.swaps).getD 0),
        BitVec.ofNat 8 ((s.spares.findIdx? fun sp => decide (sp.user = some id)).getD 255), 0, 0, 0, 0, 0]
  | .line k =>
    let l := s.line k
    twoBytes l.noise ++ twoBytes l.framing ++ twoBytes l.check ++ twoBytes l.gap ++ twoBytes l.timeout ++
      twoBytes l.unsolicited ++ ((List.range 8).flatMap fun i => match l.roster[i]? with
        | some e => [BitVec.ofNat 8 e.addr, BitVec.ofNat 8 (rackCode e.state)]
        | none => [0, 0]) ++ [0, 0]
  | .spare i =>
    match s.spares[i]? with
    | some sp => twoBytes sp.code ++ [match sp.state with
        | .available => 0
        | .used => 1
        | .barred => 2, 0] ++ twoBytes (sp.user.getD 65535)
    | none => twoBytes 65535 ++ [2, 0] ++ twoBytes 65535

/-- Where a record stands in the status area, and its length (R194). -/
def recordPlace (r : RecId) : Nat × Nat := match r with
  | .stage n => (8 * n, 8)
  | .line k => (128 + 32 * k.val, 32)
  | .spare i => (256 + 8 * i, 8)
  | .carrier id => (1024 + 16 * (id / 256 * 96 + id % 256), 16)

/-- The head of the mark list is taken: its sequence rises by 1 modulo 65536, and the whole record is presented as one
write at its place in the status area, its fields as they stand, gathered as R177 and R178 state, with the new
sequence last. That the record leaves the mark list as its write is taken up is the model's own choice (log 61). The
write counts for the rewrite of a RUN start when the record is still on the rewrite's list then (log 34). -/
def Obligations.StatusWriteTakesOldestMark : Prop :=
  ∀ (r : RecId) (rest : List RecId) (base : Nat) (s : State), s.status.job = .idle → s.status.marks = r :: rest →
    s.latch.statusAddr = some base → s.mail.status = none →
    (let place := recordPlace r
    s.allowed true (base + place.1) place.2 = true →
    ∃ t, exec .statusRecordWrite s = .next t ∧ t.seq r = s.seq r + 1 ∧
      (recordExists r → ∀ q, recordExists q → q ≠ r → t.seq q = s.seq q) ∧
      t.status = { s.status with
        marks := rest, seqs := t.status.seqs, job := .recordWait r ((s.rewrite.getD []).contains r) } ∧
      t.port.transfers = s.port.transfers ++
        [⟨.status, true, base + place.1, place.2,
          statusBytes s r ++ [(s.seq r + 1).extractLsb' 0 8, (s.seq r + 1).extractLsb' 8 8]⟩] ∧
      (statusBytes s r).length + 2 = place.2 ∧
      { t with status := s.status, port := s.port } = s)

/-- A record has been written. For a record other than a carrier's the epoch moves by 1 and STATUS_CHANGED is set. For
a carrier's, the sequence of its stage rises by 1 and is presented alone, as one write of two bytes in the stage
record, whose end, a fault included, moves the epoch and sets STATUS_CHANGED. A fault on a record, TIMEOUT, BUS_ERROR
or WINDOW, loses the write: the epoch stays and STATUS_CHANGED is not set, while the advanced sequence and
MEMORY_FAULT stand. A record of the rewrite of a RUN start, written or lost, is off the list that the rewrite waits
for, and no other is (log 34). That the record has left the mark list when its write is taken up, and that a mark for
it which arrives during the write stays on the list when that write ends, is the model's own choice (log 61). -/
def Obligations.WrittenRecordMovesEpoch : Prop :=
  let memory := fun s t : State => ∀ c, t.hasCause c = (s.hasCause c || decide (c = .memoryFault))
  let frame := fun s t : State => { t with
    status := s.status, causes := s.causes, fault := s.fault, port := s.port, mem := s.mem, mail := s.mail
    rewrite := s.rewrite } = s
  let waits := fun (r : RecId) (counts : Bool) (s t : State) => t.rewrite =
    if counts then s.rewrite.map fun l => l.filter fun x => decide (x ≠ r) else s.rewrite
  (∀ (r : RecId) (b : Bool) (base : Nat) (x : Transfer) (s : State), s.latch.statusAddr = some base →
    s.port.phase = .granted .status → s.port.transfers = [x] → x.owner = .status → x.write = true →
    x.left ≤ burstLength s.beatBytes x.addr x.left →
    let announced := fun (t : State) (more : List Cause) =>
      t.status = { s.status with seqs := t.status.seqs, epoch := s.status.epoch + 1, job := .idle } ∧
      (∀ c, t.hasCause c = (s.hasCause c || decide (c = .statusChanged) || decide (c ∈ more))) ∧
      t.port = ⟨[], .free, .status⟩ ∧ waits r b s t
    let faults := fun c : Instr => ∃ k, c = .transferTimeout k ∨ c = .busError k
    (s.status.job = .recordWait r b → (∀ id, r ≠ .carrier id) →
      ∃ t, exec .burstComplete s = .next t ∧ announced t [] ∧ t.status.seqs = s.status.seqs ∧ t.fault = s.fault ∧
        frame s t) ∧
    (s.status.job = .recordWait r b → ∀ c, faults c → ∃ t, exec c s = .next t ∧
      t.status = { s.status with job := .idle } ∧ memory s t ∧ t.port = ⟨[], .free, .status⟩ ∧ waits r b s t ∧
      frame s t) ∧
    (∀ id, r = .carrier id → s.status.job = .recordWait r b →
      let advanced := fun t : State => t.seq (.stage (id / 256)) = s.seq (.stage (id / 256)) + 1 ∧
        (id / 256 < 12 → ∀ q, recordExists q → q ≠ .stage (id / 256) → t.seq q = s.seq q)
      (s.allowed true (base + (8 * (id / 256) + 6)) 2 = true →
        ∃ t, exec .burstComplete s = .next t ∧ advanced t ∧
          t.status = { s.status with seqs := t.status.seqs, job := .stageWait r b } ∧
          t.port.transfers = [⟨.status, true, base + (8 * (id / 256) + 6), 2,
            [(s.seq (.stage (id / 256)) + 1).extractLsb' 0 8, (s.seq (.stage (id / 256)) + 1).extractLsb' 8 8]⟩] ∧
          t.causes = s.causes ∧ t.fault = s.fault ∧ t.rewrite = s.rewrite ∧ frame s t) ∧
      (s.allowed true (base + (8 * (id / 256) + 6)) 2 = false →
        ∃ t, exec .burstComplete s = .next t ∧ advanced t ∧ announced t [.memoryFault] ∧ frame s t)) ∧
    (s.status.job = .stageWait r b →
      (∃ t, exec .burstComplete s = .next t ∧ announced t [] ∧ t.status.seqs = s.status.seqs ∧ t.fault = s.fault ∧
        frame s t) ∧
      ∀ c, faults c → ∃ t, exec c s = .next t ∧ announced t [.memoryFault] ∧ t.status.seqs = s.status.seqs ∧
        frame s t)) ∧
  ∀ (r : RecId) (rest : List RecId) (base : Nat) (s : State), s.status.job = .idle → s.status.marks = r :: rest →
    s.latch.statusAddr = some base → s.allowed true (base + (recordPlace r).1) (recordPlace r).2 = false →
    ∃ t, exec .statusRecordWrite s = .next t ∧
      t.status = { s.status with marks := rest, seqs := t.status.seqs } ∧ t.seq r = s.seq r + 1 ∧
      (recordExists r → ∀ q, recordExists q → q ≠ r → t.seq q = s.seq q) ∧ memory s t ∧
      t.port.transfers = s.port.transfers ∧ waits r true s t ∧ frame s t

/-! ### What every step keeps -/

/-- Every step keeps the canonical form in which the model holds shared memory. -/
def Obligations.StepsKeepMemoryCanonical : Prop :=
  ∀ s t : State, s.memOk → step s = .next t → t.memOk

/-- Every step keeps every occupancy counter within 0..7, and the map in its canonical form. -/
def Obligations.StepsKeepCountersInRange : Prop :=
  ∀ s t : State, s.binsOk → step s = .next t → t.binsOk

/-- Every step keeps every cell of the Coupling Table within 0..63 and its diagonal at 0, and the Plan Parameters, the
Watch Parameters and occ_threshold in their ranges. -/
def Obligations.StepsKeepCouplingAndParameters : Prop :=
  ∀ s t : State, s.couplingOk → s.paramsOk → step s = .next t → t.couplingOk ∧ t.paramsOk

/-- No two valid ways of one Carrier Cache set hold the same tag: not at reset, and no step changes that (R53). -/
def Obligations.StepsKeepCacheTagsDistinct : Prop :=
  State.reset.cacheOk ∧ ∀ s t : State, s.cacheOk → step s = .next t → t.cacheOk

/-- Every step keeps the Air Set within 200 entries, with no two for one carrier, in ascending order of code and then of
carrier ID, and an owner order at exactly the PENDING entries. -/
def Obligations.StepsKeepAirSetOrdered : Prop :=
  ∀ s t : State, s.airOk → step s = .next t → t.airOk

/-- Every step keeps the Swap Request List within 8 requests, never two for one carrier, no carrier with two watch
records, the codes of the Spare List distinct, no carrier the user of more than one entry, and the mark list free of
repeats and of records that do not exist. -/
def Obligations.StepsKeepRequestsWatchesSparesAndMarks : Prop :=
  ∀ s t : State, s.requestsOk → s.watchOk → s.sparesOk → s.marksOk → step s = .next t →
    t.requestsOk ∧ t.watchOk ∧ t.sparesOk ∧ t.marksOk

/-- Every step keeps each Command Queue within 8 entries, at most 6 of them plan-class, and each Rack Roster within 8
entries, free of repeats, with addresses 1..30. -/
def Obligations.StepsKeepQueuesAndRostersBounded : Prop :=
  ∀ s t : State, s.queuesOk → s.rostersOk → step s = .next t → t.queuesOk ∧ t.rostersOk

/-- After a reset, whatever the state before it, every one of these invariants holds; and it holds of the state right
after power-on. Shared memory, in which the completed beats of a write burst in progress stay written and every other
byte stands, keeps its form. -/
def Obligations.ResetEstablishesInvariants : Prop :=
  let rest := fun t : State => t.binsOk ∧ t.couplingOk ∧ t.paramsOk ∧ t.cacheOk ∧ t.airOk ∧ t.requestsOk ∧
    t.sparesOk ∧ t.queuesOk ∧ t.rostersOk ∧ t.watchOk ∧ t.marksOk
  State.reset.memOk ∧ rest State.reset ∧
    ∀ (beats : Nat) (s : State), ∃ t, exec (.reset beats) s = .next t ∧ rest t ∧ (s.memOk → t.memOk)
end

