-- ==== Sys2Proof/Laws/State.lean ====
section
/-! SUPPORT. One lemma per field for each update of one field of the state, so that no later proof unfolds a
record update; and the fields that the shared operations leave alone. -/

namespace Sys2Proof.Machine

variable (s : State)

/-! ### `setCause` -/

@[simp] theorem State.setCause_pending (c : Cause) : (s.setCause c).pending = s.pending := rfl
@[simp] theorem State.setCause_run (c : Cause) : (s.setCause c).run = s.run := rfl
@[simp] theorem State.setCause_runBit (c : Cause) : (s.setCause c).runBit = s.runBit := rfl
@[simp] theorem State.setCause_anchor (c : Cause) : (s.setCause c).anchor = s.anchor := rfl
@[simp] theorem State.setCause_intEnable (c : Cause) : (s.setCause c).intEnable = s.intEnable := rfl
@[simp] theorem State.setCause_causes (c : Cause) : (s.setCause c).causes = s.causes ||| causeBit c := rfl
@[simp] theorem State.setCause_fault (c : Cause) : (s.setCause c).fault = s.fault := rfl
@[simp] theorem State.setCause_latch (c : Cause) : (s.setCause c).latch = s.latch := rfl
@[simp] theorem State.setCause_windows (c : Cause) : (s.setCause c).windows = s.windows := rfl
@[simp] theorem State.setCause_rewrite (c : Cause) : (s.setCause c).rewrite = s.rewrite := rfl
@[simp] theorem State.setCause_mem (c : Cause) : (s.setCause c).mem = s.mem := rfl
@[simp] theorem State.setCause_port (c : Cause) : (s.setCause c).port = s.port := rfl
@[simp] theorem State.setCause_mail (c : Cause) : (s.setCause c).mail = s.mail := rfl
@[simp] theorem State.setCause_settings (c : Cause) : (s.setCause c).settings = s.settings := rfl
@[simp] theorem State.setCause_board (c : Cause) : (s.setCause c).board = s.board := rfl
@[simp] theorem State.setCause_engine (c : Cause) : (s.setCause c).engine = s.engine := rfl
@[simp] theorem State.setCause_air (c : Cause) : (s.setCause c).air = s.air := rfl
@[simp] theorem State.setCause_coupling (c : Cause) : (s.setCause c).coupling = s.coupling := rfl
@[simp] theorem State.setCause_params (c : Cause) : (s.setCause c).params = s.params := rfl
@[simp] theorem State.setCause_spares (c : Cause) : (s.setCause c).spares = s.spares := rfl
@[simp] theorem State.setCause_cache (c : Cause) : (s.setCause c).cache = s.cache := rfl
@[simp] theorem State.setCause_alt (c : Cause) : (s.setCause c).alt = s.alt := rfl
@[simp] theorem State.setCause_bins (c : Cause) : (s.setCause c).bins = s.bins := rfl
@[simp] theorem State.setCause_band (c : Cause) : (s.setCause c).band = s.band := rfl
@[simp] theorem State.setCause_occThreshold (c : Cause) : (s.setCause c).occThreshold = s.occThreshold := rfl
@[simp] theorem State.setCause_sweep (c : Cause) : (s.setCause c).sweep = s.sweep := rfl
@[simp] theorem State.setCause_tuner (c : Cause) : (s.setCause c).tuner = s.tuner := rfl
@[simp] theorem State.setCause_lines (c : Cause) : (s.setCause c).lines = s.lines := rfl
@[simp] theorem State.setCause_watch (c : Cause) : (s.setCause c).watch = s.watch := rfl
@[simp] theorem State.setCause_swapAnswers (c : Cause) : (s.setCause c).swapAnswers = s.swapAnswers := rfl
@[simp] theorem State.setCause_status (c : Cause) : (s.setCause c).status = s.status := rfl
@[simp] theorem State.setCause_paces (c : Cause) : (s.setCause c).paces = s.paces := rfl

/-! ### `clearCauses` -/

@[simp] theorem State.clearCauses_pending (v : Word) : (s.clearCauses v).pending = s.pending := rfl
@[simp] theorem State.clearCauses_run (v : Word) : (s.clearCauses v).run = s.run := rfl
@[simp] theorem State.clearCauses_runBit (v : Word) : (s.clearCauses v).runBit = s.runBit := rfl
@[simp] theorem State.clearCauses_anchor (v : Word) : (s.clearCauses v).anchor = s.anchor := rfl
@[simp] theorem State.clearCauses_intEnable (v : Word) : (s.clearCauses v).intEnable = s.intEnable := rfl
@[simp] theorem State.clearCauses_causes (v : Word) : (s.clearCauses v).causes = s.causes &&& ~~~ (v.extractLsb' 8 7) := rfl
@[simp] theorem State.clearCauses_fault (v : Word) : (s.clearCauses v).fault = s.fault := rfl
@[simp] theorem State.clearCauses_latch (v : Word) : (s.clearCauses v).latch = s.latch := rfl
@[simp] theorem State.clearCauses_windows (v : Word) : (s.clearCauses v).windows = s.windows := rfl
@[simp] theorem State.clearCauses_rewrite (v : Word) : (s.clearCauses v).rewrite = s.rewrite := rfl
@[simp] theorem State.clearCauses_mem (v : Word) : (s.clearCauses v).mem = s.mem := rfl
@[simp] theorem State.clearCauses_port (v : Word) : (s.clearCauses v).port = s.port := rfl
@[simp] theorem State.clearCauses_mail (v : Word) : (s.clearCauses v).mail = s.mail := rfl
@[simp] theorem State.clearCauses_settings (v : Word) : (s.clearCauses v).settings = s.settings := rfl
@[simp] theorem State.clearCauses_board (v : Word) : (s.clearCauses v).board = s.board := rfl
@[simp] theorem State.clearCauses_engine (v : Word) : (s.clearCauses v).engine = s.engine := rfl
@[simp] theorem State.clearCauses_air (v : Word) : (s.clearCauses v).air = s.air := rfl
@[simp] theorem State.clearCauses_coupling (v : Word) : (s.clearCauses v).coupling = s.coupling := rfl
@[simp] theorem State.clearCauses_params (v : Word) : (s.clearCauses v).params = s.params := rfl
@[simp] theorem State.clearCauses_spares (v : Word) : (s.clearCauses v).spares = s.spares := rfl
@[simp] theorem State.clearCauses_cache (v : Word) : (s.clearCauses v).cache = s.cache := rfl
@[simp] theorem State.clearCauses_alt (v : Word) : (s.clearCauses v).alt = s.alt := rfl
@[simp] theorem State.clearCauses_bins (v : Word) : (s.clearCauses v).bins = s.bins := rfl
@[simp] theorem State.clearCauses_band (v : Word) : (s.clearCauses v).band = s.band := rfl
@[simp] theorem State.clearCauses_occThreshold (v : Word) : (s.clearCauses v).occThreshold = s.occThreshold := rfl
@[simp] theorem State.clearCauses_sweep (v : Word) : (s.clearCauses v).sweep = s.sweep := rfl
@[simp] theorem State.clearCauses_tuner (v : Word) : (s.clearCauses v).tuner = s.tuner := rfl
@[simp] theorem State.clearCauses_lines (v : Word) : (s.clearCauses v).lines = s.lines := rfl
@[simp] theorem State.clearCauses_watch (v : Word) : (s.clearCauses v).watch = s.watch := rfl
@[simp] theorem State.clearCauses_swapAnswers (v : Word) : (s.clearCauses v).swapAnswers = s.swapAnswers := rfl
@[simp] theorem State.clearCauses_status (v : Word) : (s.clearCauses v).status = s.status := rfl
@[simp] theorem State.clearCauses_paces (v : Word) : (s.clearCauses v).paces = s.paces := rfl

/-! ### `setMail` -/

@[simp] theorem State.setMail_pending (o : Owner) (a : Option Answer) : (s.setMail o a).pending = s.pending := rfl
@[simp] theorem State.setMail_run (o : Owner) (a : Option Answer) : (s.setMail o a).run = s.run := rfl
@[simp] theorem State.setMail_runBit (o : Owner) (a : Option Answer) : (s.setMail o a).runBit = s.runBit := rfl
@[simp] theorem State.setMail_anchor (o : Owner) (a : Option Answer) : (s.setMail o a).anchor = s.anchor := rfl
@[simp] theorem State.setMail_intEnable (o : Owner) (a : Option Answer) : (s.setMail o a).intEnable = s.intEnable := rfl
@[simp] theorem State.setMail_causes (o : Owner) (a : Option Answer) : (s.setMail o a).causes = s.causes := rfl
@[simp] theorem State.setMail_fault (o : Owner) (a : Option Answer) : (s.setMail o a).fault = s.fault := rfl
@[simp] theorem State.setMail_latch (o : Owner) (a : Option Answer) : (s.setMail o a).latch = s.latch := rfl
@[simp] theorem State.setMail_windows (o : Owner) (a : Option Answer) : (s.setMail o a).windows = s.windows := rfl
@[simp] theorem State.setMail_rewrite (o : Owner) (a : Option Answer) : (s.setMail o a).rewrite = s.rewrite := rfl
@[simp] theorem State.setMail_mem (o : Owner) (a : Option Answer) : (s.setMail o a).mem = s.mem := rfl
@[simp] theorem State.setMail_port (o : Owner) (a : Option Answer) : (s.setMail o a).port = s.port := rfl
@[simp] theorem State.setMail_mail (o : Owner) (a : Option Answer) : (s.setMail o a).mail = s.mail.put o a := rfl
@[simp] theorem State.setMail_settings (o : Owner) (a : Option Answer) : (s.setMail o a).settings = s.settings := rfl
@[simp] theorem State.setMail_board (o : Owner) (a : Option Answer) : (s.setMail o a).board = s.board := rfl
@[simp] theorem State.setMail_engine (o : Owner) (a : Option Answer) : (s.setMail o a).engine = s.engine := rfl
@[simp] theorem State.setMail_air (o : Owner) (a : Option Answer) : (s.setMail o a).air = s.air := rfl
@[simp] theorem State.setMail_coupling (o : Owner) (a : Option Answer) : (s.setMail o a).coupling = s.coupling := rfl
@[simp] theorem State.setMail_params (o : Owner) (a : Option Answer) : (s.setMail o a).params = s.params := rfl
@[simp] theorem State.setMail_spares (o : Owner) (a : Option Answer) : (s.setMail o a).spares = s.spares := rfl
@[simp] theorem State.setMail_cache (o : Owner) (a : Option Answer) : (s.setMail o a).cache = s.cache := rfl
@[simp] theorem State.setMail_alt (o : Owner) (a : Option Answer) : (s.setMail o a).alt = s.alt := rfl
@[simp] theorem State.setMail_bins (o : Owner) (a : Option Answer) : (s.setMail o a).bins = s.bins := rfl
@[simp] theorem State.setMail_band (o : Owner) (a : Option Answer) : (s.setMail o a).band = s.band := rfl
@[simp] theorem State.setMail_occThreshold (o : Owner) (a : Option Answer) : (s.setMail o a).occThreshold = s.occThreshold := rfl
@[simp] theorem State.setMail_sweep (o : Owner) (a : Option Answer) : (s.setMail o a).sweep = s.sweep := rfl
@[simp] theorem State.setMail_tuner (o : Owner) (a : Option Answer) : (s.setMail o a).tuner = s.tuner := rfl
@[simp] theorem State.setMail_lines (o : Owner) (a : Option Answer) : (s.setMail o a).lines = s.lines := rfl
@[simp] theorem State.setMail_watch (o : Owner) (a : Option Answer) : (s.setMail o a).watch = s.watch := rfl
@[simp] theorem State.setMail_swapAnswers (o : Owner) (a : Option Answer) : (s.setMail o a).swapAnswers = s.swapAnswers := rfl
@[simp] theorem State.setMail_status (o : Owner) (a : Option Answer) : (s.setMail o a).status = s.status := rfl
@[simp] theorem State.setMail_paces (o : Owner) (a : Option Answer) : (s.setMail o a).paces = s.paces := rfl

/-! ### `setBin` -/

@[simp] theorem State.setBin_pending (b : Nat) (v : Bin) : (s.setBin b v).pending = s.pending := rfl
@[simp] theorem State.setBin_run (b : Nat) (v : Bin) : (s.setBin b v).run = s.run := rfl
@[simp] theorem State.setBin_runBit (b : Nat) (v : Bin) : (s.setBin b v).runBit = s.runBit := rfl
@[simp] theorem State.setBin_anchor (b : Nat) (v : Bin) : (s.setBin b v).anchor = s.anchor := rfl
@[simp] theorem State.setBin_intEnable (b : Nat) (v : Bin) : (s.setBin b v).intEnable = s.intEnable := rfl
@[simp] theorem State.setBin_causes (b : Nat) (v : Bin) : (s.setBin b v).causes = s.causes := rfl
@[simp] theorem State.setBin_fault (b : Nat) (v : Bin) : (s.setBin b v).fault = s.fault := rfl
@[simp] theorem State.setBin_latch (b : Nat) (v : Bin) : (s.setBin b v).latch = s.latch := rfl
@[simp] theorem State.setBin_windows (b : Nat) (v : Bin) : (s.setBin b v).windows = s.windows := rfl
@[simp] theorem State.setBin_rewrite (b : Nat) (v : Bin) : (s.setBin b v).rewrite = s.rewrite := rfl
@[simp] theorem State.setBin_mem (b : Nat) (v : Bin) : (s.setBin b v).mem = s.mem := rfl
@[simp] theorem State.setBin_port (b : Nat) (v : Bin) : (s.setBin b v).port = s.port := rfl
@[simp] theorem State.setBin_mail (b : Nat) (v : Bin) : (s.setBin b v).mail = s.mail := rfl
@[simp] theorem State.setBin_settings (b : Nat) (v : Bin) : (s.setBin b v).settings = s.settings := rfl
@[simp] theorem State.setBin_board (b : Nat) (v : Bin) : (s.setBin b v).board = s.board := rfl
@[simp] theorem State.setBin_engine (b : Nat) (v : Bin) : (s.setBin b v).engine = s.engine := rfl
@[simp] theorem State.setBin_air (b : Nat) (v : Bin) : (s.setBin b v).air = s.air := rfl
@[simp] theorem State.setBin_coupling (b : Nat) (v : Bin) : (s.setBin b v).coupling = s.coupling := rfl
@[simp] theorem State.setBin_params (b : Nat) (v : Bin) : (s.setBin b v).params = s.params := rfl
@[simp] theorem State.setBin_spares (b : Nat) (v : Bin) : (s.setBin b v).spares = s.spares := rfl
@[simp] theorem State.setBin_cache (b : Nat) (v : Bin) : (s.setBin b v).cache = s.cache := rfl
@[simp] theorem State.setBin_alt (b : Nat) (v : Bin) : (s.setBin b v).alt = s.alt := rfl
@[simp] theorem State.setBin_bins (b : Nat) (v : Bin) : (s.setBin b v).bins = sparseSet Bin.reset s.bins b v := rfl
@[simp] theorem State.setBin_band (b : Nat) (v : Bin) : (s.setBin b v).band = s.band := rfl
@[simp] theorem State.setBin_occThreshold (b : Nat) (v : Bin) : (s.setBin b v).occThreshold = s.occThreshold := rfl
@[simp] theorem State.setBin_sweep (b : Nat) (v : Bin) : (s.setBin b v).sweep = s.sweep := rfl
@[simp] theorem State.setBin_tuner (b : Nat) (v : Bin) : (s.setBin b v).tuner = s.tuner := rfl
@[simp] theorem State.setBin_lines (b : Nat) (v : Bin) : (s.setBin b v).lines = s.lines := rfl
@[simp] theorem State.setBin_watch (b : Nat) (v : Bin) : (s.setBin b v).watch = s.watch := rfl
@[simp] theorem State.setBin_swapAnswers (b : Nat) (v : Bin) : (s.setBin b v).swapAnswers = s.swapAnswers := rfl
@[simp] theorem State.setBin_status (b : Nat) (v : Bin) : (s.setBin b v).status = s.status := rfl
@[simp] theorem State.setBin_paces (b : Nat) (v : Bin) : (s.setBin b v).paces = s.paces := rfl

/-! ### `setLine` -/

@[simp] theorem State.setLine_pending (k : Fin 4) (l : Line) : (s.setLine k l).pending = s.pending := rfl
@[simp] theorem State.setLine_run (k : Fin 4) (l : Line) : (s.setLine k l).run = s.run := rfl
@[simp] theorem State.setLine_runBit (k : Fin 4) (l : Line) : (s.setLine k l).runBit = s.runBit := rfl
@[simp] theorem State.setLine_anchor (k : Fin 4) (l : Line) : (s.setLine k l).anchor = s.anchor := rfl
@[simp] theorem State.setLine_intEnable (k : Fin 4) (l : Line) : (s.setLine k l).intEnable = s.intEnable := rfl
@[simp] theorem State.setLine_causes (k : Fin 4) (l : Line) : (s.setLine k l).causes = s.causes := rfl
@[simp] theorem State.setLine_fault (k : Fin 4) (l : Line) : (s.setLine k l).fault = s.fault := rfl
@[simp] theorem State.setLine_latch (k : Fin 4) (l : Line) : (s.setLine k l).latch = s.latch := rfl
@[simp] theorem State.setLine_windows (k : Fin 4) (l : Line) : (s.setLine k l).windows = s.windows := rfl
@[simp] theorem State.setLine_rewrite (k : Fin 4) (l : Line) : (s.setLine k l).rewrite = s.rewrite := rfl
@[simp] theorem State.setLine_mem (k : Fin 4) (l : Line) : (s.setLine k l).mem = s.mem := rfl
@[simp] theorem State.setLine_port (k : Fin 4) (l : Line) : (s.setLine k l).port = s.port := rfl
@[simp] theorem State.setLine_mail (k : Fin 4) (l : Line) : (s.setLine k l).mail = s.mail := rfl
@[simp] theorem State.setLine_settings (k : Fin 4) (l : Line) : (s.setLine k l).settings = s.settings := rfl
@[simp] theorem State.setLine_board (k : Fin 4) (l : Line) : (s.setLine k l).board = s.board := rfl
@[simp] theorem State.setLine_engine (k : Fin 4) (l : Line) : (s.setLine k l).engine = s.engine := rfl
@[simp] theorem State.setLine_air (k : Fin 4) (l : Line) : (s.setLine k l).air = s.air := rfl
@[simp] theorem State.setLine_coupling (k : Fin 4) (l : Line) : (s.setLine k l).coupling = s.coupling := rfl
@[simp] theorem State.setLine_params (k : Fin 4) (l : Line) : (s.setLine k l).params = s.params := rfl
@[simp] theorem State.setLine_spares (k : Fin 4) (l : Line) : (s.setLine k l).spares = s.spares := rfl
@[simp] theorem State.setLine_cache (k : Fin 4) (l : Line) : (s.setLine k l).cache = s.cache := rfl
@[simp] theorem State.setLine_alt (k : Fin 4) (l : Line) : (s.setLine k l).alt = s.alt := rfl
@[simp] theorem State.setLine_bins (k : Fin 4) (l : Line) : (s.setLine k l).bins = s.bins := rfl
@[simp] theorem State.setLine_band (k : Fin 4) (l : Line) : (s.setLine k l).band = s.band := rfl
@[simp] theorem State.setLine_occThreshold (k : Fin 4) (l : Line) : (s.setLine k l).occThreshold = s.occThreshold := rfl
@[simp] theorem State.setLine_sweep (k : Fin 4) (l : Line) : (s.setLine k l).sweep = s.sweep := rfl
@[simp] theorem State.setLine_tuner (k : Fin 4) (l : Line) : (s.setLine k l).tuner = s.tuner := rfl
@[simp] theorem State.setLine_lines (k : Fin 4) (l : Line) : (s.setLine k l).lines = s.lines.set k.val l k.isLt := rfl
@[simp] theorem State.setLine_watch (k : Fin 4) (l : Line) : (s.setLine k l).watch = s.watch := rfl
@[simp] theorem State.setLine_swapAnswers (k : Fin 4) (l : Line) : (s.setLine k l).swapAnswers = s.swapAnswers := rfl
@[simp] theorem State.setLine_status (k : Fin 4) (l : Line) : (s.setLine k l).status = s.status := rfl
@[simp] theorem State.setLine_paces (k : Fin 4) (l : Line) : (s.setLine k l).paces = s.paces := rfl

/-! ### `onLine` -/

@[simp] theorem State.onLine_pending (k : Fin 4) (f : Line → Line) : (s.onLine k f).pending = s.pending := rfl
@[simp] theorem State.onLine_run (k : Fin 4) (f : Line → Line) : (s.onLine k f).run = s.run := rfl
@[simp] theorem State.onLine_runBit (k : Fin 4) (f : Line → Line) : (s.onLine k f).runBit = s.runBit := rfl
@[simp] theorem State.onLine_anchor (k : Fin 4) (f : Line → Line) : (s.onLine k f).anchor = s.anchor := rfl
@[simp] theorem State.onLine_intEnable (k : Fin 4) (f : Line → Line) : (s.onLine k f).intEnable = s.intEnable := rfl
@[simp] theorem State.onLine_causes (k : Fin 4) (f : Line → Line) : (s.onLine k f).causes = s.causes := rfl
@[simp] theorem State.onLine_fault (k : Fin 4) (f : Line → Line) : (s.onLine k f).fault = s.fault := rfl
@[simp] theorem State.onLine_latch (k : Fin 4) (f : Line → Line) : (s.onLine k f).latch = s.latch := rfl
@[simp] theorem State.onLine_windows (k : Fin 4) (f : Line → Line) : (s.onLine k f).windows = s.windows := rfl
@[simp] theorem State.onLine_rewrite (k : Fin 4) (f : Line → Line) : (s.onLine k f).rewrite = s.rewrite := rfl
@[simp] theorem State.onLine_mem (k : Fin 4) (f : Line → Line) : (s.onLine k f).mem = s.mem := rfl
@[simp] theorem State.onLine_port (k : Fin 4) (f : Line → Line) : (s.onLine k f).port = s.port := rfl
@[simp] theorem State.onLine_mail (k : Fin 4) (f : Line → Line) : (s.onLine k f).mail = s.mail := rfl
@[simp] theorem State.onLine_settings (k : Fin 4) (f : Line → Line) : (s.onLine k f).settings = s.settings := rfl
@[simp] theorem State.onLine_board (k : Fin 4) (f : Line → Line) : (s.onLine k f).board = s.board := rfl
@[simp] theorem State.onLine_engine (k : Fin 4) (f : Line → Line) : (s.onLine k f).engine = s.engine := rfl
@[simp] theorem State.onLine_air (k : Fin 4) (f : Line → Line) : (s.onLine k f).air = s.air := rfl
@[simp] theorem State.onLine_coupling (k : Fin 4) (f : Line → Line) : (s.onLine k f).coupling = s.coupling := rfl
@[simp] theorem State.onLine_params (k : Fin 4) (f : Line → Line) : (s.onLine k f).params = s.params := rfl
@[simp] theorem State.onLine_spares (k : Fin 4) (f : Line → Line) : (s.onLine k f).spares = s.spares := rfl
@[simp] theorem State.onLine_cache (k : Fin 4) (f : Line → Line) : (s.onLine k f).cache = s.cache := rfl
@[simp] theorem State.onLine_alt (k : Fin 4) (f : Line → Line) : (s.onLine k f).alt = s.alt := rfl
@[simp] theorem State.onLine_bins (k : Fin 4) (f : Line → Line) : (s.onLine k f).bins = s.bins := rfl
@[simp] theorem State.onLine_band (k : Fin 4) (f : Line → Line) : (s.onLine k f).band = s.band := rfl
@[simp] theorem State.onLine_occThreshold (k : Fin 4) (f : Line → Line) : (s.onLine k f).occThreshold = s.occThreshold := rfl
@[simp] theorem State.onLine_sweep (k : Fin 4) (f : Line → Line) : (s.onLine k f).sweep = s.sweep := rfl
@[simp] theorem State.onLine_tuner (k : Fin 4) (f : Line → Line) : (s.onLine k f).tuner = s.tuner := rfl
@[simp] theorem State.onLine_lines (k : Fin 4) (f : Line → Line) : (s.onLine k f).lines = s.lines.set k.val (f (s.line k)) k.isLt := rfl
@[simp] theorem State.onLine_watch (k : Fin 4) (f : Line → Line) : (s.onLine k f).watch = s.watch := rfl
@[simp] theorem State.onLine_swapAnswers (k : Fin 4) (f : Line → Line) : (s.onLine k f).swapAnswers = s.swapAnswers := rfl
@[simp] theorem State.onLine_status (k : Fin 4) (f : Line → Line) : (s.onLine k f).status = s.status := rfl
@[simp] theorem State.onLine_paces (k : Fin 4) (f : Line → Line) : (s.onLine k f).paces = s.paces := rfl

/-! ### `changeEntry` -/

@[simp] theorem State.changeEntry_pending (id : Nat) (f : AirEntry → AirEntry) : (s.changeEntry id f).pending = s.pending := rfl
@[simp] theorem State.changeEntry_run (id : Nat) (f : AirEntry → AirEntry) : (s.changeEntry id f).run = s.run := rfl
@[simp] theorem State.changeEntry_runBit (id : Nat) (f : AirEntry → AirEntry) : (s.changeEntry id f).runBit = s.runBit := rfl
@[simp] theorem State.changeEntry_anchor (id : Nat) (f : AirEntry → AirEntry) : (s.changeEntry id f).anchor = s.anchor := rfl
@[simp] theorem State.changeEntry_intEnable (id : Nat) (f : AirEntry → AirEntry) : (s.changeEntry id f).intEnable = s.intEnable := rfl
@[simp] theorem State.changeEntry_causes (id : Nat) (f : AirEntry → AirEntry) : (s.changeEntry id f).causes = s.causes := rfl
@[simp] theorem State.changeEntry_fault (id : Nat) (f : AirEntry → AirEntry) : (s.changeEntry id f).fault = s.fault := rfl
@[simp] theorem State.changeEntry_latch (id : Nat) (f : AirEntry → AirEntry) : (s.changeEntry id f).latch = s.latch := rfl
@[simp] theorem State.changeEntry_windows (id : Nat) (f : AirEntry → AirEntry) : (s.changeEntry id f).windows = s.windows := rfl
@[simp] theorem State.changeEntry_rewrite (id : Nat) (f : AirEntry → AirEntry) : (s.changeEntry id f).rewrite = s.rewrite := rfl
@[simp] theorem State.changeEntry_mem (id : Nat) (f : AirEntry → AirEntry) : (s.changeEntry id f).mem = s.mem := rfl
@[simp] theorem State.changeEntry_port (id : Nat) (f : AirEntry → AirEntry) : (s.changeEntry id f).port = s.port := rfl
@[simp] theorem State.changeEntry_mail (id : Nat) (f : AirEntry → AirEntry) : (s.changeEntry id f).mail = s.mail := rfl
@[simp] theorem State.changeEntry_settings (id : Nat) (f : AirEntry → AirEntry) : (s.changeEntry id f).settings = s.settings := rfl
@[simp] theorem State.changeEntry_board (id : Nat) (f : AirEntry → AirEntry) : (s.changeEntry id f).board = s.board := rfl
@[simp] theorem State.changeEntry_engine (id : Nat) (f : AirEntry → AirEntry) : (s.changeEntry id f).engine = s.engine := rfl
@[simp] theorem State.changeEntry_air (id : Nat) (f : AirEntry → AirEntry) : (s.changeEntry id f).air = s.air.map fun e => if e.id = id then f e else e := rfl
@[simp] theorem State.changeEntry_coupling (id : Nat) (f : AirEntry → AirEntry) : (s.changeEntry id f).coupling = s.coupling := rfl
@[simp] theorem State.changeEntry_params (id : Nat) (f : AirEntry → AirEntry) : (s.changeEntry id f).params = s.params := rfl
@[simp] theorem State.changeEntry_spares (id : Nat) (f : AirEntry → AirEntry) : (s.changeEntry id f).spares = s.spares := rfl
@[simp] theorem State.changeEntry_cache (id : Nat) (f : AirEntry → AirEntry) : (s.changeEntry id f).cache = s.cache := rfl
@[simp] theorem State.changeEntry_alt (id : Nat) (f : AirEntry → AirEntry) : (s.changeEntry id f).alt = s.alt := rfl
@[simp] theorem State.changeEntry_bins (id : Nat) (f : AirEntry → AirEntry) : (s.changeEntry id f).bins = s.bins := rfl
@[simp] theorem State.changeEntry_band (id : Nat) (f : AirEntry → AirEntry) : (s.changeEntry id f).band = s.band := rfl
@[simp] theorem State.changeEntry_occThreshold (id : Nat) (f : AirEntry → AirEntry) : (s.changeEntry id f).occThreshold = s.occThreshold := rfl
@[simp] theorem State.changeEntry_sweep (id : Nat) (f : AirEntry → AirEntry) : (s.changeEntry id f).sweep = s.sweep := rfl
@[simp] theorem State.changeEntry_tuner (id : Nat) (f : AirEntry → AirEntry) : (s.changeEntry id f).tuner = s.tuner := rfl
@[simp] theorem State.changeEntry_lines (id : Nat) (f : AirEntry → AirEntry) : (s.changeEntry id f).lines = s.lines := rfl
@[simp] theorem State.changeEntry_watch (id : Nat) (f : AirEntry → AirEntry) : (s.changeEntry id f).watch = s.watch := rfl
@[simp] theorem State.changeEntry_swapAnswers (id : Nat) (f : AirEntry → AirEntry) : (s.changeEntry id f).swapAnswers = s.swapAnswers := rfl
@[simp] theorem State.changeEntry_status (id : Nat) (f : AirEntry → AirEntry) : (s.changeEntry id f).status = s.status := rfl
@[simp] theorem State.changeEntry_paces (id : Nat) (f : AirEntry → AirEntry) : (s.changeEntry id f).paces = s.paces := rfl

/-! ### `dropEntry` -/

@[simp] theorem State.dropEntry_pending (id : Nat) : (s.dropEntry id).pending = s.pending := rfl
@[simp] theorem State.dropEntry_run (id : Nat) : (s.dropEntry id).run = s.run := rfl
@[simp] theorem State.dropEntry_runBit (id : Nat) : (s.dropEntry id).runBit = s.runBit := rfl
@[simp] theorem State.dropEntry_anchor (id : Nat) : (s.dropEntry id).anchor = s.anchor := rfl
@[simp] theorem State.dropEntry_intEnable (id : Nat) : (s.dropEntry id).intEnable = s.intEnable := rfl
@[simp] theorem State.dropEntry_causes (id : Nat) : (s.dropEntry id).causes = s.causes := rfl
@[simp] theorem State.dropEntry_fault (id : Nat) : (s.dropEntry id).fault = s.fault := rfl
@[simp] theorem State.dropEntry_latch (id : Nat) : (s.dropEntry id).latch = s.latch := rfl
@[simp] theorem State.dropEntry_windows (id : Nat) : (s.dropEntry id).windows = s.windows := rfl
@[simp] theorem State.dropEntry_rewrite (id : Nat) : (s.dropEntry id).rewrite = s.rewrite := rfl
@[simp] theorem State.dropEntry_mem (id : Nat) : (s.dropEntry id).mem = s.mem := rfl
@[simp] theorem State.dropEntry_port (id : Nat) : (s.dropEntry id).port = s.port := rfl
@[simp] theorem State.dropEntry_mail (id : Nat) : (s.dropEntry id).mail = s.mail := rfl
@[simp] theorem State.dropEntry_settings (id : Nat) : (s.dropEntry id).settings = s.settings := rfl
@[simp] theorem State.dropEntry_board (id : Nat) : (s.dropEntry id).board = s.board := rfl
@[simp] theorem State.dropEntry_engine (id : Nat) : (s.dropEntry id).engine = s.engine := rfl
@[simp] theorem State.dropEntry_air (id : Nat) : (s.dropEntry id).air = airRemove id s.air := rfl
@[simp] theorem State.dropEntry_coupling (id : Nat) : (s.dropEntry id).coupling = s.coupling := rfl
@[simp] theorem State.dropEntry_params (id : Nat) : (s.dropEntry id).params = s.params := rfl
@[simp] theorem State.dropEntry_spares (id : Nat) : (s.dropEntry id).spares = s.spares := rfl
@[simp] theorem State.dropEntry_cache (id : Nat) : (s.dropEntry id).cache = s.cache := rfl
@[simp] theorem State.dropEntry_alt (id : Nat) : (s.dropEntry id).alt = s.alt := rfl
@[simp] theorem State.dropEntry_bins (id : Nat) : (s.dropEntry id).bins = s.bins := rfl
@[simp] theorem State.dropEntry_band (id : Nat) : (s.dropEntry id).band = s.band := rfl
@[simp] theorem State.dropEntry_occThreshold (id : Nat) : (s.dropEntry id).occThreshold = s.occThreshold := rfl
@[simp] theorem State.dropEntry_sweep (id : Nat) : (s.dropEntry id).sweep = s.sweep := rfl
@[simp] theorem State.dropEntry_tuner (id : Nat) : (s.dropEntry id).tuner = s.tuner := rfl
@[simp] theorem State.dropEntry_lines (id : Nat) : (s.dropEntry id).lines = s.lines := rfl
@[simp] theorem State.dropEntry_watch (id : Nat) : (s.dropEntry id).watch = s.watch := rfl
@[simp] theorem State.dropEntry_swapAnswers (id : Nat) : (s.dropEntry id).swapAnswers = s.swapAnswers := rfl
@[simp] theorem State.dropEntry_status (id : Nat) : (s.dropEntry id).status = s.status := rfl
@[simp] theorem State.dropEntry_paces (id : Nat) : (s.dropEntry id).paces = s.paces := rfl

/-! ### `onRec` -/

@[simp] theorem State.onRec_pending (id : Nat) (f : WatchRec → WatchRec) : (s.onRec id f).pending = s.pending := rfl
@[simp] theorem State.onRec_run (id : Nat) (f : WatchRec → WatchRec) : (s.onRec id f).run = s.run := rfl
@[simp] theorem State.onRec_runBit (id : Nat) (f : WatchRec → WatchRec) : (s.onRec id f).runBit = s.runBit := rfl
@[simp] theorem State.onRec_anchor (id : Nat) (f : WatchRec → WatchRec) : (s.onRec id f).anchor = s.anchor := rfl
@[simp] theorem State.onRec_intEnable (id : Nat) (f : WatchRec → WatchRec) : (s.onRec id f).intEnable = s.intEnable := rfl
@[simp] theorem State.onRec_causes (id : Nat) (f : WatchRec → WatchRec) : (s.onRec id f).causes = s.causes := rfl
@[simp] theorem State.onRec_fault (id : Nat) (f : WatchRec → WatchRec) : (s.onRec id f).fault = s.fault := rfl
@[simp] theorem State.onRec_latch (id : Nat) (f : WatchRec → WatchRec) : (s.onRec id f).latch = s.latch := rfl
@[simp] theorem State.onRec_windows (id : Nat) (f : WatchRec → WatchRec) : (s.onRec id f).windows = s.windows := rfl
@[simp] theorem State.onRec_rewrite (id : Nat) (f : WatchRec → WatchRec) : (s.onRec id f).rewrite = s.rewrite := rfl
@[simp] theorem State.onRec_mem (id : Nat) (f : WatchRec → WatchRec) : (s.onRec id f).mem = s.mem := rfl
@[simp] theorem State.onRec_port (id : Nat) (f : WatchRec → WatchRec) : (s.onRec id f).port = s.port := rfl
@[simp] theorem State.onRec_mail (id : Nat) (f : WatchRec → WatchRec) : (s.onRec id f).mail = s.mail := rfl
@[simp] theorem State.onRec_settings (id : Nat) (f : WatchRec → WatchRec) : (s.onRec id f).settings = s.settings := rfl
@[simp] theorem State.onRec_board (id : Nat) (f : WatchRec → WatchRec) : (s.onRec id f).board = s.board := rfl
@[simp] theorem State.onRec_engine (id : Nat) (f : WatchRec → WatchRec) : (s.onRec id f).engine = s.engine := rfl
@[simp] theorem State.onRec_air (id : Nat) (f : WatchRec → WatchRec) : (s.onRec id f).air = s.air := rfl
@[simp] theorem State.onRec_coupling (id : Nat) (f : WatchRec → WatchRec) : (s.onRec id f).coupling = s.coupling := rfl
@[simp] theorem State.onRec_params (id : Nat) (f : WatchRec → WatchRec) : (s.onRec id f).params = s.params := rfl
@[simp] theorem State.onRec_spares (id : Nat) (f : WatchRec → WatchRec) : (s.onRec id f).spares = s.spares := rfl
@[simp] theorem State.onRec_cache (id : Nat) (f : WatchRec → WatchRec) : (s.onRec id f).cache = s.cache := rfl
@[simp] theorem State.onRec_alt (id : Nat) (f : WatchRec → WatchRec) : (s.onRec id f).alt = s.alt := rfl
@[simp] theorem State.onRec_bins (id : Nat) (f : WatchRec → WatchRec) : (s.onRec id f).bins = s.bins := rfl
@[simp] theorem State.onRec_band (id : Nat) (f : WatchRec → WatchRec) : (s.onRec id f).band = s.band := rfl
@[simp] theorem State.onRec_occThreshold (id : Nat) (f : WatchRec → WatchRec) : (s.onRec id f).occThreshold = s.occThreshold := rfl
@[simp] theorem State.onRec_sweep (id : Nat) (f : WatchRec → WatchRec) : (s.onRec id f).sweep = s.sweep := rfl
@[simp] theorem State.onRec_tuner (id : Nat) (f : WatchRec → WatchRec) : (s.onRec id f).tuner = s.tuner := rfl
@[simp] theorem State.onRec_lines (id : Nat) (f : WatchRec → WatchRec) : (s.onRec id f).lines = s.lines := rfl
@[simp] theorem State.onRec_watch (id : Nat) (f : WatchRec → WatchRec) : (s.onRec id f).watch = { s.watch with records := s.watch.records.map fun r => if r.id = id then f r else r } := rfl
@[simp] theorem State.onRec_swapAnswers (id : Nat) (f : WatchRec → WatchRec) : (s.onRec id f).swapAnswers = s.swapAnswers := rfl
@[simp] theorem State.onRec_status (id : Nat) (f : WatchRec → WatchRec) : (s.onRec id f).status = s.status := rfl
@[simp] theorem State.onRec_paces (id : Nat) (f : WatchRec → WatchRec) : (s.onRec id f).paces = s.paces := rfl

/-! ### `holdTune` -/

@[simp] theorem State.holdTune_pending (k : Fin 4) (t : Tune) : (s.holdTune k t).pending = s.pending := rfl
@[simp] theorem State.holdTune_run (k : Fin 4) (t : Tune) : (s.holdTune k t).run = s.run := rfl
@[simp] theorem State.holdTune_runBit (k : Fin 4) (t : Tune) : (s.holdTune k t).runBit = s.runBit := rfl
@[simp] theorem State.holdTune_anchor (k : Fin 4) (t : Tune) : (s.holdTune k t).anchor = s.anchor := rfl
@[simp] theorem State.holdTune_intEnable (k : Fin 4) (t : Tune) : (s.holdTune k t).intEnable = s.intEnable := rfl
@[simp] theorem State.holdTune_causes (k : Fin 4) (t : Tune) : (s.holdTune k t).causes = s.causes := rfl
@[simp] theorem State.holdTune_fault (k : Fin 4) (t : Tune) : (s.holdTune k t).fault = s.fault := rfl
@[simp] theorem State.holdTune_latch (k : Fin 4) (t : Tune) : (s.holdTune k t).latch = s.latch := rfl
@[simp] theorem State.holdTune_windows (k : Fin 4) (t : Tune) : (s.holdTune k t).windows = s.windows := rfl
@[simp] theorem State.holdTune_rewrite (k : Fin 4) (t : Tune) : (s.holdTune k t).rewrite = s.rewrite := rfl
@[simp] theorem State.holdTune_mem (k : Fin 4) (t : Tune) : (s.holdTune k t).mem = s.mem := rfl
@[simp] theorem State.holdTune_port (k : Fin 4) (t : Tune) : (s.holdTune k t).port = s.port := rfl
@[simp] theorem State.holdTune_mail (k : Fin 4) (t : Tune) : (s.holdTune k t).mail = s.mail := rfl
@[simp] theorem State.holdTune_settings (k : Fin 4) (t : Tune) : (s.holdTune k t).settings = s.settings := rfl
@[simp] theorem State.holdTune_board (k : Fin 4) (t : Tune) : (s.holdTune k t).board = s.board := rfl
@[simp] theorem State.holdTune_engine (k : Fin 4) (t : Tune) : (s.holdTune k t).engine = s.engine := rfl
@[simp] theorem State.holdTune_air (k : Fin 4) (t : Tune) : (s.holdTune k t).air = s.air := rfl
@[simp] theorem State.holdTune_coupling (k : Fin 4) (t : Tune) : (s.holdTune k t).coupling = s.coupling := rfl
@[simp] theorem State.holdTune_params (k : Fin 4) (t : Tune) : (s.holdTune k t).params = s.params := rfl
@[simp] theorem State.holdTune_spares (k : Fin 4) (t : Tune) : (s.holdTune k t).spares = s.spares := rfl
@[simp] theorem State.holdTune_cache (k : Fin 4) (t : Tune) : (s.holdTune k t).cache = s.cache := rfl
@[simp] theorem State.holdTune_alt (k : Fin 4) (t : Tune) : (s.holdTune k t).alt = s.alt := rfl
@[simp] theorem State.holdTune_bins (k : Fin 4) (t : Tune) : (s.holdTune k t).bins = s.bins := rfl
@[simp] theorem State.holdTune_band (k : Fin 4) (t : Tune) : (s.holdTune k t).band = s.band := rfl
@[simp] theorem State.holdTune_occThreshold (k : Fin 4) (t : Tune) : (s.holdTune k t).occThreshold = s.occThreshold := rfl
@[simp] theorem State.holdTune_sweep (k : Fin 4) (t : Tune) : (s.holdTune k t).sweep = s.sweep := rfl
@[simp] theorem State.holdTune_tuner (k : Fin 4) (t : Tune) : (s.holdTune k t).tuner = s.tuner := rfl
@[simp] theorem State.holdTune_lines (k : Fin 4) (t : Tune) : (s.holdTune k t).lines = s.lines := rfl
@[simp] theorem State.holdTune_watch (k : Fin 4) (t : Tune) : (s.holdTune k t).watch = { s.watch with heldTunes := (s.watch.heldTunes.filter fun h => h.tune.id != t.id) ++ [⟨k, t⟩] } := rfl
@[simp] theorem State.holdTune_swapAnswers (k : Fin 4) (t : Tune) : (s.holdTune k t).swapAnswers = s.swapAnswers := rfl
@[simp] theorem State.holdTune_status (k : Fin 4) (t : Tune) : (s.holdTune k t).status = s.status := rfl
@[simp] theorem State.holdTune_paces (k : Fin 4) (t : Tune) : (s.holdTune k t).paces = s.paces := rfl

/-! ### `unlist` -/

@[simp] theorem State.unlist_pending (id : Nat) : (s.unlist id).pending = s.pending := rfl
@[simp] theorem State.unlist_run (id : Nat) : (s.unlist id).run = s.run := rfl
@[simp] theorem State.unlist_runBit (id : Nat) : (s.unlist id).runBit = s.runBit := rfl
@[simp] theorem State.unlist_anchor (id : Nat) : (s.unlist id).anchor = s.anchor := rfl
@[simp] theorem State.unlist_intEnable (id : Nat) : (s.unlist id).intEnable = s.intEnable := rfl
@[simp] theorem State.unlist_causes (id : Nat) : (s.unlist id).causes = s.causes := rfl
@[simp] theorem State.unlist_fault (id : Nat) : (s.unlist id).fault = s.fault := rfl
@[simp] theorem State.unlist_latch (id : Nat) : (s.unlist id).latch = s.latch := rfl
@[simp] theorem State.unlist_windows (id : Nat) : (s.unlist id).windows = s.windows := rfl
@[simp] theorem State.unlist_rewrite (id : Nat) : (s.unlist id).rewrite = s.rewrite := rfl
@[simp] theorem State.unlist_mem (id : Nat) : (s.unlist id).mem = s.mem := rfl
@[simp] theorem State.unlist_port (id : Nat) : (s.unlist id).port = s.port := rfl
@[simp] theorem State.unlist_mail (id : Nat) : (s.unlist id).mail = s.mail := rfl
@[simp] theorem State.unlist_settings (id : Nat) : (s.unlist id).settings = s.settings := rfl
@[simp] theorem State.unlist_board (id : Nat) : (s.unlist id).board = s.board := rfl
@[simp] theorem State.unlist_engine (id : Nat) : (s.unlist id).engine = { s.engine with requests := s.engine.requests.filter fun x => x != id } := rfl
@[simp] theorem State.unlist_air (id : Nat) : (s.unlist id).air = s.air := rfl
@[simp] theorem State.unlist_coupling (id : Nat) : (s.unlist id).coupling = s.coupling := rfl
@[simp] theorem State.unlist_params (id : Nat) : (s.unlist id).params = s.params := rfl
@[simp] theorem State.unlist_spares (id : Nat) : (s.unlist id).spares = s.spares := rfl
@[simp] theorem State.unlist_cache (id : Nat) : (s.unlist id).cache = s.cache := rfl
@[simp] theorem State.unlist_alt (id : Nat) : (s.unlist id).alt = s.alt := rfl
@[simp] theorem State.unlist_bins (id : Nat) : (s.unlist id).bins = s.bins := rfl
@[simp] theorem State.unlist_band (id : Nat) : (s.unlist id).band = s.band := rfl
@[simp] theorem State.unlist_occThreshold (id : Nat) : (s.unlist id).occThreshold = s.occThreshold := rfl
@[simp] theorem State.unlist_sweep (id : Nat) : (s.unlist id).sweep = s.sweep := rfl
@[simp] theorem State.unlist_tuner (id : Nat) : (s.unlist id).tuner = s.tuner := rfl
@[simp] theorem State.unlist_lines (id : Nat) : (s.unlist id).lines = s.lines := rfl
@[simp] theorem State.unlist_watch (id : Nat) : (s.unlist id).watch = s.watch := rfl
@[simp] theorem State.unlist_swapAnswers (id : Nat) : (s.unlist id).swapAnswers = s.swapAnswers := rfl
@[simp] theorem State.unlist_status (id : Nat) : (s.unlist id).status = s.status := rfl
@[simp] theorem State.unlist_paces (id : Nat) : (s.unlist id).paces = s.paces := rfl

/-! ### `addRequest` -/

@[simp] theorem State.addRequest_pending (id : Nat) : (s.addRequest id).pending = s.pending := rfl
@[simp] theorem State.addRequest_run (id : Nat) : (s.addRequest id).run = s.run := rfl
@[simp] theorem State.addRequest_runBit (id : Nat) : (s.addRequest id).runBit = s.runBit := rfl
@[simp] theorem State.addRequest_anchor (id : Nat) : (s.addRequest id).anchor = s.anchor := rfl
@[simp] theorem State.addRequest_intEnable (id : Nat) : (s.addRequest id).intEnable = s.intEnable := rfl
@[simp] theorem State.addRequest_causes (id : Nat) : (s.addRequest id).causes = s.causes := rfl
@[simp] theorem State.addRequest_fault (id : Nat) : (s.addRequest id).fault = s.fault := rfl
@[simp] theorem State.addRequest_latch (id : Nat) : (s.addRequest id).latch = s.latch := rfl
@[simp] theorem State.addRequest_windows (id : Nat) : (s.addRequest id).windows = s.windows := rfl
@[simp] theorem State.addRequest_rewrite (id : Nat) : (s.addRequest id).rewrite = s.rewrite := rfl
@[simp] theorem State.addRequest_mem (id : Nat) : (s.addRequest id).mem = s.mem := rfl
@[simp] theorem State.addRequest_port (id : Nat) : (s.addRequest id).port = s.port := rfl
@[simp] theorem State.addRequest_mail (id : Nat) : (s.addRequest id).mail = s.mail := rfl
@[simp] theorem State.addRequest_settings (id : Nat) : (s.addRequest id).settings = s.settings := rfl
@[simp] theorem State.addRequest_board (id : Nat) : (s.addRequest id).board = s.board := rfl
@[simp] theorem State.addRequest_engine (id : Nat) : (s.addRequest id).engine = { s.engine with requests := s.engine.requests ++ [id] } := rfl
@[simp] theorem State.addRequest_air (id : Nat) : (s.addRequest id).air = s.air := rfl
@[simp] theorem State.addRequest_coupling (id : Nat) : (s.addRequest id).coupling = s.coupling := rfl
@[simp] theorem State.addRequest_params (id : Nat) : (s.addRequest id).params = s.params := rfl
@[simp] theorem State.addRequest_spares (id : Nat) : (s.addRequest id).spares = s.spares := rfl
@[simp] theorem State.addRequest_cache (id : Nat) : (s.addRequest id).cache = s.cache := rfl
@[simp] theorem State.addRequest_alt (id : Nat) : (s.addRequest id).alt = s.alt := rfl
@[simp] theorem State.addRequest_bins (id : Nat) : (s.addRequest id).bins = s.bins := rfl
@[simp] theorem State.addRequest_band (id : Nat) : (s.addRequest id).band = s.band := rfl
@[simp] theorem State.addRequest_occThreshold (id : Nat) : (s.addRequest id).occThreshold = s.occThreshold := rfl
@[simp] theorem State.addRequest_sweep (id : Nat) : (s.addRequest id).sweep = s.sweep := rfl
@[simp] theorem State.addRequest_tuner (id : Nat) : (s.addRequest id).tuner = s.tuner := rfl
@[simp] theorem State.addRequest_lines (id : Nat) : (s.addRequest id).lines = s.lines := rfl
@[simp] theorem State.addRequest_watch (id : Nat) : (s.addRequest id).watch = s.watch := rfl
@[simp] theorem State.addRequest_swapAnswers (id : Nat) : (s.addRequest id).swapAnswers = s.swapAnswers := rfl
@[simp] theorem State.addRequest_status (id : Nat) : (s.addRequest id).status = s.status := rfl
@[simp] theorem State.addRequest_paces (id : Nat) : (s.addRequest id).paces = s.paces := rfl

/-! ### `setLookup` -/

@[simp] theorem State.setLookup_pending (l : Option LookupStage) : (s.setLookup l).pending = s.pending := rfl
@[simp] theorem State.setLookup_run (l : Option LookupStage) : (s.setLookup l).run = s.run := rfl
@[simp] theorem State.setLookup_runBit (l : Option LookupStage) : (s.setLookup l).runBit = s.runBit := rfl
@[simp] theorem State.setLookup_anchor (l : Option LookupStage) : (s.setLookup l).anchor = s.anchor := rfl
@[simp] theorem State.setLookup_intEnable (l : Option LookupStage) : (s.setLookup l).intEnable = s.intEnable := rfl
@[simp] theorem State.setLookup_causes (l : Option LookupStage) : (s.setLookup l).causes = s.causes := rfl
@[simp] theorem State.setLookup_fault (l : Option LookupStage) : (s.setLookup l).fault = s.fault := rfl
@[simp] theorem State.setLookup_latch (l : Option LookupStage) : (s.setLookup l).latch = s.latch := rfl
@[simp] theorem State.setLookup_windows (l : Option LookupStage) : (s.setLookup l).windows = s.windows := rfl
@[simp] theorem State.setLookup_rewrite (l : Option LookupStage) : (s.setLookup l).rewrite = s.rewrite := rfl
@[simp] theorem State.setLookup_mem (l : Option LookupStage) : (s.setLookup l).mem = s.mem := rfl
@[simp] theorem State.setLookup_port (l : Option LookupStage) : (s.setLookup l).port = s.port := rfl
@[simp] theorem State.setLookup_mail (l : Option LookupStage) : (s.setLookup l).mail = s.mail := rfl
@[simp] theorem State.setLookup_settings (l : Option LookupStage) : (s.setLookup l).settings = s.settings := rfl
@[simp] theorem State.setLookup_board (l : Option LookupStage) : (s.setLookup l).board = s.board := rfl
@[simp] theorem State.setLookup_engine (l : Option LookupStage) : (s.setLookup l).engine = { s.engine with lookup := l } := rfl
@[simp] theorem State.setLookup_air (l : Option LookupStage) : (s.setLookup l).air = s.air := rfl
@[simp] theorem State.setLookup_coupling (l : Option LookupStage) : (s.setLookup l).coupling = s.coupling := rfl
@[simp] theorem State.setLookup_params (l : Option LookupStage) : (s.setLookup l).params = s.params := rfl
@[simp] theorem State.setLookup_spares (l : Option LookupStage) : (s.setLookup l).spares = s.spares := rfl
@[simp] theorem State.setLookup_cache (l : Option LookupStage) : (s.setLookup l).cache = s.cache := rfl
@[simp] theorem State.setLookup_alt (l : Option LookupStage) : (s.setLookup l).alt = s.alt := rfl
@[simp] theorem State.setLookup_bins (l : Option LookupStage) : (s.setLookup l).bins = s.bins := rfl
@[simp] theorem State.setLookup_band (l : Option LookupStage) : (s.setLookup l).band = s.band := rfl
@[simp] theorem State.setLookup_occThreshold (l : Option LookupStage) : (s.setLookup l).occThreshold = s.occThreshold := rfl
@[simp] theorem State.setLookup_sweep (l : Option LookupStage) : (s.setLookup l).sweep = s.sweep := rfl
@[simp] theorem State.setLookup_tuner (l : Option LookupStage) : (s.setLookup l).tuner = s.tuner := rfl
@[simp] theorem State.setLookup_lines (l : Option LookupStage) : (s.setLookup l).lines = s.lines := rfl
@[simp] theorem State.setLookup_watch (l : Option LookupStage) : (s.setLookup l).watch = s.watch := rfl
@[simp] theorem State.setLookup_swapAnswers (l : Option LookupStage) : (s.setLookup l).swapAnswers = s.swapAnswers := rfl
@[simp] theorem State.setLookup_status (l : Option LookupStage) : (s.setLookup l).status = s.status := rfl
@[simp] theorem State.setLookup_paces (l : Option LookupStage) : (s.setLookup l).paces = s.paces := rfl

/-! ### `setWb` -/

@[simp] theorem State.setWb_pending (w : Option WriteBack) : (s.setWb w).pending = s.pending := rfl
@[simp] theorem State.setWb_run (w : Option WriteBack) : (s.setWb w).run = s.run := rfl
@[simp] theorem State.setWb_runBit (w : Option WriteBack) : (s.setWb w).runBit = s.runBit := rfl
@[simp] theorem State.setWb_anchor (w : Option WriteBack) : (s.setWb w).anchor = s.anchor := rfl
@[simp] theorem State.setWb_intEnable (w : Option WriteBack) : (s.setWb w).intEnable = s.intEnable := rfl
@[simp] theorem State.setWb_causes (w : Option WriteBack) : (s.setWb w).causes = s.causes := rfl
@[simp] theorem State.setWb_fault (w : Option WriteBack) : (s.setWb w).fault = s.fault := rfl
@[simp] theorem State.setWb_latch (w : Option WriteBack) : (s.setWb w).latch = s.latch := rfl
@[simp] theorem State.setWb_windows (w : Option WriteBack) : (s.setWb w).windows = s.windows := rfl
@[simp] theorem State.setWb_rewrite (w : Option WriteBack) : (s.setWb w).rewrite = s.rewrite := rfl
@[simp] theorem State.setWb_mem (w : Option WriteBack) : (s.setWb w).mem = s.mem := rfl
@[simp] theorem State.setWb_port (w : Option WriteBack) : (s.setWb w).port = s.port := rfl
@[simp] theorem State.setWb_mail (w : Option WriteBack) : (s.setWb w).mail = s.mail := rfl
@[simp] theorem State.setWb_settings (w : Option WriteBack) : (s.setWb w).settings = s.settings := rfl
@[simp] theorem State.setWb_board (w : Option WriteBack) : (s.setWb w).board = s.board := rfl
@[simp] theorem State.setWb_engine (w : Option WriteBack) : (s.setWb w).engine = { s.engine with wb := w } := rfl
@[simp] theorem State.setWb_air (w : Option WriteBack) : (s.setWb w).air = s.air := rfl
@[simp] theorem State.setWb_coupling (w : Option WriteBack) : (s.setWb w).coupling = s.coupling := rfl
@[simp] theorem State.setWb_params (w : Option WriteBack) : (s.setWb w).params = s.params := rfl
@[simp] theorem State.setWb_spares (w : Option WriteBack) : (s.setWb w).spares = s.spares := rfl
@[simp] theorem State.setWb_cache (w : Option WriteBack) : (s.setWb w).cache = s.cache := rfl
@[simp] theorem State.setWb_alt (w : Option WriteBack) : (s.setWb w).alt = s.alt := rfl
@[simp] theorem State.setWb_bins (w : Option WriteBack) : (s.setWb w).bins = s.bins := rfl
@[simp] theorem State.setWb_band (w : Option WriteBack) : (s.setWb w).band = s.band := rfl
@[simp] theorem State.setWb_occThreshold (w : Option WriteBack) : (s.setWb w).occThreshold = s.occThreshold := rfl
@[simp] theorem State.setWb_sweep (w : Option WriteBack) : (s.setWb w).sweep = s.sweep := rfl
@[simp] theorem State.setWb_tuner (w : Option WriteBack) : (s.setWb w).tuner = s.tuner := rfl
@[simp] theorem State.setWb_lines (w : Option WriteBack) : (s.setWb w).lines = s.lines := rfl
@[simp] theorem State.setWb_watch (w : Option WriteBack) : (s.setWb w).watch = s.watch := rfl
@[simp] theorem State.setWb_swapAnswers (w : Option WriteBack) : (s.setWb w).swapAnswers = s.swapAnswers := rfl
@[simp] theorem State.setWb_status (w : Option WriteBack) : (s.setWb w).status = s.status := rfl
@[simp] theorem State.setWb_paces (w : Option WriteBack) : (s.setWb w).paces = s.paces := rfl

/-! ### `setPos` -/

@[simp] theorem State.setPos_pending (p : EnginePos) : (s.setPos p).pending = s.pending := rfl
@[simp] theorem State.setPos_run (p : EnginePos) : (s.setPos p).run = s.run := rfl
@[simp] theorem State.setPos_runBit (p : EnginePos) : (s.setPos p).runBit = s.runBit := rfl
@[simp] theorem State.setPos_anchor (p : EnginePos) : (s.setPos p).anchor = s.anchor := rfl
@[simp] theorem State.setPos_intEnable (p : EnginePos) : (s.setPos p).intEnable = s.intEnable := rfl
@[simp] theorem State.setPos_causes (p : EnginePos) : (s.setPos p).causes = s.causes := rfl
@[simp] theorem State.setPos_fault (p : EnginePos) : (s.setPos p).fault = s.fault := rfl
@[simp] theorem State.setPos_latch (p : EnginePos) : (s.setPos p).latch = s.latch := rfl
@[simp] theorem State.setPos_windows (p : EnginePos) : (s.setPos p).windows = s.windows := rfl
@[simp] theorem State.setPos_rewrite (p : EnginePos) : (s.setPos p).rewrite = s.rewrite := rfl
@[simp] theorem State.setPos_mem (p : EnginePos) : (s.setPos p).mem = s.mem := rfl
@[simp] theorem State.setPos_port (p : EnginePos) : (s.setPos p).port = s.port := rfl
@[simp] theorem State.setPos_mail (p : EnginePos) : (s.setPos p).mail = s.mail := rfl
@[simp] theorem State.setPos_settings (p : EnginePos) : (s.setPos p).settings = s.settings := rfl
@[simp] theorem State.setPos_board (p : EnginePos) : (s.setPos p).board = s.board := rfl
@[simp] theorem State.setPos_engine (p : EnginePos) : (s.setPos p).engine = { s.engine with pos := p } := rfl
@[simp] theorem State.setPos_air (p : EnginePos) : (s.setPos p).air = s.air := rfl
@[simp] theorem State.setPos_coupling (p : EnginePos) : (s.setPos p).coupling = s.coupling := rfl
@[simp] theorem State.setPos_params (p : EnginePos) : (s.setPos p).params = s.params := rfl
@[simp] theorem State.setPos_spares (p : EnginePos) : (s.setPos p).spares = s.spares := rfl
@[simp] theorem State.setPos_cache (p : EnginePos) : (s.setPos p).cache = s.cache := rfl
@[simp] theorem State.setPos_alt (p : EnginePos) : (s.setPos p).alt = s.alt := rfl
@[simp] theorem State.setPos_bins (p : EnginePos) : (s.setPos p).bins = s.bins := rfl
@[simp] theorem State.setPos_band (p : EnginePos) : (s.setPos p).band = s.band := rfl
@[simp] theorem State.setPos_occThreshold (p : EnginePos) : (s.setPos p).occThreshold = s.occThreshold := rfl
@[simp] theorem State.setPos_sweep (p : EnginePos) : (s.setPos p).sweep = s.sweep := rfl
@[simp] theorem State.setPos_tuner (p : EnginePos) : (s.setPos p).tuner = s.tuner := rfl
@[simp] theorem State.setPos_lines (p : EnginePos) : (s.setPos p).lines = s.lines := rfl
@[simp] theorem State.setPos_watch (p : EnginePos) : (s.setPos p).watch = s.watch := rfl
@[simp] theorem State.setPos_swapAnswers (p : EnginePos) : (s.setPos p).swapAnswers = s.swapAnswers := rfl
@[simp] theorem State.setPos_status (p : EnginePos) : (s.setPos p).status = s.status := rfl
@[simp] theorem State.setPos_paces (p : EnginePos) : (s.setPos p).paces = s.paces := rfl

/-! ### `setOrder` -/

@[simp] theorem State.setOrder_pending (o : EngineOrder) : (s.setOrder o).pending = s.pending := rfl
@[simp] theorem State.setOrder_run (o : EngineOrder) : (s.setOrder o).run = s.run := rfl
@[simp] theorem State.setOrder_runBit (o : EngineOrder) : (s.setOrder o).runBit = s.runBit := rfl
@[simp] theorem State.setOrder_anchor (o : EngineOrder) : (s.setOrder o).anchor = s.anchor := rfl
@[simp] theorem State.setOrder_intEnable (o : EngineOrder) : (s.setOrder o).intEnable = s.intEnable := rfl
@[simp] theorem State.setOrder_causes (o : EngineOrder) : (s.setOrder o).causes = s.causes := rfl
@[simp] theorem State.setOrder_fault (o : EngineOrder) : (s.setOrder o).fault = s.fault := rfl
@[simp] theorem State.setOrder_latch (o : EngineOrder) : (s.setOrder o).latch = s.latch := rfl
@[simp] theorem State.setOrder_windows (o : EngineOrder) : (s.setOrder o).windows = s.windows := rfl
@[simp] theorem State.setOrder_rewrite (o : EngineOrder) : (s.setOrder o).rewrite = s.rewrite := rfl
@[simp] theorem State.setOrder_mem (o : EngineOrder) : (s.setOrder o).mem = s.mem := rfl
@[simp] theorem State.setOrder_port (o : EngineOrder) : (s.setOrder o).port = s.port := rfl
@[simp] theorem State.setOrder_mail (o : EngineOrder) : (s.setOrder o).mail = s.mail := rfl
@[simp] theorem State.setOrder_settings (o : EngineOrder) : (s.setOrder o).settings = s.settings := rfl
@[simp] theorem State.setOrder_board (o : EngineOrder) : (s.setOrder o).board = s.board := rfl
@[simp] theorem State.setOrder_engine (o : EngineOrder) : (s.setOrder o).engine = { s.engine with order := some o } := rfl
@[simp] theorem State.setOrder_air (o : EngineOrder) : (s.setOrder o).air = s.air := rfl
@[simp] theorem State.setOrder_coupling (o : EngineOrder) : (s.setOrder o).coupling = s.coupling := rfl
@[simp] theorem State.setOrder_params (o : EngineOrder) : (s.setOrder o).params = s.params := rfl
@[simp] theorem State.setOrder_spares (o : EngineOrder) : (s.setOrder o).spares = s.spares := rfl
@[simp] theorem State.setOrder_cache (o : EngineOrder) : (s.setOrder o).cache = s.cache := rfl
@[simp] theorem State.setOrder_alt (o : EngineOrder) : (s.setOrder o).alt = s.alt := rfl
@[simp] theorem State.setOrder_bins (o : EngineOrder) : (s.setOrder o).bins = s.bins := rfl
@[simp] theorem State.setOrder_band (o : EngineOrder) : (s.setOrder o).band = s.band := rfl
@[simp] theorem State.setOrder_occThreshold (o : EngineOrder) : (s.setOrder o).occThreshold = s.occThreshold := rfl
@[simp] theorem State.setOrder_sweep (o : EngineOrder) : (s.setOrder o).sweep = s.sweep := rfl
@[simp] theorem State.setOrder_tuner (o : EngineOrder) : (s.setOrder o).tuner = s.tuner := rfl
@[simp] theorem State.setOrder_lines (o : EngineOrder) : (s.setOrder o).lines = s.lines := rfl
@[simp] theorem State.setOrder_watch (o : EngineOrder) : (s.setOrder o).watch = s.watch := rfl
@[simp] theorem State.setOrder_swapAnswers (o : EngineOrder) : (s.setOrder o).swapAnswers = s.swapAnswers := rfl
@[simp] theorem State.setOrder_status (o : EngineOrder) : (s.setOrder o).status = s.status := rfl
@[simp] theorem State.setOrder_paces (o : EngineOrder) : (s.setOrder o).paces = s.paces := rfl

/-! ### `setService` -/

@[simp] theorem State.setService_pending (v : Option Service) : (s.setService v).pending = s.pending := rfl
@[simp] theorem State.setService_run (v : Option Service) : (s.setService v).run = s.run := rfl
@[simp] theorem State.setService_runBit (v : Option Service) : (s.setService v).runBit = s.runBit := rfl
@[simp] theorem State.setService_anchor (v : Option Service) : (s.setService v).anchor = s.anchor := rfl
@[simp] theorem State.setService_intEnable (v : Option Service) : (s.setService v).intEnable = s.intEnable := rfl
@[simp] theorem State.setService_causes (v : Option Service) : (s.setService v).causes = s.causes := rfl
@[simp] theorem State.setService_fault (v : Option Service) : (s.setService v).fault = s.fault := rfl
@[simp] theorem State.setService_latch (v : Option Service) : (s.setService v).latch = s.latch := rfl
@[simp] theorem State.setService_windows (v : Option Service) : (s.setService v).windows = s.windows := rfl
@[simp] theorem State.setService_rewrite (v : Option Service) : (s.setService v).rewrite = s.rewrite := rfl
@[simp] theorem State.setService_mem (v : Option Service) : (s.setService v).mem = s.mem := rfl
@[simp] theorem State.setService_port (v : Option Service) : (s.setService v).port = s.port := rfl
@[simp] theorem State.setService_mail (v : Option Service) : (s.setService v).mail = s.mail := rfl
@[simp] theorem State.setService_settings (v : Option Service) : (s.setService v).settings = s.settings := rfl
@[simp] theorem State.setService_board (v : Option Service) : (s.setService v).board = s.board := rfl
@[simp] theorem State.setService_engine (v : Option Service) : (s.setService v).engine = { s.engine with service := v } := rfl
@[simp] theorem State.setService_air (v : Option Service) : (s.setService v).air = s.air := rfl
@[simp] theorem State.setService_coupling (v : Option Service) : (s.setService v).coupling = s.coupling := rfl
@[simp] theorem State.setService_params (v : Option Service) : (s.setService v).params = s.params := rfl
@[simp] theorem State.setService_spares (v : Option Service) : (s.setService v).spares = s.spares := rfl
@[simp] theorem State.setService_cache (v : Option Service) : (s.setService v).cache = s.cache := rfl
@[simp] theorem State.setService_alt (v : Option Service) : (s.setService v).alt = s.alt := rfl
@[simp] theorem State.setService_bins (v : Option Service) : (s.setService v).bins = s.bins := rfl
@[simp] theorem State.setService_band (v : Option Service) : (s.setService v).band = s.band := rfl
@[simp] theorem State.setService_occThreshold (v : Option Service) : (s.setService v).occThreshold = s.occThreshold := rfl
@[simp] theorem State.setService_sweep (v : Option Service) : (s.setService v).sweep = s.sweep := rfl
@[simp] theorem State.setService_tuner (v : Option Service) : (s.setService v).tuner = s.tuner := rfl
@[simp] theorem State.setService_lines (v : Option Service) : (s.setService v).lines = s.lines := rfl
@[simp] theorem State.setService_watch (v : Option Service) : (s.setService v).watch = s.watch := rfl
@[simp] theorem State.setService_swapAnswers (v : Option Service) : (s.setService v).swapAnswers = s.swapAnswers := rfl
@[simp] theorem State.setService_status (v : Option Service) : (s.setService v).status = s.status := rfl
@[simp] theorem State.setService_paces (v : Option Service) : (s.setService v).paces = s.paces := rfl

/-! ### `beginRead` -/

@[simp] theorem State.beginRead_pending (x : Nat) : (s.beginRead x).pending = s.pending := rfl
@[simp] theorem State.beginRead_run (x : Nat) : (s.beginRead x).run = s.run := rfl
@[simp] theorem State.beginRead_runBit (x : Nat) : (s.beginRead x).runBit = s.runBit := rfl
@[simp] theorem State.beginRead_anchor (x : Nat) : (s.beginRead x).anchor = s.anchor := rfl
@[simp] theorem State.beginRead_intEnable (x : Nat) : (s.beginRead x).intEnable = s.intEnable := rfl
@[simp] theorem State.beginRead_causes (x : Nat) : (s.beginRead x).causes = s.causes := rfl
@[simp] theorem State.beginRead_fault (x : Nat) : (s.beginRead x).fault = s.fault := rfl
@[simp] theorem State.beginRead_latch (x : Nat) : (s.beginRead x).latch = s.latch := rfl
@[simp] theorem State.beginRead_windows (x : Nat) : (s.beginRead x).windows = s.windows := rfl
@[simp] theorem State.beginRead_rewrite (x : Nat) : (s.beginRead x).rewrite = s.rewrite := rfl
@[simp] theorem State.beginRead_mem (x : Nat) : (s.beginRead x).mem = s.mem := rfl
@[simp] theorem State.beginRead_port (x : Nat) : (s.beginRead x).port = s.port := rfl
@[simp] theorem State.beginRead_mail (x : Nat) : (s.beginRead x).mail = s.mail := rfl
@[simp] theorem State.beginRead_settings (x : Nat) : (s.beginRead x).settings = s.settings := rfl
@[simp] theorem State.beginRead_board (x : Nat) : (s.beginRead x).board = s.board := rfl
@[simp] theorem State.beginRead_engine (x : Nat) : (s.beginRead x).engine = { s.engine with reading := some ⟨guardBins s.params.gocc x, false⟩ } := rfl
@[simp] theorem State.beginRead_air (x : Nat) : (s.beginRead x).air = s.air := rfl
@[simp] theorem State.beginRead_coupling (x : Nat) : (s.beginRead x).coupling = s.coupling := rfl
@[simp] theorem State.beginRead_params (x : Nat) : (s.beginRead x).params = s.params := rfl
@[simp] theorem State.beginRead_spares (x : Nat) : (s.beginRead x).spares = s.spares := rfl
@[simp] theorem State.beginRead_cache (x : Nat) : (s.beginRead x).cache = s.cache := rfl
@[simp] theorem State.beginRead_alt (x : Nat) : (s.beginRead x).alt = s.alt := rfl
@[simp] theorem State.beginRead_bins (x : Nat) : (s.beginRead x).bins = s.bins := rfl
@[simp] theorem State.beginRead_band (x : Nat) : (s.beginRead x).band = s.band := rfl
@[simp] theorem State.beginRead_occThreshold (x : Nat) : (s.beginRead x).occThreshold = s.occThreshold := rfl
@[simp] theorem State.beginRead_sweep (x : Nat) : (s.beginRead x).sweep = s.sweep := rfl
@[simp] theorem State.beginRead_tuner (x : Nat) : (s.beginRead x).tuner = s.tuner := rfl
@[simp] theorem State.beginRead_lines (x : Nat) : (s.beginRead x).lines = s.lines := rfl
@[simp] theorem State.beginRead_watch (x : Nat) : (s.beginRead x).watch = s.watch := rfl
@[simp] theorem State.beginRead_swapAnswers (x : Nat) : (s.beginRead x).swapAnswers = s.swapAnswers := rfl
@[simp] theorem State.beginRead_status (x : Nat) : (s.beginRead x).status = s.status := rfl
@[simp] theorem State.beginRead_paces (x : Nat) : (s.beginRead x).paces = s.paces := rfl

/-! ### `setWay` -/

@[simp] theorem State.setWay_pending (set : Nat) (b : Bool) (w : Option CacheWay) : (s.setWay set b w).pending = s.pending := rfl
@[simp] theorem State.setWay_run (set : Nat) (b : Bool) (w : Option CacheWay) : (s.setWay set b w).run = s.run := rfl
@[simp] theorem State.setWay_runBit (set : Nat) (b : Bool) (w : Option CacheWay) : (s.setWay set b w).runBit = s.runBit := rfl
@[simp] theorem State.setWay_anchor (set : Nat) (b : Bool) (w : Option CacheWay) : (s.setWay set b w).anchor = s.anchor := rfl
@[simp] theorem State.setWay_intEnable (set : Nat) (b : Bool) (w : Option CacheWay) : (s.setWay set b w).intEnable = s.intEnable := rfl
@[simp] theorem State.setWay_causes (set : Nat) (b : Bool) (w : Option CacheWay) : (s.setWay set b w).causes = s.causes := rfl
@[simp] theorem State.setWay_fault (set : Nat) (b : Bool) (w : Option CacheWay) : (s.setWay set b w).fault = s.fault := rfl
@[simp] theorem State.setWay_latch (set : Nat) (b : Bool) (w : Option CacheWay) : (s.setWay set b w).latch = s.latch := rfl
@[simp] theorem State.setWay_windows (set : Nat) (b : Bool) (w : Option CacheWay) : (s.setWay set b w).windows = s.windows := rfl
@[simp] theorem State.setWay_rewrite (set : Nat) (b : Bool) (w : Option CacheWay) : (s.setWay set b w).rewrite = s.rewrite := rfl
@[simp] theorem State.setWay_mem (set : Nat) (b : Bool) (w : Option CacheWay) : (s.setWay set b w).mem = s.mem := rfl
@[simp] theorem State.setWay_port (set : Nat) (b : Bool) (w : Option CacheWay) : (s.setWay set b w).port = s.port := rfl
@[simp] theorem State.setWay_mail (set : Nat) (b : Bool) (w : Option CacheWay) : (s.setWay set b w).mail = s.mail := rfl
@[simp] theorem State.setWay_settings (set : Nat) (b : Bool) (w : Option CacheWay) : (s.setWay set b w).settings = s.settings := rfl
@[simp] theorem State.setWay_board (set : Nat) (b : Bool) (w : Option CacheWay) : (s.setWay set b w).board = s.board := rfl
@[simp] theorem State.setWay_engine (set : Nat) (b : Bool) (w : Option CacheWay) : (s.setWay set b w).engine = s.engine := rfl
@[simp] theorem State.setWay_air (set : Nat) (b : Bool) (w : Option CacheWay) : (s.setWay set b w).air = s.air := rfl
@[simp] theorem State.setWay_coupling (set : Nat) (b : Bool) (w : Option CacheWay) : (s.setWay set b w).coupling = s.coupling := rfl
@[simp] theorem State.setWay_params (set : Nat) (b : Bool) (w : Option CacheWay) : (s.setWay set b w).params = s.params := rfl
@[simp] theorem State.setWay_spares (set : Nat) (b : Bool) (w : Option CacheWay) : (s.setWay set b w).spares = s.spares := rfl
@[simp] theorem State.setWay_cache (set : Nat) (b : Bool) (w : Option CacheWay) : (s.setWay set b w).cache = sparseSet none s.cache (set * 2 + if b then 1 else 0) w := rfl
@[simp] theorem State.setWay_alt (set : Nat) (b : Bool) (w : Option CacheWay) : (s.setWay set b w).alt = s.alt := rfl
@[simp] theorem State.setWay_bins (set : Nat) (b : Bool) (w : Option CacheWay) : (s.setWay set b w).bins = s.bins := rfl
@[simp] theorem State.setWay_band (set : Nat) (b : Bool) (w : Option CacheWay) : (s.setWay set b w).band = s.band := rfl
@[simp] theorem State.setWay_occThreshold (set : Nat) (b : Bool) (w : Option CacheWay) : (s.setWay set b w).occThreshold = s.occThreshold := rfl
@[simp] theorem State.setWay_sweep (set : Nat) (b : Bool) (w : Option CacheWay) : (s.setWay set b w).sweep = s.sweep := rfl
@[simp] theorem State.setWay_tuner (set : Nat) (b : Bool) (w : Option CacheWay) : (s.setWay set b w).tuner = s.tuner := rfl
@[simp] theorem State.setWay_lines (set : Nat) (b : Bool) (w : Option CacheWay) : (s.setWay set b w).lines = s.lines := rfl
@[simp] theorem State.setWay_watch (set : Nat) (b : Bool) (w : Option CacheWay) : (s.setWay set b w).watch = s.watch := rfl
@[simp] theorem State.setWay_swapAnswers (set : Nat) (b : Bool) (w : Option CacheWay) : (s.setWay set b w).swapAnswers = s.swapAnswers := rfl
@[simp] theorem State.setWay_status (set : Nat) (b : Bool) (w : Option CacheWay) : (s.setWay set b w).status = s.status := rfl
@[simp] theorem State.setWay_paces (set : Nat) (b : Bool) (w : Option CacheWay) : (s.setWay set b w).paces = s.paces := rfl

/-! ### `setSweep` -/

@[simp] theorem State.setSweep_pending (u : Sweep) : (s.setSweep u).pending = s.pending := rfl
@[simp] theorem State.setSweep_run (u : Sweep) : (s.setSweep u).run = s.run := rfl
@[simp] theorem State.setSweep_runBit (u : Sweep) : (s.setSweep u).runBit = s.runBit := rfl
@[simp] theorem State.setSweep_anchor (u : Sweep) : (s.setSweep u).anchor = s.anchor := rfl
@[simp] theorem State.setSweep_intEnable (u : Sweep) : (s.setSweep u).intEnable = s.intEnable := rfl
@[simp] theorem State.setSweep_causes (u : Sweep) : (s.setSweep u).causes = s.causes := rfl
@[simp] theorem State.setSweep_fault (u : Sweep) : (s.setSweep u).fault = s.fault := rfl
@[simp] theorem State.setSweep_latch (u : Sweep) : (s.setSweep u).latch = s.latch := rfl
@[simp] theorem State.setSweep_windows (u : Sweep) : (s.setSweep u).windows = s.windows := rfl
@[simp] theorem State.setSweep_rewrite (u : Sweep) : (s.setSweep u).rewrite = s.rewrite := rfl
@[simp] theorem State.setSweep_mem (u : Sweep) : (s.setSweep u).mem = s.mem := rfl
@[simp] theorem State.setSweep_port (u : Sweep) : (s.setSweep u).port = s.port := rfl
@[simp] theorem State.setSweep_mail (u : Sweep) : (s.setSweep u).mail = s.mail := rfl
@[simp] theorem State.setSweep_settings (u : Sweep) : (s.setSweep u).settings = s.settings := rfl
@[simp] theorem State.setSweep_board (u : Sweep) : (s.setSweep u).board = s.board := rfl
@[simp] theorem State.setSweep_engine (u : Sweep) : (s.setSweep u).engine = s.engine := rfl
@[simp] theorem State.setSweep_air (u : Sweep) : (s.setSweep u).air = s.air := rfl
@[simp] theorem State.setSweep_coupling (u : Sweep) : (s.setSweep u).coupling = s.coupling := rfl
@[simp] theorem State.setSweep_params (u : Sweep) : (s.setSweep u).params = s.params := rfl
@[simp] theorem State.setSweep_spares (u : Sweep) : (s.setSweep u).spares = s.spares := rfl
@[simp] theorem State.setSweep_cache (u : Sweep) : (s.setSweep u).cache = s.cache := rfl
@[simp] theorem State.setSweep_alt (u : Sweep) : (s.setSweep u).alt = s.alt := rfl
@[simp] theorem State.setSweep_bins (u : Sweep) : (s.setSweep u).bins = s.bins := rfl
@[simp] theorem State.setSweep_band (u : Sweep) : (s.setSweep u).band = s.band := rfl
@[simp] theorem State.setSweep_occThreshold (u : Sweep) : (s.setSweep u).occThreshold = s.occThreshold := rfl
@[simp] theorem State.setSweep_sweep (u : Sweep) : (s.setSweep u).sweep = u := rfl
@[simp] theorem State.setSweep_tuner (u : Sweep) : (s.setSweep u).tuner = s.tuner := rfl
@[simp] theorem State.setSweep_lines (u : Sweep) : (s.setSweep u).lines = s.lines := rfl
@[simp] theorem State.setSweep_watch (u : Sweep) : (s.setSweep u).watch = s.watch := rfl
@[simp] theorem State.setSweep_swapAnswers (u : Sweep) : (s.setSweep u).swapAnswers = s.swapAnswers := rfl
@[simp] theorem State.setSweep_status (u : Sweep) : (s.setSweep u).status = s.status := rfl
@[simp] theorem State.setSweep_paces (u : Sweep) : (s.setSweep u).paces = s.paces := rfl

/-! ### `sweepTo` -/

@[simp] theorem State.sweepTo_pending (c : SweepCount) (p : SweepPos) : (s.sweepTo c p).pending = s.pending := rfl
@[simp] theorem State.sweepTo_run (c : SweepCount) (p : SweepPos) : (s.sweepTo c p).run = s.run := rfl
@[simp] theorem State.sweepTo_runBit (c : SweepCount) (p : SweepPos) : (s.sweepTo c p).runBit = s.runBit := rfl
@[simp] theorem State.sweepTo_anchor (c : SweepCount) (p : SweepPos) : (s.sweepTo c p).anchor = s.anchor := rfl
@[simp] theorem State.sweepTo_intEnable (c : SweepCount) (p : SweepPos) : (s.sweepTo c p).intEnable = s.intEnable := rfl
@[simp] theorem State.sweepTo_causes (c : SweepCount) (p : SweepPos) : (s.sweepTo c p).causes = s.causes := rfl
@[simp] theorem State.sweepTo_fault (c : SweepCount) (p : SweepPos) : (s.sweepTo c p).fault = s.fault := rfl
@[simp] theorem State.sweepTo_latch (c : SweepCount) (p : SweepPos) : (s.sweepTo c p).latch = s.latch := rfl
@[simp] theorem State.sweepTo_windows (c : SweepCount) (p : SweepPos) : (s.sweepTo c p).windows = s.windows := rfl
@[simp] theorem State.sweepTo_rewrite (c : SweepCount) (p : SweepPos) : (s.sweepTo c p).rewrite = s.rewrite := rfl
@[simp] theorem State.sweepTo_mem (c : SweepCount) (p : SweepPos) : (s.sweepTo c p).mem = s.mem := rfl
@[simp] theorem State.sweepTo_port (c : SweepCount) (p : SweepPos) : (s.sweepTo c p).port = s.port := rfl
@[simp] theorem State.sweepTo_mail (c : SweepCount) (p : SweepPos) : (s.sweepTo c p).mail = s.mail := rfl
@[simp] theorem State.sweepTo_settings (c : SweepCount) (p : SweepPos) : (s.sweepTo c p).settings = s.settings := rfl
@[simp] theorem State.sweepTo_board (c : SweepCount) (p : SweepPos) : (s.sweepTo c p).board = s.board := rfl
@[simp] theorem State.sweepTo_engine (c : SweepCount) (p : SweepPos) : (s.sweepTo c p).engine = s.engine := rfl
@[simp] theorem State.sweepTo_air (c : SweepCount) (p : SweepPos) : (s.sweepTo c p).air = s.air := rfl
@[simp] theorem State.sweepTo_coupling (c : SweepCount) (p : SweepPos) : (s.sweepTo c p).coupling = s.coupling := rfl
@[simp] theorem State.sweepTo_params (c : SweepCount) (p : SweepPos) : (s.sweepTo c p).params = s.params := rfl
@[simp] theorem State.sweepTo_spares (c : SweepCount) (p : SweepPos) : (s.sweepTo c p).spares = s.spares := rfl
@[simp] theorem State.sweepTo_cache (c : SweepCount) (p : SweepPos) : (s.sweepTo c p).cache = s.cache := rfl
@[simp] theorem State.sweepTo_alt (c : SweepCount) (p : SweepPos) : (s.sweepTo c p).alt = s.alt := rfl
@[simp] theorem State.sweepTo_bins (c : SweepCount) (p : SweepPos) : (s.sweepTo c p).bins = s.bins := rfl
@[simp] theorem State.sweepTo_band (c : SweepCount) (p : SweepPos) : (s.sweepTo c p).band = s.band := rfl
@[simp] theorem State.sweepTo_occThreshold (c : SweepCount) (p : SweepPos) : (s.sweepTo c p).occThreshold = s.occThreshold := rfl
@[simp] theorem State.sweepTo_sweep (c : SweepCount) (p : SweepPos) : (s.sweepTo c p).sweep = { s.sweep with count := c, pos := p } := rfl
@[simp] theorem State.sweepTo_tuner (c : SweepCount) (p : SweepPos) : (s.sweepTo c p).tuner = s.tuner := rfl
@[simp] theorem State.sweepTo_lines (c : SweepCount) (p : SweepPos) : (s.sweepTo c p).lines = s.lines := rfl
@[simp] theorem State.sweepTo_watch (c : SweepCount) (p : SweepPos) : (s.sweepTo c p).watch = s.watch := rfl
@[simp] theorem State.sweepTo_swapAnswers (c : SweepCount) (p : SweepPos) : (s.sweepTo c p).swapAnswers = s.swapAnswers := rfl
@[simp] theorem State.sweepTo_status (c : SweepCount) (p : SweepPos) : (s.sweepTo c p).status = s.status := rfl
@[simp] theorem State.sweepTo_paces (c : SweepCount) (p : SweepPos) : (s.sweepTo c p).paces = s.paces := rfl

/-! ### `setJob` -/

@[simp] theorem State.setJob_pending (j : SettingsJob) : (s.setJob j).pending = s.pending := rfl
@[simp] theorem State.setJob_run (j : SettingsJob) : (s.setJob j).run = s.run := rfl
@[simp] theorem State.setJob_runBit (j : SettingsJob) : (s.setJob j).runBit = s.runBit := rfl
@[simp] theorem State.setJob_anchor (j : SettingsJob) : (s.setJob j).anchor = s.anchor := rfl
@[simp] theorem State.setJob_intEnable (j : SettingsJob) : (s.setJob j).intEnable = s.intEnable := rfl
@[simp] theorem State.setJob_causes (j : SettingsJob) : (s.setJob j).causes = s.causes := rfl
@[simp] theorem State.setJob_fault (j : SettingsJob) : (s.setJob j).fault = s.fault := rfl
@[simp] theorem State.setJob_latch (j : SettingsJob) : (s.setJob j).latch = s.latch := rfl
@[simp] theorem State.setJob_windows (j : SettingsJob) : (s.setJob j).windows = s.windows := rfl
@[simp] theorem State.setJob_rewrite (j : SettingsJob) : (s.setJob j).rewrite = s.rewrite := rfl
@[simp] theorem State.setJob_mem (j : SettingsJob) : (s.setJob j).mem = s.mem := rfl
@[simp] theorem State.setJob_port (j : SettingsJob) : (s.setJob j).port = s.port := rfl
@[simp] theorem State.setJob_mail (j : SettingsJob) : (s.setJob j).mail = s.mail := rfl
@[simp] theorem State.setJob_settings (j : SettingsJob) : (s.setJob j).settings = { s.settings with job := j } := rfl
@[simp] theorem State.setJob_board (j : SettingsJob) : (s.setJob j).board = s.board := rfl
@[simp] theorem State.setJob_engine (j : SettingsJob) : (s.setJob j).engine = s.engine := rfl
@[simp] theorem State.setJob_air (j : SettingsJob) : (s.setJob j).air = s.air := rfl
@[simp] theorem State.setJob_coupling (j : SettingsJob) : (s.setJob j).coupling = s.coupling := rfl
@[simp] theorem State.setJob_params (j : SettingsJob) : (s.setJob j).params = s.params := rfl
@[simp] theorem State.setJob_spares (j : SettingsJob) : (s.setJob j).spares = s.spares := rfl
@[simp] theorem State.setJob_cache (j : SettingsJob) : (s.setJob j).cache = s.cache := rfl
@[simp] theorem State.setJob_alt (j : SettingsJob) : (s.setJob j).alt = s.alt := rfl
@[simp] theorem State.setJob_bins (j : SettingsJob) : (s.setJob j).bins = s.bins := rfl
@[simp] theorem State.setJob_band (j : SettingsJob) : (s.setJob j).band = s.band := rfl
@[simp] theorem State.setJob_occThreshold (j : SettingsJob) : (s.setJob j).occThreshold = s.occThreshold := rfl
@[simp] theorem State.setJob_sweep (j : SettingsJob) : (s.setJob j).sweep = s.sweep := rfl
@[simp] theorem State.setJob_tuner (j : SettingsJob) : (s.setJob j).tuner = s.tuner := rfl
@[simp] theorem State.setJob_lines (j : SettingsJob) : (s.setJob j).lines = s.lines := rfl
@[simp] theorem State.setJob_watch (j : SettingsJob) : (s.setJob j).watch = s.watch := rfl
@[simp] theorem State.setJob_swapAnswers (j : SettingsJob) : (s.setJob j).swapAnswers = s.swapAnswers := rfl
@[simp] theorem State.setJob_status (j : SettingsJob) : (s.setJob j).status = s.status := rfl
@[simp] theorem State.setJob_paces (j : SettingsJob) : (s.setJob j).paces = s.paces := rfl

/-! ### `setBoardPos` -/

@[simp] theorem State.setBoardPos_pending (p : BoardPos) : (s.setBoardPos p).pending = s.pending := rfl
@[simp] theorem State.setBoardPos_run (p : BoardPos) : (s.setBoardPos p).run = s.run := rfl
@[simp] theorem State.setBoardPos_runBit (p : BoardPos) : (s.setBoardPos p).runBit = s.runBit := rfl
@[simp] theorem State.setBoardPos_anchor (p : BoardPos) : (s.setBoardPos p).anchor = s.anchor := rfl
@[simp] theorem State.setBoardPos_intEnable (p : BoardPos) : (s.setBoardPos p).intEnable = s.intEnable := rfl
@[simp] theorem State.setBoardPos_causes (p : BoardPos) : (s.setBoardPos p).causes = s.causes := rfl
@[simp] theorem State.setBoardPos_fault (p : BoardPos) : (s.setBoardPos p).fault = s.fault := rfl
@[simp] theorem State.setBoardPos_latch (p : BoardPos) : (s.setBoardPos p).latch = s.latch := rfl
@[simp] theorem State.setBoardPos_windows (p : BoardPos) : (s.setBoardPos p).windows = s.windows := rfl
@[simp] theorem State.setBoardPos_rewrite (p : BoardPos) : (s.setBoardPos p).rewrite = s.rewrite := rfl
@[simp] theorem State.setBoardPos_mem (p : BoardPos) : (s.setBoardPos p).mem = s.mem := rfl
@[simp] theorem State.setBoardPos_port (p : BoardPos) : (s.setBoardPos p).port = s.port := rfl
@[simp] theorem State.setBoardPos_mail (p : BoardPos) : (s.setBoardPos p).mail = s.mail := rfl
@[simp] theorem State.setBoardPos_settings (p : BoardPos) : (s.setBoardPos p).settings = s.settings := rfl
@[simp] theorem State.setBoardPos_board (p : BoardPos) : (s.setBoardPos p).board = { s.board with pos := p } := rfl
@[simp] theorem State.setBoardPos_engine (p : BoardPos) : (s.setBoardPos p).engine = s.engine := rfl
@[simp] theorem State.setBoardPos_air (p : BoardPos) : (s.setBoardPos p).air = s.air := rfl
@[simp] theorem State.setBoardPos_coupling (p : BoardPos) : (s.setBoardPos p).coupling = s.coupling := rfl
@[simp] theorem State.setBoardPos_params (p : BoardPos) : (s.setBoardPos p).params = s.params := rfl
@[simp] theorem State.setBoardPos_spares (p : BoardPos) : (s.setBoardPos p).spares = s.spares := rfl
@[simp] theorem State.setBoardPos_cache (p : BoardPos) : (s.setBoardPos p).cache = s.cache := rfl
@[simp] theorem State.setBoardPos_alt (p : BoardPos) : (s.setBoardPos p).alt = s.alt := rfl
@[simp] theorem State.setBoardPos_bins (p : BoardPos) : (s.setBoardPos p).bins = s.bins := rfl
@[simp] theorem State.setBoardPos_band (p : BoardPos) : (s.setBoardPos p).band = s.band := rfl
@[simp] theorem State.setBoardPos_occThreshold (p : BoardPos) : (s.setBoardPos p).occThreshold = s.occThreshold := rfl
@[simp] theorem State.setBoardPos_sweep (p : BoardPos) : (s.setBoardPos p).sweep = s.sweep := rfl
@[simp] theorem State.setBoardPos_tuner (p : BoardPos) : (s.setBoardPos p).tuner = s.tuner := rfl
@[simp] theorem State.setBoardPos_lines (p : BoardPos) : (s.setBoardPos p).lines = s.lines := rfl
@[simp] theorem State.setBoardPos_watch (p : BoardPos) : (s.setBoardPos p).watch = s.watch := rfl
@[simp] theorem State.setBoardPos_swapAnswers (p : BoardPos) : (s.setBoardPos p).swapAnswers = s.swapAnswers := rfl
@[simp] theorem State.setBoardPos_status (p : BoardPos) : (s.setBoardPos p).status = s.status := rfl
@[simp] theorem State.setBoardPos_paces (p : BoardPos) : (s.setBoardPos p).paces = s.paces := rfl

/-! ### `surveyEnds` -/

@[simp] theorem State.surveyEnds_pending : (s.surveyEnds).pending = s.pending := rfl
@[simp] theorem State.surveyEnds_run : (s.surveyEnds).run = s.run := rfl
@[simp] theorem State.surveyEnds_runBit : (s.surveyEnds).runBit = s.runBit := rfl
@[simp] theorem State.surveyEnds_anchor : (s.surveyEnds).anchor = s.anchor := rfl
@[simp] theorem State.surveyEnds_intEnable : (s.surveyEnds).intEnable = s.intEnable := rfl
@[simp] theorem State.surveyEnds_causes : (s.surveyEnds).causes = s.causes := rfl
@[simp] theorem State.surveyEnds_fault : (s.surveyEnds).fault = s.fault := rfl
@[simp] theorem State.surveyEnds_latch : (s.surveyEnds).latch = s.latch := rfl
@[simp] theorem State.surveyEnds_windows : (s.surveyEnds).windows = s.windows := rfl
@[simp] theorem State.surveyEnds_rewrite : (s.surveyEnds).rewrite = s.rewrite := rfl
@[simp] theorem State.surveyEnds_mem : (s.surveyEnds).mem = s.mem := rfl
@[simp] theorem State.surveyEnds_port : (s.surveyEnds).port = s.port := rfl
@[simp] theorem State.surveyEnds_mail : (s.surveyEnds).mail = s.mail := rfl
@[simp] theorem State.surveyEnds_settings : (s.surveyEnds).settings = s.settings := rfl
@[simp] theorem State.surveyEnds_board : (s.surveyEnds).board = { s.board with pos := .idle, ending := false } := rfl
@[simp] theorem State.surveyEnds_engine : (s.surveyEnds).engine = s.engine := rfl
@[simp] theorem State.surveyEnds_air : (s.surveyEnds).air = s.air := rfl
@[simp] theorem State.surveyEnds_coupling : (s.surveyEnds).coupling = s.coupling := rfl
@[simp] theorem State.surveyEnds_params : (s.surveyEnds).params = s.params := rfl
@[simp] theorem State.surveyEnds_spares : (s.surveyEnds).spares = s.spares := rfl
@[simp] theorem State.surveyEnds_cache : (s.surveyEnds).cache = s.cache := rfl
@[simp] theorem State.surveyEnds_alt : (s.surveyEnds).alt = s.alt := rfl
@[simp] theorem State.surveyEnds_bins : (s.surveyEnds).bins = s.bins := rfl
@[simp] theorem State.surveyEnds_band : (s.surveyEnds).band = s.band := rfl
@[simp] theorem State.surveyEnds_occThreshold : (s.surveyEnds).occThreshold = s.occThreshold := rfl
@[simp] theorem State.surveyEnds_sweep : (s.surveyEnds).sweep = s.sweep := rfl
@[simp] theorem State.surveyEnds_tuner : (s.surveyEnds).tuner = s.tuner := rfl
@[simp] theorem State.surveyEnds_lines : (s.surveyEnds).lines = s.lines := rfl
@[simp] theorem State.surveyEnds_watch : (s.surveyEnds).watch = s.watch := rfl
@[simp] theorem State.surveyEnds_swapAnswers : (s.surveyEnds).swapAnswers = s.swapAnswers := rfl
@[simp] theorem State.surveyEnds_status : (s.surveyEnds).status = s.status := rfl
@[simp] theorem State.surveyEnds_paces : (s.surveyEnds).paces = s.paces := rfl

/-! ### `setStatusJob` -/

@[simp] theorem State.setStatusJob_pending (j : StatusJob) : (s.setStatusJob j).pending = s.pending := rfl
@[simp] theorem State.setStatusJob_run (j : StatusJob) : (s.setStatusJob j).run = s.run := rfl
@[simp] theorem State.setStatusJob_runBit (j : StatusJob) : (s.setStatusJob j).runBit = s.runBit := rfl
@[simp] theorem State.setStatusJob_anchor (j : StatusJob) : (s.setStatusJob j).anchor = s.anchor := rfl
@[simp] theorem State.setStatusJob_intEnable (j : StatusJob) : (s.setStatusJob j).intEnable = s.intEnable := rfl
@[simp] theorem State.setStatusJob_causes (j : StatusJob) : (s.setStatusJob j).causes = s.causes := rfl
@[simp] theorem State.setStatusJob_fault (j : StatusJob) : (s.setStatusJob j).fault = s.fault := rfl
@[simp] theorem State.setStatusJob_latch (j : StatusJob) : (s.setStatusJob j).latch = s.latch := rfl
@[simp] theorem State.setStatusJob_windows (j : StatusJob) : (s.setStatusJob j).windows = s.windows := rfl
@[simp] theorem State.setStatusJob_rewrite (j : StatusJob) : (s.setStatusJob j).rewrite = s.rewrite := rfl
@[simp] theorem State.setStatusJob_mem (j : StatusJob) : (s.setStatusJob j).mem = s.mem := rfl
@[simp] theorem State.setStatusJob_port (j : StatusJob) : (s.setStatusJob j).port = s.port := rfl
@[simp] theorem State.setStatusJob_mail (j : StatusJob) : (s.setStatusJob j).mail = s.mail := rfl
@[simp] theorem State.setStatusJob_settings (j : StatusJob) : (s.setStatusJob j).settings = s.settings := rfl
@[simp] theorem State.setStatusJob_board (j : StatusJob) : (s.setStatusJob j).board = s.board := rfl
@[simp] theorem State.setStatusJob_engine (j : StatusJob) : (s.setStatusJob j).engine = s.engine := rfl
@[simp] theorem State.setStatusJob_air (j : StatusJob) : (s.setStatusJob j).air = s.air := rfl
@[simp] theorem State.setStatusJob_coupling (j : StatusJob) : (s.setStatusJob j).coupling = s.coupling := rfl
@[simp] theorem State.setStatusJob_params (j : StatusJob) : (s.setStatusJob j).params = s.params := rfl
@[simp] theorem State.setStatusJob_spares (j : StatusJob) : (s.setStatusJob j).spares = s.spares := rfl
@[simp] theorem State.setStatusJob_cache (j : StatusJob) : (s.setStatusJob j).cache = s.cache := rfl
@[simp] theorem State.setStatusJob_alt (j : StatusJob) : (s.setStatusJob j).alt = s.alt := rfl
@[simp] theorem State.setStatusJob_bins (j : StatusJob) : (s.setStatusJob j).bins = s.bins := rfl
@[simp] theorem State.setStatusJob_band (j : StatusJob) : (s.setStatusJob j).band = s.band := rfl
@[simp] theorem State.setStatusJob_occThreshold (j : StatusJob) : (s.setStatusJob j).occThreshold = s.occThreshold := rfl
@[simp] theorem State.setStatusJob_sweep (j : StatusJob) : (s.setStatusJob j).sweep = s.sweep := rfl
@[simp] theorem State.setStatusJob_tuner (j : StatusJob) : (s.setStatusJob j).tuner = s.tuner := rfl
@[simp] theorem State.setStatusJob_lines (j : StatusJob) : (s.setStatusJob j).lines = s.lines := rfl
@[simp] theorem State.setStatusJob_watch (j : StatusJob) : (s.setStatusJob j).watch = s.watch := rfl
@[simp] theorem State.setStatusJob_swapAnswers (j : StatusJob) : (s.setStatusJob j).swapAnswers = s.swapAnswers := rfl
@[simp] theorem State.setStatusJob_status (j : StatusJob) : (s.setStatusJob j).status = { s.status with job := j } := rfl
@[simp] theorem State.setStatusJob_paces (j : StatusJob) : (s.setStatusJob j).paces = s.paces := rfl

/-! ### `bumpSeq` -/

@[simp] theorem State.bumpSeq_pending (r : RecId) : (s.bumpSeq r).pending = s.pending := rfl
@[simp] theorem State.bumpSeq_run (r : RecId) : (s.bumpSeq r).run = s.run := rfl
@[simp] theorem State.bumpSeq_runBit (r : RecId) : (s.bumpSeq r).runBit = s.runBit := rfl
@[simp] theorem State.bumpSeq_anchor (r : RecId) : (s.bumpSeq r).anchor = s.anchor := rfl
@[simp] theorem State.bumpSeq_intEnable (r : RecId) : (s.bumpSeq r).intEnable = s.intEnable := rfl
@[simp] theorem State.bumpSeq_causes (r : RecId) : (s.bumpSeq r).causes = s.causes := rfl
@[simp] theorem State.bumpSeq_fault (r : RecId) : (s.bumpSeq r).fault = s.fault := rfl
@[simp] theorem State.bumpSeq_latch (r : RecId) : (s.bumpSeq r).latch = s.latch := rfl
@[simp] theorem State.bumpSeq_windows (r : RecId) : (s.bumpSeq r).windows = s.windows := rfl
@[simp] theorem State.bumpSeq_rewrite (r : RecId) : (s.bumpSeq r).rewrite = s.rewrite := rfl
@[simp] theorem State.bumpSeq_mem (r : RecId) : (s.bumpSeq r).mem = s.mem := rfl
@[simp] theorem State.bumpSeq_port (r : RecId) : (s.bumpSeq r).port = s.port := rfl
@[simp] theorem State.bumpSeq_mail (r : RecId) : (s.bumpSeq r).mail = s.mail := rfl
@[simp] theorem State.bumpSeq_settings (r : RecId) : (s.bumpSeq r).settings = s.settings := rfl
@[simp] theorem State.bumpSeq_board (r : RecId) : (s.bumpSeq r).board = s.board := rfl
@[simp] theorem State.bumpSeq_engine (r : RecId) : (s.bumpSeq r).engine = s.engine := rfl
@[simp] theorem State.bumpSeq_air (r : RecId) : (s.bumpSeq r).air = s.air := rfl
@[simp] theorem State.bumpSeq_coupling (r : RecId) : (s.bumpSeq r).coupling = s.coupling := rfl
@[simp] theorem State.bumpSeq_params (r : RecId) : (s.bumpSeq r).params = s.params := rfl
@[simp] theorem State.bumpSeq_spares (r : RecId) : (s.bumpSeq r).spares = s.spares := rfl
@[simp] theorem State.bumpSeq_cache (r : RecId) : (s.bumpSeq r).cache = s.cache := rfl
@[simp] theorem State.bumpSeq_alt (r : RecId) : (s.bumpSeq r).alt = s.alt := rfl
@[simp] theorem State.bumpSeq_bins (r : RecId) : (s.bumpSeq r).bins = s.bins := rfl
@[simp] theorem State.bumpSeq_band (r : RecId) : (s.bumpSeq r).band = s.band := rfl
@[simp] theorem State.bumpSeq_occThreshold (r : RecId) : (s.bumpSeq r).occThreshold = s.occThreshold := rfl
@[simp] theorem State.bumpSeq_sweep (r : RecId) : (s.bumpSeq r).sweep = s.sweep := rfl
@[simp] theorem State.bumpSeq_tuner (r : RecId) : (s.bumpSeq r).tuner = s.tuner := rfl
@[simp] theorem State.bumpSeq_lines (r : RecId) : (s.bumpSeq r).lines = s.lines := rfl
@[simp] theorem State.bumpSeq_watch (r : RecId) : (s.bumpSeq r).watch = s.watch := rfl
@[simp] theorem State.bumpSeq_swapAnswers (r : RecId) : (s.bumpSeq r).swapAnswers = s.swapAnswers := rfl
@[simp] theorem State.bumpSeq_status (r : RecId) : (s.bumpSeq r).status = { s.status with seqs := sparseSet 0 s.status.seqs r.index (s.seq r + 1) } := rfl
@[simp] theorem State.bumpSeq_paces (r : RecId) : (s.bumpSeq r).paces = s.paces := rfl

/-! ### `mark` -/

@[simp] theorem State.mark_pending (r : RecId) : (s.mark r).pending = s.pending := by unfold State.mark; split_ifs <;> rfl
@[simp] theorem State.mark_run (r : RecId) : (s.mark r).run = s.run := by unfold State.mark; split_ifs <;> rfl
@[simp] theorem State.mark_runBit (r : RecId) : (s.mark r).runBit = s.runBit := by unfold State.mark; split_ifs <;> rfl
@[simp] theorem State.mark_anchor (r : RecId) : (s.mark r).anchor = s.anchor := by unfold State.mark; split_ifs <;> rfl
@[simp] theorem State.mark_intEnable (r : RecId) : (s.mark r).intEnable = s.intEnable := by unfold State.mark; split_ifs <;> rfl
@[simp] theorem State.mark_causes (r : RecId) : (s.mark r).causes = s.causes := by unfold State.mark; split_ifs <;> rfl
@[simp] theorem State.mark_fault (r : RecId) : (s.mark r).fault = s.fault := by unfold State.mark; split_ifs <;> rfl
@[simp] theorem State.mark_latch (r : RecId) : (s.mark r).latch = s.latch := by unfold State.mark; split_ifs <;> rfl
@[simp] theorem State.mark_windows (r : RecId) : (s.mark r).windows = s.windows := by unfold State.mark; split_ifs <;> rfl
@[simp] theorem State.mark_rewrite (r : RecId) : (s.mark r).rewrite = s.rewrite := by unfold State.mark; split_ifs <;> rfl
@[simp] theorem State.mark_mem (r : RecId) : (s.mark r).mem = s.mem := by unfold State.mark; split_ifs <;> rfl
@[simp] theorem State.mark_port (r : RecId) : (s.mark r).port = s.port := by unfold State.mark; split_ifs <;> rfl
@[simp] theorem State.mark_mail (r : RecId) : (s.mark r).mail = s.mail := by unfold State.mark; split_ifs <;> rfl
@[simp] theorem State.mark_settings (r : RecId) : (s.mark r).settings = s.settings := by unfold State.mark; split_ifs <;> rfl
@[simp] theorem State.mark_board (r : RecId) : (s.mark r).board = s.board := by unfold State.mark; split_ifs <;> rfl
@[simp] theorem State.mark_engine (r : RecId) : (s.mark r).engine = s.engine := by unfold State.mark; split_ifs <;> rfl
@[simp] theorem State.mark_air (r : RecId) : (s.mark r).air = s.air := by unfold State.mark; split_ifs <;> rfl
@[simp] theorem State.mark_coupling (r : RecId) : (s.mark r).coupling = s.coupling := by unfold State.mark; split_ifs <;> rfl
@[simp] theorem State.mark_params (r : RecId) : (s.mark r).params = s.params := by unfold State.mark; split_ifs <;> rfl
@[simp] theorem State.mark_spares (r : RecId) : (s.mark r).spares = s.spares := by unfold State.mark; split_ifs <;> rfl
@[simp] theorem State.mark_cache (r : RecId) : (s.mark r).cache = s.cache := by unfold State.mark; split_ifs <;> rfl
@[simp] theorem State.mark_alt (r : RecId) : (s.mark r).alt = s.alt := by unfold State.mark; split_ifs <;> rfl
@[simp] theorem State.mark_bins (r : RecId) : (s.mark r).bins = s.bins := by unfold State.mark; split_ifs <;> rfl
@[simp] theorem State.mark_band (r : RecId) : (s.mark r).band = s.band := by unfold State.mark; split_ifs <;> rfl
@[simp] theorem State.mark_occThreshold (r : RecId) : (s.mark r).occThreshold = s.occThreshold := by unfold State.mark; split_ifs <;> rfl
@[simp] theorem State.mark_sweep (r : RecId) : (s.mark r).sweep = s.sweep := by unfold State.mark; split_ifs <;> rfl
@[simp] theorem State.mark_tuner (r : RecId) : (s.mark r).tuner = s.tuner := by unfold State.mark; split_ifs <;> rfl
@[simp] theorem State.mark_lines (r : RecId) : (s.mark r).lines = s.lines := by unfold State.mark; split_ifs <;> rfl
@[simp] theorem State.mark_watch (r : RecId) : (s.mark r).watch = s.watch := by unfold State.mark; split_ifs <;> rfl
@[simp] theorem State.mark_swapAnswers (r : RecId) : (s.mark r).swapAnswers = s.swapAnswers := by unfold State.mark; split_ifs <;> rfl
@[simp] theorem State.mark_paces (r : RecId) : (s.mark r).paces = s.paces := by unfold State.mark; split_ifs <;> rfl

/-! ### `markAll` -/

@[simp] theorem State.markAll_pending (rs : List RecId) : (s.markAll rs).pending = s.pending := by
  unfold State.markAll
  induction rs generalizing s with
  | nil => rfl
  | cons r rs ih => simp [ih]
@[simp] theorem State.markAll_run (rs : List RecId) : (s.markAll rs).run = s.run := by
  unfold State.markAll
  induction rs generalizing s with
  | nil => rfl
  | cons r rs ih => simp [ih]
@[simp] theorem State.markAll_runBit (rs : List RecId) : (s.markAll rs).runBit = s.runBit := by
  unfold State.markAll
  induction rs generalizing s with
  | nil => rfl
  | cons r rs ih => simp [ih]
@[simp] theorem State.markAll_anchor (rs : List RecId) : (s.markAll rs).anchor = s.anchor := by
  unfold State.markAll
  induction rs generalizing s with
  | nil => rfl
  | cons r rs ih => simp [ih]
@[simp] theorem State.markAll_intEnable (rs : List RecId) : (s.markAll rs).intEnable = s.intEnable := by
  unfold State.markAll
  induction rs generalizing s with
  | nil => rfl
  | cons r rs ih => simp [ih]
@[simp] theorem State.markAll_causes (rs : List RecId) : (s.markAll rs).causes = s.causes := by
  unfold State.markAll
  induction rs generalizing s with
  | nil => rfl
  | cons r rs ih => simp [ih]
@[simp] theorem State.markAll_fault (rs : List RecId) : (s.markAll rs).fault = s.fault := by
  unfold State.markAll
  induction rs generalizing s with
  | nil => rfl
  | cons r rs ih => simp [ih]
@[simp] theorem State.markAll_latch (rs : List RecId) : (s.markAll rs).latch = s.latch := by
  unfold State.markAll
  induction rs generalizing s with
  | nil => rfl
  | cons r rs ih => simp [ih]
@[simp] theorem State.markAll_windows (rs : List RecId) : (s.markAll rs).windows = s.windows := by
  unfold State.markAll
  induction rs generalizing s with
  | nil => rfl
  | cons r rs ih => simp [ih]
@[simp] theorem State.markAll_rewrite (rs : List RecId) : (s.markAll rs).rewrite = s.rewrite := by
  unfold State.markAll
  induction rs generalizing s with
  | nil => rfl
  | cons r rs ih => simp [ih]
@[simp] theorem State.markAll_mem (rs : List RecId) : (s.markAll rs).mem = s.mem := by
  unfold State.markAll
  induction rs generalizing s with
  | nil => rfl
  | cons r rs ih => simp [ih]
@[simp] theorem State.markAll_port (rs : List RecId) : (s.markAll rs).port = s.port := by
  unfold State.markAll
  induction rs generalizing s with
  | nil => rfl
  | cons r rs ih => simp [ih]
@[simp] theorem State.markAll_mail (rs : List RecId) : (s.markAll rs).mail = s.mail := by
  unfold State.markAll
  induction rs generalizing s with
  | nil => rfl
  | cons r rs ih => simp [ih]
@[simp] theorem State.markAll_settings (rs : List RecId) : (s.markAll rs).settings = s.settings := by
  unfold State.markAll
  induction rs generalizing s with
  | nil => rfl
  | cons r rs ih => simp [ih]
@[simp] theorem State.markAll_board (rs : List RecId) : (s.markAll rs).board = s.board := by
  unfold State.markAll
  induction rs generalizing s with
  | nil => rfl
  | cons r rs ih => simp [ih]
@[simp] theorem State.markAll_engine (rs : List RecId) : (s.markAll rs).engine = s.engine := by
  unfold State.markAll
  induction rs generalizing s with
  | nil => rfl
  | cons r rs ih => simp [ih]
@[simp] theorem State.markAll_air (rs : List RecId) : (s.markAll rs).air = s.air := by
  unfold State.markAll
  induction rs generalizing s with
  | nil => rfl
  | cons r rs ih => simp [ih]
@[simp] theorem State.markAll_coupling (rs : List RecId) : (s.markAll rs).coupling = s.coupling := by
  unfold State.markAll
  induction rs generalizing s with
  | nil => rfl
  | cons r rs ih => simp [ih]
@[simp] theorem State.markAll_params (rs : List RecId) : (s.markAll rs).params = s.params := by
  unfold State.markAll
  induction rs generalizing s with
  | nil => rfl
  | cons r rs ih => simp [ih]
@[simp] theorem State.markAll_spares (rs : List RecId) : (s.markAll rs).spares = s.spares := by
  unfold State.markAll
  induction rs generalizing s with
  | nil => rfl
  | cons r rs ih => simp [ih]
@[simp] theorem State.markAll_cache (rs : List RecId) : (s.markAll rs).cache = s.cache := by
  unfold State.markAll
  induction rs generalizing s with
  | nil => rfl
  | cons r rs ih => simp [ih]
@[simp] theorem State.markAll_alt (rs : List RecId) : (s.markAll rs).alt = s.alt := by
  unfold State.markAll
  induction rs generalizing s with
  | nil => rfl
  | cons r rs ih => simp [ih]
@[simp] theorem State.markAll_bins (rs : List RecId) : (s.markAll rs).bins = s.bins := by
  unfold State.markAll
  induction rs generalizing s with
  | nil => rfl
  | cons r rs ih => simp [ih]
@[simp] theorem State.markAll_band (rs : List RecId) : (s.markAll rs).band = s.band := by
  unfold State.markAll
  induction rs generalizing s with
  | nil => rfl
  | cons r rs ih => simp [ih]
@[simp] theorem State.markAll_occThreshold (rs : List RecId) : (s.markAll rs).occThreshold = s.occThreshold := by
  unfold State.markAll
  induction rs generalizing s with
  | nil => rfl
  | cons r rs ih => simp [ih]
@[simp] theorem State.markAll_sweep (rs : List RecId) : (s.markAll rs).sweep = s.sweep := by
  unfold State.markAll
  induction rs generalizing s with
  | nil => rfl
  | cons r rs ih => simp [ih]
@[simp] theorem State.markAll_tuner (rs : List RecId) : (s.markAll rs).tuner = s.tuner := by
  unfold State.markAll
  induction rs generalizing s with
  | nil => rfl
  | cons r rs ih => simp [ih]
@[simp] theorem State.markAll_lines (rs : List RecId) : (s.markAll rs).lines = s.lines := by
  unfold State.markAll
  induction rs generalizing s with
  | nil => rfl
  | cons r rs ih => simp [ih]
@[simp] theorem State.markAll_watch (rs : List RecId) : (s.markAll rs).watch = s.watch := by
  unfold State.markAll
  induction rs generalizing s with
  | nil => rfl
  | cons r rs ih => simp [ih]
@[simp] theorem State.markAll_swapAnswers (rs : List RecId) : (s.markAll rs).swapAnswers = s.swapAnswers := by
  unfold State.markAll
  induction rs generalizing s with
  | nil => rfl
  | cons r rs ih => simp [ih]
@[simp] theorem State.markAll_paces (rs : List RecId) : (s.markAll rs).paces = s.paces := by
  unfold State.markAll
  induction rs generalizing s with
  | nil => rfl
  | cons r rs ih => simp [ih]

/-! ### `keep` -/

@[simp] theorem State.keep_pending (id : Nat) (k : Kept) : (s.keep id k).pending = s.pending := by unfold State.keep; split_ifs <;> simp
@[simp] theorem State.keep_run (id : Nat) (k : Kept) : (s.keep id k).run = s.run := by unfold State.keep; split_ifs <;> simp
@[simp] theorem State.keep_runBit (id : Nat) (k : Kept) : (s.keep id k).runBit = s.runBit := by unfold State.keep; split_ifs <;> simp
@[simp] theorem State.keep_anchor (id : Nat) (k : Kept) : (s.keep id k).anchor = s.anchor := by unfold State.keep; split_ifs <;> simp
@[simp] theorem State.keep_intEnable (id : Nat) (k : Kept) : (s.keep id k).intEnable = s.intEnable := by unfold State.keep; split_ifs <;> simp
@[simp] theorem State.keep_causes (id : Nat) (k : Kept) : (s.keep id k).causes = s.causes := by unfold State.keep; split_ifs <;> simp
@[simp] theorem State.keep_fault (id : Nat) (k : Kept) : (s.keep id k).fault = s.fault := by unfold State.keep; split_ifs <;> simp
@[simp] theorem State.keep_latch (id : Nat) (k : Kept) : (s.keep id k).latch = s.latch := by unfold State.keep; split_ifs <;> simp
@[simp] theorem State.keep_windows (id : Nat) (k : Kept) : (s.keep id k).windows = s.windows := by unfold State.keep; split_ifs <;> simp
@[simp] theorem State.keep_rewrite (id : Nat) (k : Kept) : (s.keep id k).rewrite = s.rewrite := by unfold State.keep; split_ifs <;> simp
@[simp] theorem State.keep_mem (id : Nat) (k : Kept) : (s.keep id k).mem = s.mem := by unfold State.keep; split_ifs <;> simp
@[simp] theorem State.keep_port (id : Nat) (k : Kept) : (s.keep id k).port = s.port := by unfold State.keep; split_ifs <;> simp
@[simp] theorem State.keep_mail (id : Nat) (k : Kept) : (s.keep id k).mail = s.mail := by unfold State.keep; split_ifs <;> simp
@[simp] theorem State.keep_settings (id : Nat) (k : Kept) : (s.keep id k).settings = s.settings := by unfold State.keep; split_ifs <;> simp
@[simp] theorem State.keep_board (id : Nat) (k : Kept) : (s.keep id k).board = s.board := by unfold State.keep; split_ifs <;> simp
@[simp] theorem State.keep_engine (id : Nat) (k : Kept) : (s.keep id k).engine = s.engine := by unfold State.keep; split_ifs <;> simp
@[simp] theorem State.keep_air (id : Nat) (k : Kept) : (s.keep id k).air = s.air := by unfold State.keep; split_ifs <;> simp
@[simp] theorem State.keep_coupling (id : Nat) (k : Kept) : (s.keep id k).coupling = s.coupling := by unfold State.keep; split_ifs <;> simp
@[simp] theorem State.keep_params (id : Nat) (k : Kept) : (s.keep id k).params = s.params := by unfold State.keep; split_ifs <;> simp
@[simp] theorem State.keep_spares (id : Nat) (k : Kept) : (s.keep id k).spares = s.spares := by unfold State.keep; split_ifs <;> simp
@[simp] theorem State.keep_cache (id : Nat) (k : Kept) : (s.keep id k).cache = s.cache := by unfold State.keep; split_ifs <;> simp
@[simp] theorem State.keep_alt (id : Nat) (k : Kept) : (s.keep id k).alt = s.alt := by unfold State.keep; split_ifs <;> simp
@[simp] theorem State.keep_bins (id : Nat) (k : Kept) : (s.keep id k).bins = s.bins := by unfold State.keep; split_ifs <;> simp
@[simp] theorem State.keep_band (id : Nat) (k : Kept) : (s.keep id k).band = s.band := by unfold State.keep; split_ifs <;> simp
@[simp] theorem State.keep_occThreshold (id : Nat) (k : Kept) : (s.keep id k).occThreshold = s.occThreshold := by unfold State.keep; split_ifs <;> simp
@[simp] theorem State.keep_sweep (id : Nat) (k : Kept) : (s.keep id k).sweep = s.sweep := by unfold State.keep; split_ifs <;> simp
@[simp] theorem State.keep_tuner (id : Nat) (k : Kept) : (s.keep id k).tuner = s.tuner := by unfold State.keep; split_ifs <;> simp
@[simp] theorem State.keep_lines (id : Nat) (k : Kept) : (s.keep id k).lines = s.lines := by unfold State.keep; split_ifs <;> simp
@[simp] theorem State.keep_watch (id : Nat) (k : Kept) : (s.keep id k).watch = s.watch := by unfold State.keep; split_ifs <;> simp
@[simp] theorem State.keep_swapAnswers (id : Nat) (k : Kept) : (s.keep id k).swapAnswers = s.swapAnswers := by unfold State.keep; split_ifs <;> simp
@[simp] theorem State.keep_paces (id : Nat) (k : Kept) : (s.keep id k).paces = s.paces := by unfold State.keep; split_ifs <;> simp

/-! ### `recordFault` -/

@[simp] theorem State.recordFault_pending (a : Nat) (k : FaultKind) (q : Requester) : (s.recordFault a k q).pending = s.pending := by unfold State.recordFault; split_ifs <;> rfl
@[simp] theorem State.recordFault_run (a : Nat) (k : FaultKind) (q : Requester) : (s.recordFault a k q).run = s.run := by unfold State.recordFault; split_ifs <;> rfl
@[simp] theorem State.recordFault_runBit (a : Nat) (k : FaultKind) (q : Requester) : (s.recordFault a k q).runBit = s.runBit := by unfold State.recordFault; split_ifs <;> rfl
@[simp] theorem State.recordFault_anchor (a : Nat) (k : FaultKind) (q : Requester) : (s.recordFault a k q).anchor = s.anchor := by unfold State.recordFault; split_ifs <;> rfl
@[simp] theorem State.recordFault_intEnable (a : Nat) (k : FaultKind) (q : Requester) : (s.recordFault a k q).intEnable = s.intEnable := by unfold State.recordFault; split_ifs <;> rfl
@[simp] theorem State.recordFault_latch (a : Nat) (k : FaultKind) (q : Requester) : (s.recordFault a k q).latch = s.latch := by unfold State.recordFault; split_ifs <;> rfl
@[simp] theorem State.recordFault_windows (a : Nat) (k : FaultKind) (q : Requester) : (s.recordFault a k q).windows = s.windows := by unfold State.recordFault; split_ifs <;> rfl
@[simp] theorem State.recordFault_rewrite (a : Nat) (k : FaultKind) (q : Requester) : (s.recordFault a k q).rewrite = s.rewrite := by unfold State.recordFault; split_ifs <;> rfl
@[simp] theorem State.recordFault_mem (a : Nat) (k : FaultKind) (q : Requester) : (s.recordFault a k q).mem = s.mem := by unfold State.recordFault; split_ifs <;> rfl
@[simp] theorem State.recordFault_port (a : Nat) (k : FaultKind) (q : Requester) : (s.recordFault a k q).port = s.port := by unfold State.recordFault; split_ifs <;> rfl
@[simp] theorem State.recordFault_mail (a : Nat) (k : FaultKind) (q : Requester) : (s.recordFault a k q).mail = s.mail := by unfold State.recordFault; split_ifs <;> rfl
@[simp] theorem State.recordFault_settings (a : Nat) (k : FaultKind) (q : Requester) : (s.recordFault a k q).settings = s.settings := by unfold State.recordFault; split_ifs <;> rfl
@[simp] theorem State.recordFault_board (a : Nat) (k : FaultKind) (q : Requester) : (s.recordFault a k q).board = s.board := by unfold State.recordFault; split_ifs <;> rfl
@[simp] theorem State.recordFault_engine (a : Nat) (k : FaultKind) (q : Requester) : (s.recordFault a k q).engine = s.engine := by unfold State.recordFault; split_ifs <;> rfl
@[simp] theorem State.recordFault_air (a : Nat) (k : FaultKind) (q : Requester) : (s.recordFault a k q).air = s.air := by unfold State.recordFault; split_ifs <;> rfl
@[simp] theorem State.recordFault_coupling (a : Nat) (k : FaultKind) (q : Requester) : (s.recordFault a k q).coupling = s.coupling := by unfold State.recordFault; split_ifs <;> rfl
@[simp] theorem State.recordFault_params (a : Nat) (k : FaultKind) (q : Requester) : (s.recordFault a k q).params = s.params := by unfold State.recordFault; split_ifs <;> rfl
@[simp] theorem State.recordFault_spares (a : Nat) (k : FaultKind) (q : Requester) : (s.recordFault a k q).spares = s.spares := by unfold State.recordFault; split_ifs <;> rfl
@[simp] theorem State.recordFault_cache (a : Nat) (k : FaultKind) (q : Requester) : (s.recordFault a k q).cache = s.cache := by unfold State.recordFault; split_ifs <;> rfl
@[simp] theorem State.recordFault_alt (a : Nat) (k : FaultKind) (q : Requester) : (s.recordFault a k q).alt = s.alt := by unfold State.recordFault; split_ifs <;> rfl
@[simp] theorem State.recordFault_bins (a : Nat) (k : FaultKind) (q : Requester) : (s.recordFault a k q).bins = s.bins := by unfold State.recordFault; split_ifs <;> rfl
@[simp] theorem State.recordFault_band (a : Nat) (k : FaultKind) (q : Requester) : (s.recordFault a k q).band = s.band := by unfold State.recordFault; split_ifs <;> rfl
@[simp] theorem State.recordFault_occThreshold (a : Nat) (k : FaultKind) (q : Requester) : (s.recordFault a k q).occThreshold = s.occThreshold := by unfold State.recordFault; split_ifs <;> rfl
@[simp] theorem State.recordFault_sweep (a : Nat) (k : FaultKind) (q : Requester) : (s.recordFault a k q).sweep = s.sweep := by unfold State.recordFault; split_ifs <;> rfl
@[simp] theorem State.recordFault_tuner (a : Nat) (k : FaultKind) (q : Requester) : (s.recordFault a k q).tuner = s.tuner := by unfold State.recordFault; split_ifs <;> rfl
@[simp] theorem State.recordFault_lines (a : Nat) (k : FaultKind) (q : Requester) : (s.recordFault a k q).lines = s.lines := by unfold State.recordFault; split_ifs <;> rfl
@[simp] theorem State.recordFault_watch (a : Nat) (k : FaultKind) (q : Requester) : (s.recordFault a k q).watch = s.watch := by unfold State.recordFault; split_ifs <;> rfl
@[simp] theorem State.recordFault_swapAnswers (a : Nat) (k : FaultKind) (q : Requester) : (s.recordFault a k q).swapAnswers = s.swapAnswers := by unfold State.recordFault; split_ifs <;> rfl
@[simp] theorem State.recordFault_status (a : Nat) (k : FaultKind) (q : Requester) : (s.recordFault a k q).status = s.status := by unfold State.recordFault; split_ifs <;> rfl
@[simp] theorem State.recordFault_paces (a : Nat) (k : FaultKind) (q : Requester) : (s.recordFault a k q).paces = s.paces := by unfold State.recordFault; split_ifs <;> rfl

/-! ### `present` -/

@[simp] theorem State.present_pending (o : Owner) (w : Bool) (a n : Nat) (d : List Byte) : (s.present o w a n d).pending = s.pending := by unfold State.present; split_ifs <;> simp
@[simp] theorem State.present_run (o : Owner) (w : Bool) (a n : Nat) (d : List Byte) : (s.present o w a n d).run = s.run := by unfold State.present; split_ifs <;> simp
@[simp] theorem State.present_runBit (o : Owner) (w : Bool) (a n : Nat) (d : List Byte) : (s.present o w a n d).runBit = s.runBit := by unfold State.present; split_ifs <;> simp
@[simp] theorem State.present_anchor (o : Owner) (w : Bool) (a n : Nat) (d : List Byte) : (s.present o w a n d).anchor = s.anchor := by unfold State.present; split_ifs <;> simp
@[simp] theorem State.present_intEnable (o : Owner) (w : Bool) (a n : Nat) (d : List Byte) : (s.present o w a n d).intEnable = s.intEnable := by unfold State.present; split_ifs <;> simp
@[simp] theorem State.present_latch (o : Owner) (w : Bool) (a n : Nat) (d : List Byte) : (s.present o w a n d).latch = s.latch := by unfold State.present; split_ifs <;> simp
@[simp] theorem State.present_windows (o : Owner) (w : Bool) (a n : Nat) (d : List Byte) : (s.present o w a n d).windows = s.windows := by unfold State.present; split_ifs <;> simp
@[simp] theorem State.present_rewrite (o : Owner) (w : Bool) (a n : Nat) (d : List Byte) : (s.present o w a n d).rewrite = s.rewrite := by unfold State.present; split_ifs <;> simp
@[simp] theorem State.present_mem (o : Owner) (w : Bool) (a n : Nat) (d : List Byte) : (s.present o w a n d).mem = s.mem := by unfold State.present; split_ifs <;> simp
@[simp] theorem State.present_settings (o : Owner) (w : Bool) (a n : Nat) (d : List Byte) : (s.present o w a n d).settings = s.settings := by unfold State.present; split_ifs <;> simp
@[simp] theorem State.present_board (o : Owner) (w : Bool) (a n : Nat) (d : List Byte) : (s.present o w a n d).board = s.board := by unfold State.present; split_ifs <;> simp
@[simp] theorem State.present_engine (o : Owner) (w : Bool) (a n : Nat) (d : List Byte) : (s.present o w a n d).engine = s.engine := by unfold State.present; split_ifs <;> simp
@[simp] theorem State.present_air (o : Owner) (w : Bool) (a n : Nat) (d : List Byte) : (s.present o w a n d).air = s.air := by unfold State.present; split_ifs <;> simp
@[simp] theorem State.present_coupling (o : Owner) (w : Bool) (a n : Nat) (d : List Byte) : (s.present o w a n d).coupling = s.coupling := by unfold State.present; split_ifs <;> simp
@[simp] theorem State.present_params (o : Owner) (w : Bool) (a n : Nat) (d : List Byte) : (s.present o w a n d).params = s.params := by unfold State.present; split_ifs <;> simp
@[simp] theorem State.present_spares (o : Owner) (w : Bool) (a n : Nat) (d : List Byte) : (s.present o w a n d).spares = s.spares := by unfold State.present; split_ifs <;> simp
@[simp] theorem State.present_cache (o : Owner) (w : Bool) (a n : Nat) (d : List Byte) : (s.present o w a n d).cache = s.cache := by unfold State.present; split_ifs <;> simp
@[simp] theorem State.present_alt (o : Owner) (w : Bool) (a n : Nat) (d : List Byte) : (s.present o w a n d).alt = s.alt := by unfold State.present; split_ifs <;> simp
@[simp] theorem State.present_bins (o : Owner) (w : Bool) (a n : Nat) (d : List Byte) : (s.present o w a n d).bins = s.bins := by unfold State.present; split_ifs <;> simp
@[simp] theorem State.present_band (o : Owner) (w : Bool) (a n : Nat) (d : List Byte) : (s.present o w a n d).band = s.band := by unfold State.present; split_ifs <;> simp
@[simp] theorem State.present_occThreshold (o : Owner) (w : Bool) (a n : Nat) (d : List Byte) : (s.present o w a n d).occThreshold = s.occThreshold := by unfold State.present; split_ifs <;> simp
@[simp] theorem State.present_sweep (o : Owner) (w : Bool) (a n : Nat) (d : List Byte) : (s.present o w a n d).sweep = s.sweep := by unfold State.present; split_ifs <;> simp
@[simp] theorem State.present_tuner (o : Owner) (w : Bool) (a n : Nat) (d : List Byte) : (s.present o w a n d).tuner = s.tuner := by unfold State.present; split_ifs <;> simp
@[simp] theorem State.present_lines (o : Owner) (w : Bool) (a n : Nat) (d : List Byte) : (s.present o w a n d).lines = s.lines := by unfold State.present; split_ifs <;> simp
@[simp] theorem State.present_watch (o : Owner) (w : Bool) (a n : Nat) (d : List Byte) : (s.present o w a n d).watch = s.watch := by unfold State.present; split_ifs <;> simp
@[simp] theorem State.present_swapAnswers (o : Owner) (w : Bool) (a n : Nat) (d : List Byte) : (s.present o w a n d).swapAnswers = s.swapAnswers := by unfold State.present; split_ifs <;> simp
@[simp] theorem State.present_status (o : Owner) (w : Bool) (a n : Nat) (d : List Byte) : (s.present o w a n d).status = s.status := by unfold State.present; split_ifs <;> simp
@[simp] theorem State.present_paces (o : Owner) (w : Bool) (a n : Nat) (d : List Byte) : (s.present o w a n d).paces = s.paces := by unfold State.present; split_ifs <;> simp

/-! ### `presentRead` -/

@[simp] theorem State.presentRead_pending (o : Owner) (a n : Nat) : (s.presentRead o a n).pending = s.pending := by simp [State.presentRead]
@[simp] theorem State.presentRead_run (o : Owner) (a n : Nat) : (s.presentRead o a n).run = s.run := by simp [State.presentRead]
@[simp] theorem State.presentRead_runBit (o : Owner) (a n : Nat) : (s.presentRead o a n).runBit = s.runBit := by simp [State.presentRead]
@[simp] theorem State.presentRead_anchor (o : Owner) (a n : Nat) : (s.presentRead o a n).anchor = s.anchor := by simp [State.presentRead]
@[simp] theorem State.presentRead_intEnable (o : Owner) (a n : Nat) : (s.presentRead o a n).intEnable = s.intEnable := by simp [State.presentRead]
@[simp] theorem State.presentRead_latch (o : Owner) (a n : Nat) : (s.presentRead o a n).latch = s.latch := by simp [State.presentRead]
@[simp] theorem State.presentRead_windows (o : Owner) (a n : Nat) : (s.presentRead o a n).windows = s.windows := by simp [State.presentRead]
@[simp] theorem State.presentRead_rewrite (o : Owner) (a n : Nat) : (s.presentRead o a n).rewrite = s.rewrite := by simp [State.presentRead]
@[simp] theorem State.presentRead_mem (o : Owner) (a n : Nat) : (s.presentRead o a n).mem = s.mem := by simp [State.presentRead]
@[simp] theorem State.presentRead_settings (o : Owner) (a n : Nat) : (s.presentRead o a n).settings = s.settings := by simp [State.presentRead]
@[simp] theorem State.presentRead_board (o : Owner) (a n : Nat) : (s.presentRead o a n).board = s.board := by simp [State.presentRead]
@[simp] theorem State.presentRead_engine (o : Owner) (a n : Nat) : (s.presentRead o a n).engine = s.engine := by simp [State.presentRead]
@[simp] theorem State.presentRead_air (o : Owner) (a n : Nat) : (s.presentRead o a n).air = s.air := by simp [State.presentRead]
@[simp] theorem State.presentRead_coupling (o : Owner) (a n : Nat) : (s.presentRead o a n).coupling = s.coupling := by simp [State.presentRead]
@[simp] theorem State.presentRead_params (o : Owner) (a n : Nat) : (s.presentRead o a n).params = s.params := by simp [State.presentRead]
@[simp] theorem State.presentRead_spares (o : Owner) (a n : Nat) : (s.presentRead o a n).spares = s.spares := by simp [State.presentRead]
@[simp] theorem State.presentRead_cache (o : Owner) (a n : Nat) : (s.presentRead o a n).cache = s.cache := by simp [State.presentRead]
@[simp] theorem State.presentRead_alt (o : Owner) (a n : Nat) : (s.presentRead o a n).alt = s.alt := by simp [State.presentRead]
@[simp] theorem State.presentRead_bins (o : Owner) (a n : Nat) : (s.presentRead o a n).bins = s.bins := by simp [State.presentRead]
@[simp] theorem State.presentRead_band (o : Owner) (a n : Nat) : (s.presentRead o a n).band = s.band := by simp [State.presentRead]
@[simp] theorem State.presentRead_occThreshold (o : Owner) (a n : Nat) : (s.presentRead o a n).occThreshold = s.occThreshold := by simp [State.presentRead]
@[simp] theorem State.presentRead_sweep (o : Owner) (a n : Nat) : (s.presentRead o a n).sweep = s.sweep := by simp [State.presentRead]
@[simp] theorem State.presentRead_tuner (o : Owner) (a n : Nat) : (s.presentRead o a n).tuner = s.tuner := by simp [State.presentRead]
@[simp] theorem State.presentRead_lines (o : Owner) (a n : Nat) : (s.presentRead o a n).lines = s.lines := by simp [State.presentRead]
@[simp] theorem State.presentRead_watch (o : Owner) (a n : Nat) : (s.presentRead o a n).watch = s.watch := by simp [State.presentRead]
@[simp] theorem State.presentRead_swapAnswers (o : Owner) (a n : Nat) : (s.presentRead o a n).swapAnswers = s.swapAnswers := by simp [State.presentRead]
@[simp] theorem State.presentRead_status (o : Owner) (a n : Nat) : (s.presentRead o a n).status = s.status := by simp [State.presentRead]
@[simp] theorem State.presentRead_paces (o : Owner) (a n : Nat) : (s.presentRead o a n).paces = s.paces := by simp [State.presentRead]

/-! ### `presentWrite` -/

@[simp] theorem State.presentWrite_pending (o : Owner) (a : Nat) (d : List Byte) : (s.presentWrite o a d).pending = s.pending := by simp [State.presentWrite]
@[simp] theorem State.presentWrite_run (o : Owner) (a : Nat) (d : List Byte) : (s.presentWrite o a d).run = s.run := by simp [State.presentWrite]
@[simp] theorem State.presentWrite_runBit (o : Owner) (a : Nat) (d : List Byte) : (s.presentWrite o a d).runBit = s.runBit := by simp [State.presentWrite]
@[simp] theorem State.presentWrite_anchor (o : Owner) (a : Nat) (d : List Byte) : (s.presentWrite o a d).anchor = s.anchor := by simp [State.presentWrite]
@[simp] theorem State.presentWrite_intEnable (o : Owner) (a : Nat) (d : List Byte) : (s.presentWrite o a d).intEnable = s.intEnable := by simp [State.presentWrite]
@[simp] theorem State.presentWrite_latch (o : Owner) (a : Nat) (d : List Byte) : (s.presentWrite o a d).latch = s.latch := by simp [State.presentWrite]
@[simp] theorem State.presentWrite_windows (o : Owner) (a : Nat) (d : List Byte) : (s.presentWrite o a d).windows = s.windows := by simp [State.presentWrite]
@[simp] theorem State.presentWrite_rewrite (o : Owner) (a : Nat) (d : List Byte) : (s.presentWrite o a d).rewrite = s.rewrite := by simp [State.presentWrite]
@[simp] theorem State.presentWrite_mem (o : Owner) (a : Nat) (d : List Byte) : (s.presentWrite o a d).mem = s.mem := by simp [State.presentWrite]
@[simp] theorem State.presentWrite_settings (o : Owner) (a : Nat) (d : List Byte) : (s.presentWrite o a d).settings = s.settings := by simp [State.presentWrite]
@[simp] theorem State.presentWrite_board (o : Owner) (a : Nat) (d : List Byte) : (s.presentWrite o a d).board = s.board := by simp [State.presentWrite]
@[simp] theorem State.presentWrite_engine (o : Owner) (a : Nat) (d : List Byte) : (s.presentWrite o a d).engine = s.engine := by simp [State.presentWrite]
@[simp] theorem State.presentWrite_air (o : Owner) (a : Nat) (d : List Byte) : (s.presentWrite o a d).air = s.air := by simp [State.presentWrite]
@[simp] theorem State.presentWrite_coupling (o : Owner) (a : Nat) (d : List Byte) : (s.presentWrite o a d).coupling = s.coupling := by simp [State.presentWrite]
@[simp] theorem State.presentWrite_params (o : Owner) (a : Nat) (d : List Byte) : (s.presentWrite o a d).params = s.params := by simp [State.presentWrite]
@[simp] theorem State.presentWrite_spares (o : Owner) (a : Nat) (d : List Byte) : (s.presentWrite o a d).spares = s.spares := by simp [State.presentWrite]
@[simp] theorem State.presentWrite_cache (o : Owner) (a : Nat) (d : List Byte) : (s.presentWrite o a d).cache = s.cache := by simp [State.presentWrite]
@[simp] theorem State.presentWrite_alt (o : Owner) (a : Nat) (d : List Byte) : (s.presentWrite o a d).alt = s.alt := by simp [State.presentWrite]
@[simp] theorem State.presentWrite_bins (o : Owner) (a : Nat) (d : List Byte) : (s.presentWrite o a d).bins = s.bins := by simp [State.presentWrite]
@[simp] theorem State.presentWrite_band (o : Owner) (a : Nat) (d : List Byte) : (s.presentWrite o a d).band = s.band := by simp [State.presentWrite]
@[simp] theorem State.presentWrite_occThreshold (o : Owner) (a : Nat) (d : List Byte) : (s.presentWrite o a d).occThreshold = s.occThreshold := by simp [State.presentWrite]
@[simp] theorem State.presentWrite_sweep (o : Owner) (a : Nat) (d : List Byte) : (s.presentWrite o a d).sweep = s.sweep := by simp [State.presentWrite]
@[simp] theorem State.presentWrite_tuner (o : Owner) (a : Nat) (d : List Byte) : (s.presentWrite o a d).tuner = s.tuner := by simp [State.presentWrite]
@[simp] theorem State.presentWrite_lines (o : Owner) (a : Nat) (d : List Byte) : (s.presentWrite o a d).lines = s.lines := by simp [State.presentWrite]
@[simp] theorem State.presentWrite_watch (o : Owner) (a : Nat) (d : List Byte) : (s.presentWrite o a d).watch = s.watch := by simp [State.presentWrite]
@[simp] theorem State.presentWrite_swapAnswers (o : Owner) (a : Nat) (d : List Byte) : (s.presentWrite o a d).swapAnswers = s.swapAnswers := by simp [State.presentWrite]
@[simp] theorem State.presentWrite_status (o : Owner) (a : Nat) (d : List Byte) : (s.presentWrite o a d).status = s.status := by simp [State.presentWrite]
@[simp] theorem State.presentWrite_paces (o : Owner) (a : Nat) (d : List Byte) : (s.presentWrite o a d).paces = s.paces := by simp [State.presentWrite]

/-! ### `serveBus` -/

@[simp] theorem State.serveBus_pending : (s.serveBus).pending = s.pending := by unfold State.serveBus; split <;> [split; skip] <;> rfl
@[simp] theorem State.serveBus_run : (s.serveBus).run = s.run := by unfold State.serveBus; split <;> [split; skip] <;> rfl
@[simp] theorem State.serveBus_runBit : (s.serveBus).runBit = s.runBit := by unfold State.serveBus; split <;> [split; skip] <;> rfl
@[simp] theorem State.serveBus_anchor : (s.serveBus).anchor = s.anchor := by unfold State.serveBus; split <;> [split; skip] <;> rfl
@[simp] theorem State.serveBus_intEnable : (s.serveBus).intEnable = s.intEnable := by unfold State.serveBus; split <;> [split; skip] <;> rfl
@[simp] theorem State.serveBus_causes : (s.serveBus).causes = s.causes := by unfold State.serveBus; split <;> [split; skip] <;> rfl
@[simp] theorem State.serveBus_fault : (s.serveBus).fault = s.fault := by unfold State.serveBus; split <;> [split; skip] <;> rfl
@[simp] theorem State.serveBus_latch : (s.serveBus).latch = s.latch := by unfold State.serveBus; split <;> [split; skip] <;> rfl
@[simp] theorem State.serveBus_windows : (s.serveBus).windows = s.windows := by unfold State.serveBus; split <;> [split; skip] <;> rfl
@[simp] theorem State.serveBus_rewrite : (s.serveBus).rewrite = s.rewrite := by unfold State.serveBus; split <;> [split; skip] <;> rfl
@[simp] theorem State.serveBus_mem : (s.serveBus).mem = s.mem := by unfold State.serveBus; split <;> [split; skip] <;> rfl
@[simp] theorem State.serveBus_mail : (s.serveBus).mail = s.mail := by unfold State.serveBus; split <;> [split; skip] <;> rfl
@[simp] theorem State.serveBus_settings : (s.serveBus).settings = s.settings := by unfold State.serveBus; split <;> [split; skip] <;> rfl
@[simp] theorem State.serveBus_board : (s.serveBus).board = s.board := by unfold State.serveBus; split <;> [split; skip] <;> rfl
@[simp] theorem State.serveBus_engine : (s.serveBus).engine = s.engine := by unfold State.serveBus; split <;> [split; skip] <;> rfl
@[simp] theorem State.serveBus_air : (s.serveBus).air = s.air := by unfold State.serveBus; split <;> [split; skip] <;> rfl
@[simp] theorem State.serveBus_coupling : (s.serveBus).coupling = s.coupling := by unfold State.serveBus; split <;> [split; skip] <;> rfl
@[simp] theorem State.serveBus_params : (s.serveBus).params = s.params := by unfold State.serveBus; split <;> [split; skip] <;> rfl
@[simp] theorem State.serveBus_spares : (s.serveBus).spares = s.spares := by unfold State.serveBus; split <;> [split; skip] <;> rfl
@[simp] theorem State.serveBus_cache : (s.serveBus).cache = s.cache := by unfold State.serveBus; split <;> [split; skip] <;> rfl
@[simp] theorem State.serveBus_alt : (s.serveBus).alt = s.alt := by unfold State.serveBus; split <;> [split; skip] <;> rfl
@[simp] theorem State.serveBus_bins : (s.serveBus).bins = s.bins := by unfold State.serveBus; split <;> [split; skip] <;> rfl
@[simp] theorem State.serveBus_band : (s.serveBus).band = s.band := by unfold State.serveBus; split <;> [split; skip] <;> rfl
@[simp] theorem State.serveBus_occThreshold : (s.serveBus).occThreshold = s.occThreshold := by unfold State.serveBus; split <;> [split; skip] <;> rfl
@[simp] theorem State.serveBus_sweep : (s.serveBus).sweep = s.sweep := by unfold State.serveBus; split <;> [split; skip] <;> rfl
@[simp] theorem State.serveBus_tuner : (s.serveBus).tuner = s.tuner := by unfold State.serveBus; split <;> [split; skip] <;> rfl
@[simp] theorem State.serveBus_lines : (s.serveBus).lines = s.lines := by unfold State.serveBus; split <;> [split; skip] <;> rfl
@[simp] theorem State.serveBus_watch : (s.serveBus).watch = s.watch := by unfold State.serveBus; split <;> [split; skip] <;> rfl
@[simp] theorem State.serveBus_swapAnswers : (s.serveBus).swapAnswers = s.swapAnswers := by unfold State.serveBus; split <;> [split; skip] <;> rfl
@[simp] theorem State.serveBus_status : (s.serveBus).status = s.status := by unfold State.serveBus; split <;> [split; skip] <;> rfl
@[simp] theorem State.serveBus_paces : (s.serveBus).paces = s.paces := by unfold State.serveBus; split <;> [split; skip] <;> rfl

/-! ### The bus phase -/

@[simp] theorem State.present_port_phase (o : Owner) (w : Bool) (a n : Nat) (d : List Byte) : (s.present o w a n d).port.phase = s.port.phase := by unfold State.present; split_ifs <;> simp
@[simp] theorem State.present_port_lastServed (o : Owner) (w : Bool) (a n : Nat) (d : List Byte) : (s.present o w a n d).port.lastServed = s.port.lastServed := by unfold State.present; split_ifs <;> simp
@[simp] theorem State.presentRead_port_phase (o : Owner) (a n : Nat) : (s.presentRead o a n).port.phase = s.port.phase := by simp [State.presentRead]
@[simp] theorem State.presentRead_port_lastServed (o : Owner) (a n : Nat) : (s.presentRead o a n).port.lastServed = s.port.lastServed := by simp [State.presentRead]
@[simp] theorem State.presentWrite_port_phase (o : Owner) (a : Nat) (d : List Byte) : (s.presentWrite o a d).port.phase = s.port.phase := by simp [State.presentWrite]
@[simp] theorem State.presentWrite_port_lastServed (o : Owner) (a : Nat) (d : List Byte) : (s.presentWrite o a d).port.lastServed = s.port.lastServed := by simp [State.presentWrite]
@[simp] theorem State.serveBus_port_lastServed : s.serveBus.port.lastServed = s.port.lastServed := by
  unfold State.serveBus; split <;> [split; skip] <;> rfl
@[simp] theorem State.serveBus_port_transfers : s.serveBus.port.transfers = s.port.transfers := by
  unfold State.serveBus; split <;> [split; skip] <;> rfl

end Sys2Proof.Machine
end

