-- ==== Sys2Proof/Laws/Kept.lean ====
section
/-! SUPPORT. What each operation of the blocks leaves alone: the tables and lists that the invariants speak of, and
two views that hold many fields at once. -/

namespace Sys2Proof.Machine

/-- Run control, the host's registers, shared memory and the bus: what no operation of the engine, the lines or the
Watch Unit changes. -/
def State.control (s : State) :=
  (s.pending, s.run, s.runBit, s.anchor, s.intEnable, s.latch, s.windows, s.rewrite, s.mem, s.port.phase,
    s.port.lastServed)

/-- The settings, the Sweep Unit with its threshold and its tuner, the order that the map holds, and the model's own count of choices. -/
def State.units (s : State) := (s.settings, s.sweep, s.occThreshold, s.band, s.tuner, s.paces)

theorem State.control_eq_iff {t s : State} : t.control = s.control ↔
    t.pending = s.pending ∧ t.run = s.run ∧ t.runBit = s.runBit ∧ t.anchor = s.anchor ∧ t.intEnable = s.intEnable ∧
    t.latch = s.latch ∧ t.windows = s.windows ∧ t.rewrite = s.rewrite ∧ t.mem = s.mem ∧
    t.port.phase = s.port.phase ∧ t.port.lastServed = s.port.lastServed := by
  simp only [State.control, Prod.mk.injEq]

@[simp] theorem State.control_fold (s : State) : (s.pending, s.run, s.runBit, s.anchor, s.intEnable, s.latch, s.windows, s.rewrite,
    s.mem, s.port.phase, s.port.lastServed) = s.control := rfl

@[simp] theorem State.units_fold (s : State) : (s.settings, s.sweep, s.occThreshold, s.band, s.tuner, s.paces) = s.units := rfl

@[simp] theorem State.control_mk (x0 x1 x2 x3 x4 x5 x6 x7 x8 x9 x10 x11 x12 x13 x14 x15 x16 x17 x18 x19 x20 x21 x22 x23 x24 x25 x26 x27 x28 x29 x30 x31) : State.control ⟨x0, x1, x2, x3, x4, x5, x6, x7, x8, x9, x10, x11, x12, x13, x14, x15, x16, x17, x18, x19, x20, x21, x22, x23, x24, x25, x26, x27, x28, x29, x30, x31⟩ =
    (x0, x1, x2, x3, x4, x7, x8, x9, x10, x11.phase, x11.lastServed) := rfl

@[simp] theorem State.units_mk (x0 x1 x2 x3 x4 x5 x6 x7 x8 x9 x10 x11 x12 x13 x14 x15 x16 x17 x18 x19 x20 x21 x22 x23 x24 x25 x26 x27 x28 x29 x30 x31) : State.units ⟨x0, x1, x2, x3, x4, x5, x6, x7, x8, x9, x10, x11, x12, x13, x14, x15, x16, x17, x18, x19, x20, x21, x22, x23, x24, x25, x26, x27, x28, x29, x30, x31⟩ =
    (x13, x25, x24, x23, x26, x31) := rfl

theorem State.units_eq_iff {t s : State} : t.units = s.units ↔
    t.settings = s.settings ∧ t.sweep = s.sweep ∧ t.occThreshold = s.occThreshold ∧ t.band = s.band ∧
    t.tuner = s.tuner ∧ t.paces = s.paces := by
  simp only [State.units, Prod.mk.injEq]

/-- What each step of a fold keeps, the fold keeps. -/
theorem foldl_kept {α β γ : Type} (f : β → α → β) (g : β → γ) (h : ∀ b a, g (f b a) = g b) (l : List α) (b : β) :
    g (l.foldl f b) = g b := by
  induction l generalizing b with
  | nil => rfl
  | cons a l ih => exact (ih _).trans (h _ _)

/-! ### A choice between two states -/

variable (p : Prop) [Decidable p] (a b : State)

@[simp] theorem State.ite_control : (if p then a else b).control = if p then a.control else b.control := by
  split_ifs <;> rfl
@[simp] theorem State.ite_units : (if p then a else b).units = if p then a.units else b.units := by
  split_ifs <;> rfl
@[simp] theorem State.ite_air : (if p then a else b).air = if p then a.air else b.air := by
  split_ifs <;> rfl
@[simp] theorem State.ite_bins : (if p then a else b).bins = if p then a.bins else b.bins := by
  split_ifs <;> rfl
@[simp] theorem State.ite_lines : (if p then a else b).lines = if p then a.lines else b.lines := by
  split_ifs <;> rfl
@[simp] theorem State.ite_spares : (if p then a else b).spares = if p then a.spares else b.spares := by
  split_ifs <;> rfl
@[simp] theorem State.ite_coupling : (if p then a else b).coupling = if p then a.coupling else b.coupling := by
  split_ifs <;> rfl
@[simp] theorem State.ite_params : (if p then a else b).params = if p then a.params else b.params := by
  split_ifs <;> rfl
@[simp] theorem State.ite_cache : (if p then a else b).cache = if p then a.cache else b.cache := by
  split_ifs <;> rfl
@[simp] theorem State.ite_engine_requests : (if p then a else b).engine.requests = if p then a.engine.requests else b.engine.requests := by
  split_ifs <;> rfl
@[simp] theorem State.ite_watch_records : (if p then a else b).watch.records = if p then a.watch.records else b.watch.records := by
  split_ifs <;> rfl
@[simp] theorem State.ite_watch_params : (if p then a else b).watch.params = if p then a.watch.params else b.watch.params := by
  split_ifs <;> rfl
@[simp] theorem State.ite_watch_heldTunes : (if p then a else b).watch.heldTunes = if p then a.watch.heldTunes else b.watch.heldTunes := by
  split_ifs <;> rfl
@[simp] theorem State.ite_status_marks : (if p then a else b).status.marks = if p then a.status.marks else b.status.marks := by
  split_ifs <;> rfl
@[simp] theorem State.ite_swapAnswers : (if p then a else b).swapAnswers = if p then a.swapAnswers else b.swapAnswers := by
  split_ifs <;> rfl

variable (s : State)

/-! ### The updates of one field -/


@[simp] theorem State.setCause_views (c : Cause) : (s.setCause c).control = s.control ∧ (s.setCause c).units = s.units := ⟨rfl, rfl⟩
@[simp] theorem State.clearCauses_views (v : Word) : (s.clearCauses v).control = s.control ∧ (s.clearCauses v).units = s.units := ⟨rfl, rfl⟩
@[simp] theorem State.setMail_views (o : Owner) (a : Option Answer) : (s.setMail o a).control = s.control ∧ (s.setMail o a).units = s.units := ⟨rfl, rfl⟩
@[simp] theorem State.setBin_views (b : Nat) (v : Bin) : (s.setBin b v).control = s.control ∧ (s.setBin b v).units = s.units := ⟨rfl, rfl⟩
@[simp] theorem State.setLine_views (k : Fin 4) (l : Line) : (s.setLine k l).control = s.control ∧ (s.setLine k l).units = s.units := ⟨rfl, rfl⟩
@[simp] theorem State.onLine_views (k : Fin 4) (f : Line → Line) : (s.onLine k f).control = s.control ∧ (s.onLine k f).units = s.units := ⟨rfl, rfl⟩
@[simp] theorem State.changeEntry_views (id : Nat) (f : AirEntry → AirEntry) : (s.changeEntry id f).control = s.control ∧ (s.changeEntry id f).units = s.units := ⟨rfl, rfl⟩
@[simp] theorem State.dropEntry_views (id : Nat) : (s.dropEntry id).control = s.control ∧ (s.dropEntry id).units = s.units := ⟨rfl, rfl⟩
@[simp] theorem State.onRec_views (id : Nat) (f : WatchRec → WatchRec) : (s.onRec id f).control = s.control ∧ (s.onRec id f).units = s.units := ⟨rfl, rfl⟩
@[simp] theorem State.holdTune_views (k : Fin 4) (t : Tune) : (s.holdTune k t).control = s.control ∧ (s.holdTune k t).units = s.units := ⟨rfl, rfl⟩
@[simp] theorem State.unlist_views (id : Nat) : (s.unlist id).control = s.control ∧ (s.unlist id).units = s.units := ⟨rfl, rfl⟩
@[simp] theorem State.addRequest_views (id : Nat) : (s.addRequest id).control = s.control ∧ (s.addRequest id).units = s.units := ⟨rfl, rfl⟩
@[simp] theorem State.setLookup_views (l : Option LookupStage) : (s.setLookup l).control = s.control ∧ (s.setLookup l).units = s.units := ⟨rfl, rfl⟩
@[simp] theorem State.setWb_views (w : Option WriteBack) : (s.setWb w).control = s.control ∧ (s.setWb w).units = s.units := ⟨rfl, rfl⟩
@[simp] theorem State.setPos_views (p : EnginePos) : (s.setPos p).control = s.control ∧ (s.setPos p).units = s.units := ⟨rfl, rfl⟩
@[simp] theorem State.setOrder_views (o : EngineOrder) : (s.setOrder o).control = s.control ∧ (s.setOrder o).units = s.units := ⟨rfl, rfl⟩
@[simp] theorem State.setService_views (v : Option Service) : (s.setService v).control = s.control ∧ (s.setService v).units = s.units := ⟨rfl, rfl⟩
@[simp] theorem State.beginRead_views (x : Nat) : (s.beginRead x).control = s.control ∧ (s.beginRead x).units = s.units := ⟨rfl, rfl⟩
@[simp] theorem State.setWay_views (set : Nat) (b : Bool) (w : Option CacheWay) : (s.setWay set b w).control = s.control ∧ (s.setWay set b w).units = s.units := ⟨rfl, rfl⟩
@[simp] theorem State.setBoardPos_views (p : BoardPos) : (s.setBoardPos p).control = s.control ∧ (s.setBoardPos p).units = s.units := ⟨rfl, rfl⟩
@[simp] theorem State.surveyEnds_views : s.surveyEnds.control = s.control ∧ s.surveyEnds.units = s.units := ⟨rfl, rfl⟩
@[simp] theorem State.setStatusJob_views (j : StatusJob) : (s.setStatusJob j).control = s.control ∧ (s.setStatusJob j).units = s.units := ⟨rfl, rfl⟩
@[simp] theorem State.bumpSeq_views (r : RecId) : (s.bumpSeq r).control = s.control ∧ (s.bumpSeq r).units = s.units := ⟨rfl, rfl⟩
@[simp] theorem State.mark_views (r : RecId) : (s.mark r).control = s.control ∧ (s.mark r).units = s.units := by
  simp [State.control_eq_iff, State.units_eq_iff]
@[simp] theorem State.markAll_views (rs : List RecId) : (s.markAll rs).control = s.control ∧ (s.markAll rs).units = s.units := by
  simp [State.control_eq_iff, State.units_eq_iff]
@[simp] theorem State.keep_views (id : Nat) (k : Kept) : (s.keep id k).control = s.control ∧ (s.keep id k).units = s.units := by
  simp [State.control_eq_iff, State.units_eq_iff]
@[simp] theorem State.recordFault_views (a : Nat) (k : FaultKind) (q : Requester) : (s.recordFault a k q).control = s.control ∧ (s.recordFault a k q).units = s.units := by
  simp [State.control_eq_iff, State.units_eq_iff]
@[simp] theorem State.present_views (o : Owner) (w : Bool) (a n : Nat) (d : List Byte) : (s.present o w a n d).control = s.control ∧ (s.present o w a n d).units = s.units := by
  simp [State.control_eq_iff, State.units_eq_iff]
@[simp] theorem State.presentRead_views (o : Owner) (a n : Nat) : (s.presentRead o a n).control = s.control ∧ (s.presentRead o a n).units = s.units := by
  simp [State.control_eq_iff, State.units_eq_iff]
@[simp] theorem State.presentWrite_views (o : Owner) (a : Nat) (d : List Byte) : (s.presentWrite o a d).control = s.control ∧ (s.presentWrite o a d).units = s.units := by
  simp [State.control_eq_iff, State.units_eq_iff]

/-! ### The operations of the blocks -/

@[simp] theorem State.setSweep_views (u : Sweep) : (s.setSweep u).control = s.control := rfl
@[simp] theorem State.sweepTo_views (c : SweepCount) (p : SweepPos) : (s.sweepTo c p).control = s.control := rfl
@[simp] theorem State.setJob_views (j : SettingsJob) : (s.setJob j).control = s.control := rfl

@[simp] theorem State.measure_kept (b level : Nat) :
    (s.measure b level).control = s.control ∧ (s.measure b level).units = s.units ∧ (s.measure b level).air = s.air ∧
    (s.measure b level).lines = s.lines ∧ (s.measure b level).spares = s.spares ∧
    (s.measure b level).coupling = s.coupling ∧ (s.measure b level).params = s.params ∧
    (s.measure b level).cache = s.cache ∧ (s.measure b level).engine.requests = s.engine.requests ∧
    (s.measure b level).watch.records = s.watch.records ∧ (s.measure b level).watch.params = s.watch.params ∧
    (s.measure b level).watch.heldTunes = s.watch.heldTunes ∧ (s.measure b level).swapAnswers = s.swapAnswers ∧
    (s.measure b level).status.marks = s.status.marks := by
  unfold State.measure
  simp

@[simp] theorem State.watchMark_kept (b : Nat) :
    (s.watchMark b).control = s.control ∧ (s.watchMark b).units = s.units ∧ (s.watchMark b).air = s.air ∧
    (s.watchMark b).lines = s.lines ∧ (s.watchMark b).spares = s.spares ∧ (s.watchMark b).coupling = s.coupling ∧
    (s.watchMark b).params = s.params ∧ (s.watchMark b).cache = s.cache ∧
    (s.watchMark b).engine.requests = s.engine.requests ∧ (s.watchMark b).watch.records = s.watch.records ∧
    (s.watchMark b).watch.params = s.watch.params ∧ (s.watchMark b).watch.heldTunes = s.watch.heldTunes ∧
    (s.watchMark b).swapAnswers = s.swapAnswers ∧
    (s.watchMark b).status.marks = s.status.marks := by
  unfold State.watchMark
  simp

@[simp] theorem State.beginBand_kept (slot : Nat) (body : OrderBody) :
    (s.beginBand slot body).control = s.control ∧ (s.beginBand slot body).air = s.air ∧
    (s.beginBand slot body).bins = s.bins ∧ (s.beginBand slot body).lines = s.lines ∧
    (s.beginBand slot body).spares = s.spares ∧ (s.beginBand slot body).coupling = s.coupling ∧
    (s.beginBand slot body).params = s.params ∧ (s.beginBand slot body).cache = s.cache ∧
    (s.beginBand slot body).engine.requests = s.engine.requests ∧
    (s.beginBand slot body).watch.records = s.watch.records ∧ (s.beginBand slot body).watch.params = s.watch.params ∧
    (s.beginBand slot body).watch.heldTunes = s.watch.heldTunes ∧
    (s.beginBand slot body).swapAnswers = s.swapAnswers ∧
    (s.beginBand slot body).status.marks = s.status.marks := by
  simp [State.beginBand]

@[simp] theorem State.bandStep_kept :
    s.bandStep.control = s.control ∧ s.bandStep.air = s.air ∧ s.bandStep.lines = s.lines ∧
    s.bandStep.spares = s.spares ∧ s.bandStep.coupling = s.coupling ∧ s.bandStep.params = s.params ∧
    s.bandStep.cache = s.cache ∧ s.bandStep.engine.requests = s.engine.requests ∧
    s.bandStep.watch.records = s.watch.records ∧ s.bandStep.watch.params = s.watch.params ∧
    s.bandStep.watch.heldTunes = s.watch.heldTunes ∧ s.bandStep.swapAnswers = s.swapAnswers ∧
    s.bandStep.status.marks = s.status.marks := by
  unfold State.bandStep
  (repeat' split) <;> simp

@[simp] theorem State.readBin_kept :
    s.readBin.control = s.control ∧ s.readBin.units = s.units ∧ s.readBin.air = s.air ∧ s.readBin.bins = s.bins ∧
    s.readBin.lines = s.lines ∧ s.readBin.spares = s.spares ∧ s.readBin.coupling = s.coupling ∧
    s.readBin.params = s.params ∧ s.readBin.cache = s.cache ∧ s.readBin.engine.requests = s.engine.requests ∧
    s.readBin.watch.records = s.watch.records ∧ s.readBin.watch.params = s.watch.params ∧
    s.readBin.watch.heldTunes = s.watch.heldTunes ∧ s.readBin.swapAnswers = s.swapAnswers ∧
    s.readBin.status.marks = s.status.marks := by
  unfold State.readBin
  split <;> simp

/-- What `f` keeps after a reading, `withBins` keeps. -/
theorem State.withBins_keeps {α : Type} (g : State → α) (x : Nat) (f : State → Bool → State)
    (hg : ∀ v, g { s with engine := { s.engine with reading := v } } = g s) (hf : ∀ t b, g (f t b) = g t) :
    g (s.withBins x f) = g s := by
  unfold State.withBins
  split
  · exact hg _
  · rw [hf]; exact hg _

@[simp] theorem State.raiseCounter_kept (k : Fin 4) (c : Counter) :
    (s.raiseCounter k c).control = s.control ∧ (s.raiseCounter k c).units = s.units ∧
    (s.raiseCounter k c).air = s.air ∧ (s.raiseCounter k c).bins = s.bins ∧ (s.raiseCounter k c).spares = s.spares ∧
    (s.raiseCounter k c).coupling = s.coupling ∧ (s.raiseCounter k c).params = s.params ∧
    (s.raiseCounter k c).cache = s.cache ∧ (s.raiseCounter k c).engine.requests = s.engine.requests ∧
    (s.raiseCounter k c).watch.records = s.watch.records ∧ (s.raiseCounter k c).watch.params = s.watch.params ∧
    (s.raiseCounter k c).watch.heldTunes = s.watch.heldTunes ∧ (s.raiseCounter k c).swapAnswers = s.swapAnswers := by
  unfold State.raiseCounter
  simp

@[simp] theorem State.rackChanged_kept (k : Fin 4) (addr : Nat) (old new : RackState) :
    (s.rackChanged k addr old new).control = s.control ∧ (s.rackChanged k addr old new).units = s.units ∧
    (s.rackChanged k addr old new).air = s.air ∧ (s.rackChanged k addr old new).bins = s.bins ∧
    (s.rackChanged k addr old new).spares = s.spares ∧ (s.rackChanged k addr old new).coupling = s.coupling ∧
    (s.rackChanged k addr old new).params = s.params ∧ (s.rackChanged k addr old new).cache = s.cache ∧
    (s.rackChanged k addr old new).engine.requests = s.engine.requests ∧
    (s.rackChanged k addr old new).watch.records = s.watch.records ∧
    (s.rackChanged k addr old new).watch.params = s.watch.params ∧
    (s.rackChanged k addr old new).watch.heldTunes = s.watch.heldTunes ∧
    (s.rackChanged k addr old new).swapAnswers = s.swapAnswers := by
  unfold State.rackChanged
  simp

@[simp] theorem State.judgeRack_kept (k : Fin 4) (addr : Nat) (good : Bool) :
    (s.judgeRack k addr good).control = s.control ∧ (s.judgeRack k addr good).units = s.units ∧
    (s.judgeRack k addr good).air = s.air ∧ (s.judgeRack k addr good).bins = s.bins ∧
    (s.judgeRack k addr good).spares = s.spares ∧ (s.judgeRack k addr good).coupling = s.coupling ∧
    (s.judgeRack k addr good).params = s.params ∧ (s.judgeRack k addr good).cache = s.cache ∧
    (s.judgeRack k addr good).engine.requests = s.engine.requests ∧
    (s.judgeRack k addr good).watch.records = s.watch.records ∧
    (s.judgeRack k addr good).watch.params = s.watch.params ∧
    (s.judgeRack k addr good).watch.heldTunes = s.watch.heldTunes ∧
    (s.judgeRack k addr good).swapAnswers = s.swapAnswers := by
  unfold State.judgeRack
  (repeat' split) <;> simp

@[simp] theorem State.exchangeFailed_kept (k : Fin 4) (c : Counter) :
    (s.exchangeFailed k c).control = s.control ∧ (s.exchangeFailed k c).units = s.units ∧
    (s.exchangeFailed k c).air = s.air ∧ (s.exchangeFailed k c).bins = s.bins ∧
    (s.exchangeFailed k c).spares = s.spares ∧ (s.exchangeFailed k c).coupling = s.coupling ∧
    (s.exchangeFailed k c).params = s.params ∧ (s.exchangeFailed k c).cache = s.cache ∧
    (s.exchangeFailed k c).engine.requests = s.engine.requests ∧
    (s.exchangeFailed k c).watch.records = s.watch.records ∧ (s.exchangeFailed k c).watch.params = s.watch.params ∧
    (s.exchangeFailed k c).watch.heldTunes = s.watch.heldTunes ∧
    (s.exchangeFailed k c).swapAnswers = s.swapAnswers := by
  unfold State.exchangeFailed
  (repeat' split) <;> simp

@[simp] theorem State.exchangeGood_kept (k : Fin 4) (frame : List Byte) :
    (s.exchangeGood k frame).control = s.control ∧ (s.exchangeGood k frame).units = s.units ∧
    (s.exchangeGood k frame).air = s.air ∧ (s.exchangeGood k frame).bins = s.bins ∧
    (s.exchangeGood k frame).spares = s.spares ∧ (s.exchangeGood k frame).coupling = s.coupling ∧
    (s.exchangeGood k frame).params = s.params ∧ (s.exchangeGood k frame).cache = s.cache ∧
    (s.exchangeGood k frame).engine.requests = s.engine.requests ∧
    (s.exchangeGood k frame).watch.records = s.watch.records ∧
    (s.exchangeGood k frame).watch.params = s.watch.params ∧
    (s.exchangeGood k frame).watch.heldTunes = s.watch.heldTunes ∧
    (s.exchangeGood k frame).swapAnswers = s.swapAnswers := by
  unfold State.exchangeGood
  (repeat' split) <;> simp

@[simp] theorem State.judgeReply_kept (k : Fin 4) :
    (s.judgeReply k).control = s.control ∧ (s.judgeReply k).units = s.units ∧ (s.judgeReply k).air = s.air ∧
    (s.judgeReply k).bins = s.bins ∧ (s.judgeReply k).spares = s.spares ∧ (s.judgeReply k).coupling = s.coupling ∧
    (s.judgeReply k).params = s.params ∧ (s.judgeReply k).cache = s.cache ∧
    (s.judgeReply k).engine.requests = s.engine.requests ∧ (s.judgeReply k).watch.records = s.watch.records ∧
    (s.judgeReply k).watch.params = s.watch.params ∧ (s.judgeReply k).watch.heldTunes = s.watch.heldTunes ∧
    (s.judgeReply k).swapAnswers = s.swapAnswers := by
  unfold State.judgeReply
  (repeat' split) <;> simp

@[simp] theorem State.receive_kept (k : Fin 4) (samples : BitVec 33) :
    (s.receive k samples).control = s.control ∧ (s.receive k samples).units = s.units ∧
    (s.receive k samples).air = s.air ∧ (s.receive k samples).bins = s.bins ∧
    (s.receive k samples).spares = s.spares ∧ (s.receive k samples).coupling = s.coupling ∧
    (s.receive k samples).params = s.params ∧ (s.receive k samples).cache = s.cache ∧
    (s.receive k samples).engine.requests = s.engine.requests ∧
    (s.receive k samples).watch.records = s.watch.records ∧ (s.receive k samples).watch.params = s.watch.params ∧
    (s.receive k samples).watch.heldTunes = s.watch.heldTunes ∧
    (s.receive k samples).swapAnswers = s.swapAnswers := by
  unfold State.receive
  dsimp only
  (repeat' split) <;> simp

/-- An accepted offer changes the line alone. -/
theorem State.offer_some {k : Fin 4} {e : Tune} {t : State} (h : s.offer k e = some t) :
    t.control = s.control ∧ t.units = s.units ∧ t.air = s.air ∧ t.bins = s.bins ∧ t.spares = s.spares ∧
    t.coupling = s.coupling ∧ t.params = s.params ∧ t.cache = s.cache ∧ t.engine.requests = s.engine.requests ∧
    t.watch.records = s.watch.records ∧ t.watch.params = s.watch.params ∧ t.watch.heldTunes = s.watch.heldTunes ∧
    t.swapAnswers = s.swapAnswers ∧
    t.status.marks = s.status.marks := by
  unfold State.offer at h
  split at h
  · cases h; simp
  · cases h

@[simp] theorem State.lineSetup_kept (slot : Nat) (b : OrderBody) :
    (s.lineSetup slot b).1.control = s.control ∧ (s.lineSetup slot b).1.units = s.units ∧
    (s.lineSetup slot b).1.air = s.air ∧ (s.lineSetup slot b).1.bins = s.bins ∧
    (s.lineSetup slot b).1.spares = s.spares ∧ (s.lineSetup slot b).1.coupling = s.coupling ∧
    (s.lineSetup slot b).1.params = s.params ∧ (s.lineSetup slot b).1.cache = s.cache ∧
    (s.lineSetup slot b).1.engine.requests = s.engine.requests ∧
    (s.lineSetup slot b).1.watch.records = s.watch.records ∧ (s.lineSetup slot b).1.watch.params = s.watch.params ∧
    (s.lineSetup slot b).1.watch.heldTunes = s.watch.heldTunes ∧
    (s.lineSetup slot b).1.swapAnswers = s.swapAnswers ∧
    (s.lineSetup slot b).1.status.marks = s.status.marks := by
  unfold State.lineSetup
  simp

@[simp] theorem State.rackRoster_kept (slot : Nat) (b : OrderBody) (list : List Byte) :
    (s.rackRoster slot b list).1.control = s.control ∧ (s.rackRoster slot b list).1.units = s.units ∧
    (s.rackRoster slot b list).1.air = s.air ∧ (s.rackRoster slot b list).1.bins = s.bins ∧
    (s.rackRoster slot b list).1.spares = s.spares ∧ (s.rackRoster slot b list).1.coupling = s.coupling ∧
    (s.rackRoster slot b list).1.params = s.params ∧ (s.rackRoster slot b list).1.cache = s.cache ∧
    (s.rackRoster slot b list).1.engine.requests = s.engine.requests ∧
    (s.rackRoster slot b list).1.watch.records = s.watch.records ∧
    (s.rackRoster slot b list).1.watch.params = s.watch.params ∧
    (s.rackRoster slot b list).1.watch.heldTunes = s.watch.heldTunes ∧
    (s.rackRoster slot b list).1.swapAnswers = s.swapAnswers := by
  unfold State.rackRoster
  simp

@[simp] theorem State.watchMarks_kept (id : Nat) (old new : WatchState) :
    (s.watchMarks id old new).control = s.control ∧ (s.watchMarks id old new).units = s.units ∧
    (s.watchMarks id old new).air = s.air ∧ (s.watchMarks id old new).bins = s.bins ∧
    (s.watchMarks id old new).lines = s.lines ∧ (s.watchMarks id old new).spares = s.spares ∧
    (s.watchMarks id old new).coupling = s.coupling ∧ (s.watchMarks id old new).params = s.params ∧
    (s.watchMarks id old new).cache = s.cache ∧ (s.watchMarks id old new).engine.requests = s.engine.requests ∧
    (s.watchMarks id old new).watch.records = s.watch.records ∧
    (s.watchMarks id old new).watch.params = s.watch.params ∧
    (s.watchMarks id old new).watch.heldTunes = s.watch.heldTunes ∧
    (s.watchMarks id old new).swapAnswers = s.swapAnswers := by
  unfold State.watchMarks
  simp

@[simp] theorem State.watchTo_kept (id : Nat) (new : WatchState) (settle : Nat) :
    (s.watchTo id new settle).control = s.control ∧ (s.watchTo id new settle).units = s.units ∧
    (s.watchTo id new settle).air = s.air ∧ (s.watchTo id new settle).bins = s.bins ∧
    (s.watchTo id new settle).lines = s.lines ∧ (s.watchTo id new settle).spares = s.spares ∧
    (s.watchTo id new settle).coupling = s.coupling ∧ (s.watchTo id new settle).params = s.params ∧
    (s.watchTo id new settle).cache = s.cache ∧ (s.watchTo id new settle).engine.requests = s.engine.requests ∧
    (s.watchTo id new settle).watch.params = s.watch.params ∧
    (s.watchTo id new settle).watch.heldTunes = s.watch.heldTunes ∧
    (s.watchTo id new settle).swapAnswers = s.swapAnswers := by
  unfold State.watchTo
  (repeat' split) <;> simp

@[simp] theorem State.settle_kept (id : Nat) :
    (s.settle id).control = s.control ∧ (s.settle id).units = s.units ∧ (s.settle id).air = s.air ∧
    (s.settle id).bins = s.bins ∧ (s.settle id).lines = s.lines ∧ (s.settle id).spares = s.spares ∧
    (s.settle id).coupling = s.coupling ∧ (s.settle id).params = s.params ∧ (s.settle id).cache = s.cache ∧
    (s.settle id).engine.requests = s.engine.requests ∧ (s.settle id).watch.params = s.watch.params ∧
    (s.settle id).watch.heldTunes = s.watch.heldTunes ∧ (s.settle id).swapAnswers = s.swapAnswers := by
  unfold State.settle
  simp

@[simp] theorem State.takeAnswer_kept (a : SwapAnswer) :
    (s.takeAnswer a).control = s.control ∧ (s.takeAnswer a).units = s.units ∧ (s.takeAnswer a).air = s.air ∧
    (s.takeAnswer a).bins = s.bins ∧ (s.takeAnswer a).lines = s.lines ∧ (s.takeAnswer a).spares = s.spares ∧
    (s.takeAnswer a).coupling = s.coupling ∧ (s.takeAnswer a).params = s.params ∧ (s.takeAnswer a).cache = s.cache ∧
    (s.takeAnswer a).engine.requests = s.engine.requests ∧ (s.takeAnswer a).watch.params = s.watch.params ∧
    (s.takeAnswer a).watch.heldTunes = s.watch.heldTunes ∧ (s.takeAnswer a).swapAnswers = s.swapAnswers := by
  unfold State.takeAnswer
  (repeat' split) <;> simp

@[simp] theorem State.takeAnswers_kept :
    s.takeAnswers.control = s.control ∧ s.takeAnswers.units = s.units ∧ s.takeAnswers.air = s.air ∧
    s.takeAnswers.bins = s.bins ∧ s.takeAnswers.lines = s.lines ∧ s.takeAnswers.spares = s.spares ∧
    s.takeAnswers.coupling = s.coupling ∧ s.takeAnswers.params = s.params ∧ s.takeAnswers.cache = s.cache ∧
    s.takeAnswers.engine.requests = s.engine.requests ∧ s.takeAnswers.watch.params = s.watch.params ∧
    s.takeAnswers.watch.heldTunes = s.watch.heldTunes := by
  unfold State.takeAnswers
  exact ⟨(foldl_kept (β := State) (State.takeAnswer) (·.control) (fun _ _ => by simp) _ _).trans rfl,
    (foldl_kept (β := State) (State.takeAnswer) (·.units) (fun _ _ => by simp) _ _).trans rfl,
    (foldl_kept (β := State) (State.takeAnswer) (·.air) (fun _ _ => by simp) _ _).trans rfl,
    (foldl_kept (β := State) (State.takeAnswer) (·.bins) (fun _ _ => by simp) _ _).trans rfl,
    (foldl_kept (β := State) (State.takeAnswer) (·.lines) (fun _ _ => by simp) _ _).trans rfl,
    (foldl_kept (β := State) (State.takeAnswer) (·.spares) (fun _ _ => by simp) _ _).trans rfl,
    (foldl_kept (β := State) (State.takeAnswer) (·.coupling) (fun _ _ => by simp) _ _).trans rfl,
    (foldl_kept (β := State) (State.takeAnswer) (·.params) (fun _ _ => by simp) _ _).trans rfl,
    (foldl_kept (β := State) (State.takeAnswer) (·.cache) (fun _ _ => by simp) _ _).trans rfl,
    (foldl_kept (β := State) (State.takeAnswer) (·.engine.requests) (fun _ _ => by simp) _ _).trans rfl,
    (foldl_kept (β := State) (State.takeAnswer) (·.watch.params) (fun _ _ => by simp) _ _).trans rfl,
    (foldl_kept (β := State) (State.takeAnswer) (·.watch.heldTunes) (fun _ _ => by simp) _ _).trans rfl⟩

@[simp] theorem State.takeAnswers_swapAnswers : s.takeAnswers.swapAnswers = [] :=
  (foldl_kept (β := State) (State.takeAnswer) (·.swapAnswers) (fun _ _ => by simp) _ _).trans rfl

@[simp] theorem State.watchBegin_kept (e : AirEntry) :
    (s.watchBegin e).control = s.control ∧ (s.watchBegin e).units = s.units ∧ (s.watchBegin e).air = s.air ∧
    (s.watchBegin e).bins = s.bins ∧ (s.watchBegin e).lines = s.lines ∧ (s.watchBegin e).spares = s.spares ∧
    (s.watchBegin e).coupling = s.coupling ∧ (s.watchBegin e).params = s.params ∧ (s.watchBegin e).cache = s.cache ∧
    (s.watchBegin e).engine.requests = s.engine.requests ∧ (s.watchBegin e).watch.params = s.watch.params ∧
    (s.watchBegin e).watch.heldTunes = s.watch.heldTunes := by
  unfold State.watchBegin
  simp

@[simp] theorem State.watchEnd_kept (id : Nat) :
    (s.watchEnd id).control = s.control ∧ (s.watchEnd id).units = s.units ∧ (s.watchEnd id).air = s.air ∧
    (s.watchEnd id).bins = s.bins ∧ (s.watchEnd id).lines = s.lines ∧ (s.watchEnd id).spares = s.spares ∧
    (s.watchEnd id).coupling = s.coupling ∧ (s.watchEnd id).params = s.params ∧ (s.watchEnd id).cache = s.cache ∧
    (s.watchEnd id).engine.requests = s.engine.requests ∧ (s.watchEnd id).watch.params = s.watch.params := by
  unfold State.watchEnd
  dsimp only
  (repeat' split) <;> simp

@[simp] theorem State.swapDecision_kept (e : AirEntry) :
    (s.swapDecision e).control = s.control ∧ (s.swapDecision e).units = s.units ∧ (s.swapDecision e).air = s.air ∧
    (s.swapDecision e).bins = s.bins ∧ (s.swapDecision e).lines = s.lines ∧ (s.swapDecision e).spares = s.spares ∧
    (s.swapDecision e).coupling = s.coupling ∧ (s.swapDecision e).params = s.params ∧
    (s.swapDecision e).cache = s.cache ∧ (s.swapDecision e).watch.params = s.watch.params ∧
    (s.swapDecision e).watch.heldTunes = s.watch.heldTunes := by
  unfold State.swapDecision
  dsimp only
  (repeat' split) <;> simp

/-- A swap decision leaves no answer of the engine waiting. -/
@[simp] theorem State.swapDecision_swapAnswers (e : AirEntry) : (s.swapDecision e).swapAnswers = [] := by
  unfold State.swapDecision
  dsimp only
  (repeat' split) <;> simp

@[simp] theorem State.confirm_kept (e : AirEntry) (c : ReportClass) :
    (s.confirm e c).control = s.control ∧ (s.confirm e c).units = s.units ∧ (s.confirm e c).air = s.air ∧
    (s.confirm e c).lines = s.lines ∧ (s.confirm e c).spares = s.spares ∧ (s.confirm e c).coupling = s.coupling ∧
    (s.confirm e c).params = s.params ∧ (s.confirm e c).cache = s.cache ∧
    (s.confirm e c).watch.params = s.watch.params ∧ (s.confirm e c).watch.heldTunes = s.watch.heldTunes := by
  unfold State.confirm
  simp

@[simp] theorem State.countReport_kept (e : AirEntry) (w : WatchRec) (c : ReportClass) :
    (s.countReport e w c).control = s.control ∧ (s.countReport e w c).units = s.units ∧
    (s.countReport e w c).air = s.air ∧ (s.countReport e w c).lines = s.lines ∧
    (s.countReport e w c).spares = s.spares ∧ (s.countReport e w c).coupling = s.coupling ∧
    (s.countReport e w c).params = s.params ∧ (s.countReport e w c).cache = s.cache ∧
    (s.countReport e w c).watch.params = s.watch.params ∧ (s.countReport e w c).watch.heldTunes = s.watch.heldTunes := by
  unfold State.countReport
  simp

@[simp] theorem State.reportFields_kept (w : WatchRec) (r : Report) :
    (s.reportFields w r).control = s.control ∧ (s.reportFields w r).units = s.units ∧
    (s.reportFields w r).air = s.air ∧ (s.reportFields w r).bins = s.bins ∧ (s.reportFields w r).lines = s.lines ∧
    (s.reportFields w r).spares = s.spares ∧ (s.reportFields w r).coupling = s.coupling ∧
    (s.reportFields w r).params = s.params ∧ (s.reportFields w r).cache = s.cache ∧
    (s.reportFields w r).engine.requests = s.engine.requests ∧ (s.reportFields w r).watch.params = s.watch.params ∧
    (s.reportFields w r).watch.heldTunes = s.watch.heldTunes ∧ (s.reportFields w r).swapAnswers = s.swapAnswers := by
  unfold State.reportFields
  simp

@[simp] theorem State.reportTo_kept (r : Report) (e : AirEntry) :
    (s.reportTo r e).control = s.control ∧ (s.reportTo r e).units = s.units ∧ (s.reportTo r e).air = s.air ∧
    (s.reportTo r e).lines = s.lines ∧ (s.reportTo r e).spares = s.spares ∧ (s.reportTo r e).coupling = s.coupling ∧
    (s.reportTo r e).params = s.params ∧ (s.reportTo r e).cache = s.cache ∧
    (s.reportTo r e).watch.params = s.watch.params ∧ (s.reportTo r e).watch.heldTunes = s.watch.heldTunes := by
  unfold State.reportTo
  (repeat' split) <;> simp

@[simp] theorem State.report_kept (k : Fin 4) (r : Report) :
    (s.report k r).control = s.control ∧ (s.report k r).units = s.units ∧ (s.report k r).air = s.air ∧
    (s.report k r).lines = s.lines ∧ (s.report k r).spares = s.spares ∧ (s.report k r).coupling = s.coupling ∧
    (s.report k r).params = s.params ∧ (s.report k r).cache = s.cache ∧ (s.report k r).watch.params = s.watch.params ∧
    (s.report k r).watch.heldTunes = s.watch.heldTunes := by
  unfold State.report
  exact ⟨(foldl_kept (β := State) (fun s e => s.reportTo r e) (·.control) (fun _ _ => by simp) _ _).trans rfl,
    (foldl_kept (β := State) (fun s e => s.reportTo r e) (·.units) (fun _ _ => by simp) _ _).trans rfl,
    (foldl_kept (β := State) (fun s e => s.reportTo r e) (·.air) (fun _ _ => by simp) _ _).trans rfl,
    (foldl_kept (β := State) (fun s e => s.reportTo r e) (·.lines) (fun _ _ => by simp) _ _).trans rfl,
    (foldl_kept (β := State) (fun s e => s.reportTo r e) (·.spares) (fun _ _ => by simp) _ _).trans rfl,
    (foldl_kept (β := State) (fun s e => s.reportTo r e) (·.coupling) (fun _ _ => by simp) _ _).trans rfl,
    (foldl_kept (β := State) (fun s e => s.reportTo r e) (·.params) (fun _ _ => by simp) _ _).trans rfl,
    (foldl_kept (β := State) (fun s e => s.reportTo r e) (·.cache) (fun _ _ => by simp) _ _).trans rfl,
    (foldl_kept (β := State) (fun s e => s.reportTo r e) (·.watch.params) (fun _ _ => by simp) _ _).trans rfl,
    (foldl_kept (β := State) (fun s e => s.reportTo r e) (·.watch.heldTunes) (fun _ _ => by simp) _ _).trans rfl⟩

@[simp] theorem State.liveOutcome_kept (m : OutcomeMsg) :
    (s.liveOutcome m).control = s.control ∧ (s.liveOutcome m).units = s.units ∧ (s.liveOutcome m).air = s.air ∧
    (s.liveOutcome m).bins = s.bins ∧ (s.liveOutcome m).lines = s.lines ∧ (s.liveOutcome m).spares = s.spares ∧
    (s.liveOutcome m).coupling = s.coupling ∧ (s.liveOutcome m).params = s.params ∧
    (s.liveOutcome m).cache = s.cache ∧ (s.liveOutcome m).engine.requests = s.engine.requests ∧
    (s.liveOutcome m).watch.params = s.watch.params ∧ (s.liveOutcome m).watch.heldTunes = s.watch.heldTunes := by
  unfold State.liveOutcome
  dsimp only
  (repeat' split) <;> simp

@[simp] theorem State.retuneNotice_kept (id : Nat) :
    (s.retuneNotice id).control = s.control ∧ (s.retuneNotice id).units = s.units ∧ (s.retuneNotice id).air = s.air ∧
    (s.retuneNotice id).bins = s.bins ∧ (s.retuneNotice id).lines = s.lines ∧ (s.retuneNotice id).spares = s.spares ∧
    (s.retuneNotice id).coupling = s.coupling ∧ (s.retuneNotice id).params = s.params ∧
    (s.retuneNotice id).cache = s.cache ∧ (s.retuneNotice id).watch.params = s.watch.params := by
  unfold State.retuneNotice
  dsimp only
  (repeat' split) <;> simp

@[simp] theorem State.blindOne_kept (e : AirEntry) :
    (s.blindOne e).control = s.control ∧ (s.blindOne e).units = s.units ∧ (s.blindOne e).air = s.air ∧
    (s.blindOne e).bins = s.bins ∧ (s.blindOne e).lines = s.lines ∧ (s.blindOne e).spares = s.spares ∧
    (s.blindOne e).coupling = s.coupling ∧ (s.blindOne e).params = s.params ∧ (s.blindOne e).cache = s.cache ∧
    (s.blindOne e).watch.params = s.watch.params ∧ (s.blindOne e).watch.heldTunes = s.watch.heldTunes ∧
    (s.blindOne e).swapAnswers = s.swapAnswers := by
  unfold State.blindOne
  (repeat' split) <;> simp

@[simp] theorem State.blind_kept (k : Fin 4) (addr : Nat) :
    (s.blind k addr).control = s.control ∧ (s.blind k addr).units = s.units ∧ (s.blind k addr).air = s.air ∧
    (s.blind k addr).bins = s.bins ∧ (s.blind k addr).lines = s.lines ∧ (s.blind k addr).spares = s.spares ∧
    (s.blind k addr).coupling = s.coupling ∧ (s.blind k addr).params = s.params ∧ (s.blind k addr).cache = s.cache ∧
    (s.blind k addr).watch.params = s.watch.params ∧ (s.blind k addr).watch.heldTunes = s.watch.heldTunes ∧
    (s.blind k addr).swapAnswers = s.swapAnswers := by
  unfold State.blind
  exact ⟨(foldl_kept (β := State) (State.blindOne) (·.control) (fun _ _ => by simp) _ _).trans rfl,
    (foldl_kept (β := State) (State.blindOne) (·.units) (fun _ _ => by simp) _ _).trans rfl,
    (foldl_kept (β := State) (State.blindOne) (·.air) (fun _ _ => by simp) _ _).trans rfl,
    (foldl_kept (β := State) (State.blindOne) (·.bins) (fun _ _ => by simp) _ _).trans rfl,
    (foldl_kept (β := State) (State.blindOne) (·.lines) (fun _ _ => by simp) _ _).trans rfl,
    (foldl_kept (β := State) (State.blindOne) (·.spares) (fun _ _ => by simp) _ _).trans rfl,
    (foldl_kept (β := State) (State.blindOne) (·.coupling) (fun _ _ => by simp) _ _).trans rfl,
    (foldl_kept (β := State) (State.blindOne) (·.params) (fun _ _ => by simp) _ _).trans rfl,
    (foldl_kept (β := State) (State.blindOne) (·.cache) (fun _ _ => by simp) _ _).trans rfl,
    (foldl_kept (β := State) (State.blindOne) (·.watch.params) (fun _ _ => by simp) _ _).trans rfl,
    (foldl_kept (β := State) (State.blindOne) (·.watch.heldTunes) (fun _ _ => by simp) _ _).trans rfl,
    (foldl_kept (β := State) (State.blindOne) (·.swapAnswers) (fun _ _ => by simp) _ _).trans rfl⟩

@[simp] theorem State.unblindOne_kept (e : AirEntry) :
    (s.unblindOne e).control = s.control ∧ (s.unblindOne e).units = s.units ∧ (s.unblindOne e).air = s.air ∧
    (s.unblindOne e).bins = s.bins ∧ (s.unblindOne e).lines = s.lines ∧ (s.unblindOne e).spares = s.spares ∧
    (s.unblindOne e).coupling = s.coupling ∧ (s.unblindOne e).params = s.params ∧ (s.unblindOne e).cache = s.cache ∧
    (s.unblindOne e).engine.requests = s.engine.requests ∧ (s.unblindOne e).watch.params = s.watch.params ∧
    (s.unblindOne e).watch.heldTunes = s.watch.heldTunes ∧ (s.unblindOne e).swapAnswers = s.swapAnswers := by
  unfold State.unblindOne
  (repeat' split) <;> simp

@[simp] theorem State.unblind_kept (k : Fin 4) (addr : Nat) :
    (s.unblind k addr).control = s.control ∧ (s.unblind k addr).units = s.units ∧ (s.unblind k addr).air = s.air ∧
    (s.unblind k addr).bins = s.bins ∧ (s.unblind k addr).lines = s.lines ∧ (s.unblind k addr).spares = s.spares ∧
    (s.unblind k addr).coupling = s.coupling ∧ (s.unblind k addr).params = s.params ∧
    (s.unblind k addr).cache = s.cache ∧ (s.unblind k addr).engine.requests = s.engine.requests ∧
    (s.unblind k addr).watch.params = s.watch.params ∧ (s.unblind k addr).watch.heldTunes = s.watch.heldTunes ∧
    (s.unblind k addr).swapAnswers = s.swapAnswers := by
  unfold State.unblind
  exact ⟨(foldl_kept (β := State) (State.unblindOne) (·.control) (fun _ _ => by simp) _ _).trans rfl,
    (foldl_kept (β := State) (State.unblindOne) (·.units) (fun _ _ => by simp) _ _).trans rfl,
    (foldl_kept (β := State) (State.unblindOne) (·.air) (fun _ _ => by simp) _ _).trans rfl,
    (foldl_kept (β := State) (State.unblindOne) (·.bins) (fun _ _ => by simp) _ _).trans rfl,
    (foldl_kept (β := State) (State.unblindOne) (·.lines) (fun _ _ => by simp) _ _).trans rfl,
    (foldl_kept (β := State) (State.unblindOne) (·.spares) (fun _ _ => by simp) _ _).trans rfl,
    (foldl_kept (β := State) (State.unblindOne) (·.coupling) (fun _ _ => by simp) _ _).trans rfl,
    (foldl_kept (β := State) (State.unblindOne) (·.params) (fun _ _ => by simp) _ _).trans rfl,
    (foldl_kept (β := State) (State.unblindOne) (·.cache) (fun _ _ => by simp) _ _).trans rfl,
    (foldl_kept (β := State) (State.unblindOne) (·.engine.requests) (fun _ _ => by simp) _ _).trans rfl,
    (foldl_kept (β := State) (State.unblindOne) (·.watch.params) (fun _ _ => by simp) _ _).trans rfl,
    (foldl_kept (β := State) (State.unblindOne) (·.watch.heldTunes) (fun _ _ => by simp) _ _).trans rfl,
    (foldl_kept (β := State) (State.unblindOne) (·.swapAnswers) (fun _ _ => by simp) _ _).trans rfl⟩

@[simp] theorem State.haltRec_kept (r : WatchRec) :
    (s.haltRec r).control = s.control ∧ (s.haltRec r).units = s.units ∧ (s.haltRec r).air = s.air ∧
    (s.haltRec r).bins = s.bins ∧ (s.haltRec r).lines = s.lines ∧ (s.haltRec r).spares = s.spares ∧
    (s.haltRec r).coupling = s.coupling ∧ (s.haltRec r).params = s.params ∧ (s.haltRec r).cache = s.cache ∧
    (s.haltRec r).engine.requests = s.engine.requests ∧ (s.haltRec r).watch.params = s.watch.params ∧
    (s.haltRec r).watch.heldTunes = s.watch.heldTunes ∧ (s.haltRec r).swapAnswers = s.swapAnswers := by
  unfold State.haltRec
  simp

@[simp] theorem State.watchHalt_kept :
    s.watchHalt.control = s.control ∧ s.watchHalt.units = s.units ∧ s.watchHalt.air = s.air ∧
    s.watchHalt.bins = s.bins ∧ s.watchHalt.lines = s.lines ∧ s.watchHalt.spares = s.spares ∧
    s.watchHalt.coupling = s.coupling ∧ s.watchHalt.params = s.params ∧ s.watchHalt.cache = s.cache ∧
    s.watchHalt.engine.requests = s.engine.requests ∧ s.watchHalt.watch.params = s.watch.params ∧
    s.watchHalt.watch.heldTunes = s.watch.heldTunes := by
  unfold State.watchHalt
  exact ⟨(foldl_kept (β := State) (State.haltRec) (·.control) (fun _ _ => by simp) _ _).trans (by simp),
    (foldl_kept (β := State) (State.haltRec) (·.units) (fun _ _ => by simp) _ _).trans (by simp),
    (foldl_kept (β := State) (State.haltRec) (·.air) (fun _ _ => by simp) _ _).trans (by simp),
    (foldl_kept (β := State) (State.haltRec) (·.bins) (fun _ _ => by simp) _ _).trans (by simp),
    (foldl_kept (β := State) (State.haltRec) (·.lines) (fun _ _ => by simp) _ _).trans (by simp),
    (foldl_kept (β := State) (State.haltRec) (·.spares) (fun _ _ => by simp) _ _).trans (by simp),
    (foldl_kept (β := State) (State.haltRec) (·.coupling) (fun _ _ => by simp) _ _).trans (by simp),
    (foldl_kept (β := State) (State.haltRec) (·.params) (fun _ _ => by simp) _ _).trans (by simp),
    (foldl_kept (β := State) (State.haltRec) (·.cache) (fun _ _ => by simp) _ _).trans (by simp),
    (foldl_kept (β := State) (State.haltRec) (·.engine.requests) (fun _ _ => by simp) _ _).trans (by simp),
    (foldl_kept (β := State) (State.haltRec) (·.watch.params) (fun _ _ => by simp) _ _).trans (by simp),
    (foldl_kept (β := State) (State.haltRec) (·.watch.heldTunes) (fun _ _ => by simp) _ _).trans (by simp)⟩

@[simp] theorem offerHeld_kept (k : Fin 4) (hs : List HeldTune) :
    (offerHeld k hs s).control = s.control ∧ (offerHeld k hs s).units = s.units ∧ (offerHeld k hs s).air = s.air ∧
    (offerHeld k hs s).bins = s.bins ∧ (offerHeld k hs s).spares = s.spares ∧
    (offerHeld k hs s).coupling = s.coupling ∧ (offerHeld k hs s).params = s.params ∧
    (offerHeld k hs s).cache = s.cache ∧ (offerHeld k hs s).engine.requests = s.engine.requests ∧
    (offerHeld k hs s).watch.records = s.watch.records ∧ (offerHeld k hs s).watch.params = s.watch.params ∧
    (offerHeld k hs s).swapAnswers = s.swapAnswers := by
  induction hs generalizing s with
  | nil => simp [offerHeld]
  | cons h hs ih =>
    unfold offerHeld
    split
    · split
      · simp
      · have := State.offer_some s ‹_›
        simp [ih, this]
    · exact ih s

@[simp] theorem State.watchRoom_kept (k : Fin 4) :
    (s.watchRoom k).control = s.control ∧ (s.watchRoom k).units = s.units ∧ (s.watchRoom k).air = s.air ∧
    (s.watchRoom k).bins = s.bins ∧ (s.watchRoom k).spares = s.spares ∧ (s.watchRoom k).coupling = s.coupling ∧
    (s.watchRoom k).params = s.params ∧ (s.watchRoom k).cache = s.cache ∧
    (s.watchRoom k).engine.requests = s.engine.requests ∧ (s.watchRoom k).watch.records = s.watch.records ∧
    (s.watchRoom k).watch.params = s.watch.params ∧ (s.watchRoom k).swapAnswers = s.swapAnswers := by
  unfold State.watchRoom
  simp

@[simp] theorem State.watchSetup_kept (slot : Nat) (b : OrderBody) :
    (s.watchSetup slot b).1.control = s.control ∧ (s.watchSetup slot b).1.units = s.units ∧
    (s.watchSetup slot b).1.air = s.air ∧ (s.watchSetup slot b).1.bins = s.bins ∧
    (s.watchSetup slot b).1.lines = s.lines ∧ (s.watchSetup slot b).1.spares = s.spares ∧
    (s.watchSetup slot b).1.coupling = s.coupling ∧ (s.watchSetup slot b).1.params = s.params ∧
    (s.watchSetup slot b).1.cache = s.cache ∧ (s.watchSetup slot b).1.engine.requests = s.engine.requests ∧
    (s.watchSetup slot b).1.watch.records = s.watch.records ∧
    (s.watchSetup slot b).1.watch.heldTunes = s.watch.heldTunes ∧
    (s.watchSetup slot b).1.swapAnswers = s.swapAnswers ∧
    (s.watchSetup slot b).1.status.marks = s.status.marks := by
  unfold State.watchSetup
  simp

@[simp] theorem State.watchRelease_kept (slot : Nat) (b : OrderBody) :
    (s.watchRelease slot b).1.control = s.control ∧ (s.watchRelease slot b).1.units = s.units ∧
    (s.watchRelease slot b).1.air = s.air ∧ (s.watchRelease slot b).1.bins = s.bins ∧
    (s.watchRelease slot b).1.lines = s.lines ∧ (s.watchRelease slot b).1.spares = s.spares ∧
    (s.watchRelease slot b).1.coupling = s.coupling ∧ (s.watchRelease slot b).1.params = s.params ∧
    (s.watchRelease slot b).1.cache = s.cache ∧ (s.watchRelease slot b).1.engine.requests = s.engine.requests ∧
    (s.watchRelease slot b).1.watch.params = s.watch.params ∧
    (s.watchRelease slot b).1.watch.heldTunes = s.watch.heldTunes ∧
    (s.watchRelease slot b).1.swapAnswers = s.swapAnswers := by
  unfold State.watchRelease
  dsimp only
  (repeat' split) <;> simp

@[simp] theorem State.fillWay_kept (id : Nat) (i : CarrierInfo) :
    (s.fillWay id i).control = s.control ∧ (s.fillWay id i).units = s.units ∧ (s.fillWay id i).air = s.air ∧
    (s.fillWay id i).bins = s.bins ∧ (s.fillWay id i).lines = s.lines ∧ (s.fillWay id i).spares = s.spares ∧
    (s.fillWay id i).coupling = s.coupling ∧ (s.fillWay id i).params = s.params ∧
    (s.fillWay id i).engine.requests = s.engine.requests ∧ (s.fillWay id i).watch.records = s.watch.records ∧
    (s.fillWay id i).watch.params = s.watch.params ∧ (s.fillWay id i).watch.heldTunes = s.watch.heldTunes ∧
    (s.fillWay id i).swapAnswers = s.swapAnswers ∧
    (s.fillWay id i).status.marks = s.status.marks := by
  unfold State.fillWay
  dsimp only
  (repeat' split) <;> simp

@[simp] theorem State.dropWay_kept (id : Nat) :
    (s.dropWay id).control = s.control ∧ (s.dropWay id).units = s.units ∧ (s.dropWay id).air = s.air ∧
    (s.dropWay id).bins = s.bins ∧ (s.dropWay id).lines = s.lines ∧ (s.dropWay id).spares = s.spares ∧
    (s.dropWay id).coupling = s.coupling ∧ (s.dropWay id).params = s.params ∧
    (s.dropWay id).engine.requests = s.engine.requests ∧ (s.dropWay id).watch.records = s.watch.records ∧
    (s.dropWay id).watch.params = s.watch.params ∧ (s.dropWay id).watch.heldTunes = s.watch.heldTunes ∧
    (s.dropWay id).swapAnswers = s.swapAnswers ∧
    (s.dropWay id).status.marks = s.status.marks := by
  unfold State.dropWay
  (repeat' split) <;> simp

@[simp] theorem State.updateWay_kept (id code source : Nat) :
    (s.updateWay id code source).control = s.control ∧ (s.updateWay id code source).units = s.units ∧
    (s.updateWay id code source).air = s.air ∧ (s.updateWay id code source).bins = s.bins ∧
    (s.updateWay id code source).lines = s.lines ∧ (s.updateWay id code source).spares = s.spares ∧
    (s.updateWay id code source).coupling = s.coupling ∧ (s.updateWay id code source).params = s.params ∧
    (s.updateWay id code source).engine.requests = s.engine.requests ∧
    (s.updateWay id code source).watch.records = s.watch.records ∧
    (s.updateWay id code source).watch.params = s.watch.params ∧
    (s.updateWay id code source).watch.heldTunes = s.watch.heldTunes ∧
    (s.updateWay id code source).swapAnswers = s.swapAnswers ∧
    (s.updateWay id code source).status.marks = s.status.marks := by
  unfold State.updateWay
  (repeat' split) <;> simp

@[simp] theorem State.flush_kept (mask : Nat) :
    (s.flush mask).1.control = s.control ∧ (s.flush mask).1.units = s.units ∧ (s.flush mask).1.air = s.air ∧
    (s.flush mask).1.bins = s.bins ∧ (s.flush mask).1.lines = s.lines ∧ (s.flush mask).1.spares = s.spares ∧
    (s.flush mask).1.coupling = s.coupling ∧ (s.flush mask).1.params = s.params ∧
    (s.flush mask).1.engine.requests = s.engine.requests ∧ (s.flush mask).1.watch.records = s.watch.records ∧
    (s.flush mask).1.watch.params = s.watch.params ∧ (s.flush mask).1.watch.heldTunes = s.watch.heldTunes ∧
    (s.flush mask).1.swapAnswers = s.swapAnswers ∧
    (s.flush mask).1.status.marks = s.status.marks := by
  unfold State.flush
  simp

@[simp] theorem State.putEntry_kept (e : AirEntry) :
    (s.putEntry e).control = s.control ∧ (s.putEntry e).units = s.units ∧ (s.putEntry e).bins = s.bins ∧
    (s.putEntry e).lines = s.lines ∧ (s.putEntry e).spares = s.spares ∧ (s.putEntry e).coupling = s.coupling ∧
    (s.putEntry e).params = s.params ∧ (s.putEntry e).cache = s.cache ∧
    (s.putEntry e).engine.requests = s.engine.requests ∧ (s.putEntry e).watch.records = s.watch.records ∧
    (s.putEntry e).watch.params = s.watch.params ∧ (s.putEntry e).watch.heldTunes = s.watch.heldTunes ∧
    (s.putEntry e).swapAnswers = s.swapAnswers ∧
    (s.putEntry e).status.marks = s.status.marks := by
  unfold State.putEntry
  simp

@[simp] theorem State.joinOnAir_kept (id code : Nat) (i : CarrierInfo) :
    (s.joinOnAir id code i).control = s.control ∧ (s.joinOnAir id code i).units = s.units ∧
    (s.joinOnAir id code i).bins = s.bins ∧ (s.joinOnAir id code i).lines = s.lines ∧
    (s.joinOnAir id code i).spares = s.spares ∧ (s.joinOnAir id code i).coupling = s.coupling ∧
    (s.joinOnAir id code i).params = s.params ∧ (s.joinOnAir id code i).cache = s.cache ∧
    (s.joinOnAir id code i).engine.requests = s.engine.requests ∧
    (s.joinOnAir id code i).watch.params = s.watch.params ∧
    (s.joinOnAir id code i).watch.heldTunes = s.watch.heldTunes := by
  unfold State.joinOnAir
  simp

@[simp] theorem State.joinPending_kept (id code : Nat) (i : CarrierInfo) (slot : Nat) :
    (s.joinPending id code i slot).control = s.control ∧ (s.joinPending id code i slot).units = s.units ∧
    (s.joinPending id code i slot).bins = s.bins ∧ (s.joinPending id code i slot).lines = s.lines ∧
    (s.joinPending id code i slot).spares = s.spares ∧ (s.joinPending id code i slot).coupling = s.coupling ∧
    (s.joinPending id code i slot).params = s.params ∧ (s.joinPending id code i slot).cache = s.cache ∧
    (s.joinPending id code i slot).engine.requests = s.engine.requests ∧
    (s.joinPending id code i slot).watch.records = s.watch.records ∧
    (s.joinPending id code i slot).watch.params = s.watch.params ∧
    (s.joinPending id code i slot).watch.heldTunes = s.watch.heldTunes ∧
    (s.joinPending id code i slot).swapAnswers = s.swapAnswers := by
  unfold State.joinPending
  simp

@[simp] theorem State.leaveAir_kept (id : Nat) :
    (s.leaveAir id).control = s.control ∧ (s.leaveAir id).units = s.units ∧ (s.leaveAir id).bins = s.bins ∧
    (s.leaveAir id).lines = s.lines ∧ (s.leaveAir id).spares = s.spares ∧ (s.leaveAir id).coupling = s.coupling ∧
    (s.leaveAir id).params = s.params ∧ (s.leaveAir id).cache = s.cache ∧
    (s.leaveAir id).watch.params = s.watch.params := by
  unfold State.leaveAir
  simp

@[simp] theorem State.withdrawOwned_kept (slot : Nat) :
    (s.withdrawOwned slot).control = s.control ∧ (s.withdrawOwned slot).units = s.units ∧
    (s.withdrawOwned slot).bins = s.bins ∧ (s.withdrawOwned slot).lines = s.lines ∧
    (s.withdrawOwned slot).spares = s.spares ∧ (s.withdrawOwned slot).coupling = s.coupling ∧
    (s.withdrawOwned slot).params = s.params ∧ (s.withdrawOwned slot).cache = s.cache ∧
    (s.withdrawOwned slot).engine.requests = s.engine.requests ∧
    (s.withdrawOwned slot).watch.records = s.watch.records ∧ (s.withdrawOwned slot).watch.params = s.watch.params ∧
    (s.withdrawOwned slot).watch.heldTunes = s.watch.heldTunes ∧
    (s.withdrawOwned slot).swapAnswers = s.swapAnswers := by
  unfold State.withdrawOwned
  simp

@[simp] theorem State.committed_kept (e : AirEntry) :
    (s.committed e).control = s.control ∧ (s.committed e).units = s.units ∧ (s.committed e).air = s.air ∧
    (s.committed e).bins = s.bins ∧ (s.committed e).lines = s.lines ∧ (s.committed e).spares = s.spares ∧
    (s.committed e).coupling = s.coupling ∧ (s.committed e).params = s.params ∧ (s.committed e).cache = s.cache ∧
    (s.committed e).engine.requests = s.engine.requests ∧ (s.committed e).watch.params = s.watch.params ∧
    (s.committed e).watch.heldTunes = s.watch.heldTunes := by
  unfold State.committed
  simp

@[simp] theorem State.commitOwned_kept (slot : Nat) :
    (s.commitOwned slot).control = s.control ∧ (s.commitOwned slot).units = s.units ∧
    (s.commitOwned slot).bins = s.bins ∧ (s.commitOwned slot).lines = s.lines ∧
    (s.commitOwned slot).spares = s.spares ∧ (s.commitOwned slot).coupling = s.coupling ∧
    (s.commitOwned slot).params = s.params ∧ (s.commitOwned slot).cache = s.cache ∧
    (s.commitOwned slot).engine.requests = s.engine.requests ∧ (s.commitOwned slot).watch.params = s.watch.params ∧
    (s.commitOwned slot).watch.heldTunes = s.watch.heldTunes := by
  unfold State.commitOwned
  exact ⟨(foldl_kept (β := State) (State.committed) (·.control) (fun _ _ => by simp) _ _).trans rfl,
    (foldl_kept (β := State) (State.committed) (·.units) (fun _ _ => by simp) _ _).trans rfl,
    (foldl_kept (β := State) (State.committed) (·.bins) (fun _ _ => by simp) _ _).trans rfl,
    (foldl_kept (β := State) (State.committed) (·.lines) (fun _ _ => by simp) _ _).trans rfl,
    (foldl_kept (β := State) (State.committed) (·.spares) (fun _ _ => by simp) _ _).trans rfl,
    (foldl_kept (β := State) (State.committed) (·.coupling) (fun _ _ => by simp) _ _).trans rfl,
    (foldl_kept (β := State) (State.committed) (·.params) (fun _ _ => by simp) _ _).trans rfl,
    (foldl_kept (β := State) (State.committed) (·.cache) (fun _ _ => by simp) _ _).trans rfl,
    (foldl_kept (β := State) (State.committed) (·.engine.requests) (fun _ _ => by simp) _ _).trans rfl,
    (foldl_kept (β := State) (State.committed) (·.watch.params) (fun _ _ => by simp) _ _).trans rfl,
    (foldl_kept (β := State) (State.committed) (·.watch.heldTunes) (fun _ _ => by simp) _ _).trans rfl⟩

@[simp] theorem State.setCode_kept (id code : Nat) (f : AirEntry → AirEntry) :
    (s.setCode id code f).control = s.control ∧ (s.setCode id code f).units = s.units ∧
    (s.setCode id code f).bins = s.bins ∧ (s.setCode id code f).lines = s.lines ∧
    (s.setCode id code f).spares = s.spares ∧ (s.setCode id code f).coupling = s.coupling ∧
    (s.setCode id code f).params = s.params ∧ (s.setCode id code f).cache = s.cache ∧
    (s.setCode id code f).engine.requests = s.engine.requests ∧
    (s.setCode id code f).watch.records = s.watch.records ∧ (s.setCode id code f).watch.params = s.watch.params ∧
    (s.setCode id code f).watch.heldTunes = s.watch.heldTunes ∧
    (s.setCode id code f).swapAnswers = s.swapAnswers := by
  unfold State.setCode
  (repeat' split) <;> simp

@[simp] theorem State.recordOutcome_kept (m : OutcomeMsg) :
    (s.recordOutcome m).control = s.control ∧ (s.recordOutcome m).units = s.units ∧
    (s.recordOutcome m).bins = s.bins ∧ (s.recordOutcome m).lines = s.lines ∧ (s.recordOutcome m).spares = s.spares ∧
    (s.recordOutcome m).coupling = s.coupling ∧ (s.recordOutcome m).params = s.params ∧
    (s.recordOutcome m).cache = s.cache ∧ (s.recordOutcome m).engine.requests = s.engine.requests ∧
    (s.recordOutcome m).watch.records = s.watch.records ∧ (s.recordOutcome m).watch.params = s.watch.params ∧
    (s.recordOutcome m).watch.heldTunes = s.watch.heldTunes ∧ (s.recordOutcome m).swapAnswers = s.swapAnswers := by
  unfold State.recordOutcome
  (repeat' split) <;> simp

@[simp] theorem State.loadSpares_kept (list : List (Nat × BitVec 12)) :
    (s.loadSpares list).control = s.control ∧ (s.loadSpares list).units = s.units ∧ (s.loadSpares list).air = s.air ∧
    (s.loadSpares list).bins = s.bins ∧ (s.loadSpares list).lines = s.lines ∧
    (s.loadSpares list).coupling = s.coupling ∧ (s.loadSpares list).params = s.params ∧
    (s.loadSpares list).cache = s.cache ∧ (s.loadSpares list).engine.requests = s.engine.requests ∧
    (s.loadSpares list).watch.records = s.watch.records ∧ (s.loadSpares list).watch.params = s.watch.params ∧
    (s.loadSpares list).watch.heldTunes = s.watch.heldTunes ∧ (s.loadSpares list).swapAnswers = s.swapAnswers := by
  unfold State.loadSpares
  simp

@[simp] theorem State.releaseSpare_kept (i : Nat) :
    (s.releaseSpare i).1.control = s.control ∧ (s.releaseSpare i).1.units = s.units ∧
    (s.releaseSpare i).1.air = s.air ∧ (s.releaseSpare i).1.bins = s.bins ∧ (s.releaseSpare i).1.lines = s.lines ∧
    (s.releaseSpare i).1.coupling = s.coupling ∧ (s.releaseSpare i).1.params = s.params ∧
    (s.releaseSpare i).1.cache = s.cache ∧ (s.releaseSpare i).1.engine.requests = s.engine.requests ∧
    (s.releaseSpare i).1.watch.records = s.watch.records ∧ (s.releaseSpare i).1.watch.params = s.watch.params ∧
    (s.releaseSpare i).1.watch.heldTunes = s.watch.heldTunes ∧ (s.releaseSpare i).1.swapAnswers = s.swapAnswers := by
  unfold State.releaseSpare
  (repeat' split) <;> simp

@[simp] theorem State.beginWb_kept (id code : Nat) (swap : Bool) :
    (s.beginWb id code swap).control = s.control ∧ (s.beginWb id code swap).units = s.units ∧
    (s.beginWb id code swap).air = s.air ∧ (s.beginWb id code swap).bins = s.bins ∧
    (s.beginWb id code swap).lines = s.lines ∧ (s.beginWb id code swap).spares = s.spares ∧
    (s.beginWb id code swap).coupling = s.coupling ∧ (s.beginWb id code swap).params = s.params ∧
    (s.beginWb id code swap).cache = s.cache ∧ (s.beginWb id code swap).engine.requests = s.engine.requests ∧
    (s.beginWb id code swap).watch.records = s.watch.records ∧
    (s.beginWb id code swap).watch.params = s.watch.params ∧
    (s.beginWb id code swap).watch.heldTunes = s.watch.heldTunes ∧
    (s.beginWb id code swap).swapAnswers = s.swapAnswers ∧
    (s.beginWb id code swap).status.marks = s.status.marks := by
  unfold State.beginWb
  simp

@[simp] theorem State.liveTune_kept (id code : Nat) (rack : Option Rack) :
    (s.liveTune id code rack).control = s.control ∧ (s.liveTune id code rack).units = s.units ∧
    (s.liveTune id code rack).air = s.air ∧ (s.liveTune id code rack).bins = s.bins ∧
    (s.liveTune id code rack).spares = s.spares ∧ (s.liveTune id code rack).coupling = s.coupling ∧
    (s.liveTune id code rack).params = s.params ∧ (s.liveTune id code rack).cache = s.cache ∧
    (s.liveTune id code rack).engine.requests = s.engine.requests ∧
    (s.liveTune id code rack).watch.records = s.watch.records ∧
    (s.liveTune id code rack).watch.params = s.watch.params ∧
    (s.liveTune id code rack).swapAnswers = s.swapAnswers ∧
    (s.liveTune id code rack).status.marks = s.status.marks := by
  unfold State.liveTune
  split
  · simp
  · dsimp only
    cases h : State.offer s _ _ with
    | none => simp
    | some t => have := State.offer_some s h; simp [this]

@[simp] theorem State.answerSwap_kept (id : Nat) (swapped : Bool) :
    (s.answerSwap id swapped).control = s.control ∧ (s.answerSwap id swapped).units = s.units ∧
    (s.answerSwap id swapped).air = s.air ∧ (s.answerSwap id swapped).bins = s.bins ∧
    (s.answerSwap id swapped).lines = s.lines ∧ (s.answerSwap id swapped).spares = s.spares ∧
    (s.answerSwap id swapped).coupling = s.coupling ∧ (s.answerSwap id swapped).params = s.params ∧
    (s.answerSwap id swapped).cache = s.cache ∧ (s.answerSwap id swapped).watch.records = s.watch.records ∧
    (s.answerSwap id swapped).watch.params = s.watch.params ∧
    (s.answerSwap id swapped).watch.heldTunes = s.watch.heldTunes ∧
    (s.answerSwap id swapped).status.marks = s.status.marks := by
  unfold State.answerSwap
  simp

@[simp] theorem State.applySwap_kept (e : AirEntry) (i : Nat) (sp : Spare) :
    (s.applySwap e i sp).control = s.control ∧ (s.applySwap e i sp).units = s.units ∧
    (s.applySwap e i sp).bins = s.bins ∧ (s.applySwap e i sp).coupling = s.coupling ∧
    (s.applySwap e i sp).params = s.params ∧ (s.applySwap e i sp).cache = s.cache ∧
    (s.applySwap e i sp).watch.records = s.watch.records ∧ (s.applySwap e i sp).watch.params = s.watch.params := by
  simp [State.applySwap]

@[simp] theorem State.swapChosen_kept (e : AirEntry) (i : Nat) (sp : Spare) :
    (s.swapChosen e i sp).control = s.control ∧ (s.swapChosen e i sp).units = s.units ∧
    (s.swapChosen e i sp).bins = s.bins ∧ (s.swapChosen e i sp).coupling = s.coupling ∧
    (s.swapChosen e i sp).params = s.params ∧ (s.swapChosen e i sp).cache = s.cache ∧
    (s.swapChosen e i sp).watch.records = s.watch.records ∧ (s.swapChosen e i sp).watch.params = s.watch.params := by
  unfold State.swapChosen
  split_ifs <;> simp

@[simp] theorem State.noSpare_kept (id : Nat) :
    (s.noSpare id).control = s.control ∧ (s.noSpare id).units = s.units ∧ (s.noSpare id).air = s.air ∧
    (s.noSpare id).bins = s.bins ∧ (s.noSpare id).lines = s.lines ∧ (s.noSpare id).spares = s.spares ∧
    (s.noSpare id).coupling = s.coupling ∧ (s.noSpare id).params = s.params ∧ (s.noSpare id).cache = s.cache ∧
    (s.noSpare id).watch.records = s.watch.records ∧ (s.noSpare id).watch.params = s.watch.params ∧
    (s.noSpare id).watch.heldTunes = s.watch.heldTunes ∧
    (s.noSpare id).status.marks = s.status.marks := by
  unfold State.noSpare
  split_ifs <;> simp

@[simp] theorem State.serveHead_kept :
    s.serveHead.control = s.control ∧ s.serveHead.units = s.units ∧ s.serveHead.air = s.air ∧
    s.serveHead.bins = s.bins ∧ s.serveHead.lines = s.lines ∧ s.serveHead.spares = s.spares ∧
    s.serveHead.coupling = s.coupling ∧ s.serveHead.params = s.params ∧ s.serveHead.cache = s.cache ∧
    s.serveHead.watch.records = s.watch.records ∧ s.serveHead.watch.params = s.watch.params ∧
    s.serveHead.watch.heldTunes = s.watch.heldTunes ∧
    s.serveHead.status.marks = s.status.marks := by
  unfold State.serveHead
  (repeat' split) <;> simp

@[simp] theorem State.serviceStep_kept (x next : Nat) :
    (s.serviceStep x next).control = s.control ∧ (s.serviceStep x next).units = s.units ∧
    (s.serviceStep x next).bins = s.bins ∧ (s.serviceStep x next).coupling = s.coupling ∧
    (s.serviceStep x next).params = s.params ∧ (s.serviceStep x next).cache = s.cache ∧
    (s.serviceStep x next).watch.records = s.watch.records ∧
    (s.serviceStep x next).watch.params = s.watch.params := by
  unfold State.serviceStep State.withBins
  (repeat' split) <;> simp

@[simp] theorem State.handOver_kept (c : Completion) :
    (s.handOver c).control = s.control ∧ (s.handOver c).units = s.units ∧ (s.handOver c).air = s.air ∧
    (s.handOver c).bins = s.bins ∧ (s.handOver c).lines = s.lines ∧ (s.handOver c).spares = s.spares ∧
    (s.handOver c).coupling = s.coupling ∧ (s.handOver c).params = s.params ∧ (s.handOver c).cache = s.cache ∧
    (s.handOver c).engine.requests = s.engine.requests ∧ (s.handOver c).watch.records = s.watch.records ∧
    (s.handOver c).watch.params = s.watch.params ∧ (s.handOver c).watch.heldTunes = s.watch.heldTunes ∧
    (s.handOver c).swapAnswers = s.swapAnswers ∧
    (s.handOver c).status.marks = s.status.marks := by
  unfold State.handOver
  simp

@[simp] theorem State.finish_kept (o : EngineOrder) (failed : Bool) (r : ResultCode) (c1 c2 : Nat) :
    (s.finish o failed r c1 c2).control = s.control ∧ (s.finish o failed r c1 c2).units = s.units ∧
    (s.finish o failed r c1 c2).air = s.air ∧ (s.finish o failed r c1 c2).bins = s.bins ∧
    (s.finish o failed r c1 c2).lines = s.lines ∧ (s.finish o failed r c1 c2).spares = s.spares ∧
    (s.finish o failed r c1 c2).coupling = s.coupling ∧ (s.finish o failed r c1 c2).params = s.params ∧
    (s.finish o failed r c1 c2).cache = s.cache ∧ (s.finish o failed r c1 c2).engine.requests = s.engine.requests ∧
    (s.finish o failed r c1 c2).watch.records = s.watch.records ∧
    (s.finish o failed r c1 c2).watch.params = s.watch.params ∧
    (s.finish o failed r c1 c2).watch.heldTunes = s.watch.heldTunes ∧
    (s.finish o failed r c1 c2).swapAnswers = s.swapAnswers ∧
    (s.finish o failed r c1 c2).status.marks = s.status.marks := by
  unfold State.finish
  (repeat' split) <;> simp

@[simp] theorem State.outcomesWritten_kept (o : EngineOrder) (a : Answer) (failed : Bool) (r : ResultCode) (c1 c2 : Nat) :
    (s.outcomesWritten o a failed r c1 c2).control = s.control ∧
    (s.outcomesWritten o a failed r c1 c2).units = s.units ∧ (s.outcomesWritten o a failed r c1 c2).air = s.air ∧
    (s.outcomesWritten o a failed r c1 c2).bins = s.bins ∧ (s.outcomesWritten o a failed r c1 c2).lines = s.lines ∧
    (s.outcomesWritten o a failed r c1 c2).spares = s.spares ∧
    (s.outcomesWritten o a failed r c1 c2).coupling = s.coupling ∧
    (s.outcomesWritten o a failed r c1 c2).params = s.params ∧
    (s.outcomesWritten o a failed r c1 c2).cache = s.cache ∧
    (s.outcomesWritten o a failed r c1 c2).engine.requests = s.engine.requests ∧
    (s.outcomesWritten o a failed r c1 c2).watch.records = s.watch.records ∧
    (s.outcomesWritten o a failed r c1 c2).watch.params = s.watch.params ∧
    (s.outcomesWritten o a failed r c1 c2).watch.heldTunes = s.watch.heldTunes ∧
    (s.outcomesWritten o a failed r c1 c2).swapAnswers = s.swapAnswers ∧
    (s.outcomesWritten o a failed r c1 c2).status.marks = s.status.marks := by
  unfold State.outcomesWritten
  (repeat' split) <;> simp

@[simp] theorem State.withdraw_kept (o : EngineOrder) :
    (s.withdraw o).1.control = s.control ∧ (s.withdraw o).1.units = s.units ∧ (s.withdraw o).1.bins = s.bins ∧
    (s.withdraw o).1.lines = s.lines ∧ (s.withdraw o).1.spares = s.spares ∧ (s.withdraw o).1.coupling = s.coupling ∧
    (s.withdraw o).1.params = s.params ∧ (s.withdraw o).1.cache = s.cache ∧
    (s.withdraw o).1.engine.requests = s.engine.requests ∧ (s.withdraw o).1.watch.records = s.watch.records ∧
    (s.withdraw o).1.watch.params = s.watch.params ∧ (s.withdraw o).1.watch.heldTunes = s.watch.heldTunes ∧
    (s.withdraw o).1.swapAnswers = s.swapAnswers := by
  unfold State.withdraw
  simp

@[simp] theorem State.endFor_kept (o : EngineOrder) (r : ResultCode) :
    (s.endFor o r).control = s.control ∧ (s.endFor o r).units = s.units ∧ (s.endFor o r).bins = s.bins ∧
    (s.endFor o r).lines = s.lines ∧ (s.endFor o r).spares = s.spares ∧ (s.endFor o r).coupling = s.coupling ∧
    (s.endFor o r).params = s.params ∧ (s.endFor o r).cache = s.cache ∧
    (s.endFor o r).engine.requests = s.engine.requests ∧ (s.endFor o r).watch.records = s.watch.records ∧
    (s.endFor o r).watch.params = s.watch.params ∧ (s.endFor o r).watch.heldTunes = s.watch.heldTunes ∧
    (s.endFor o r).swapAnswers = s.swapAnswers := by
  unfold State.endFor
  (repeat' split) <;> simp

@[simp] theorem State.endItems_kept (o : EngineOrder) (good : ItemOutcome) :
    (s.endItems o good).control = s.control ∧ (s.endItems o good).units = s.units ∧ (s.endItems o good).air = s.air ∧
    (s.endItems o good).bins = s.bins ∧ (s.endItems o good).lines = s.lines ∧ (s.endItems o good).spares = s.spares ∧
    (s.endItems o good).coupling = s.coupling ∧ (s.endItems o good).params = s.params ∧
    (s.endItems o good).cache = s.cache ∧ (s.endItems o good).engine.requests = s.engine.requests ∧
    (s.endItems o good).watch.records = s.watch.records ∧ (s.endItems o good).watch.params = s.watch.params ∧
    (s.endItems o good).watch.heldTunes = s.watch.heldTunes ∧ (s.endItems o good).swapAnswers = s.swapAnswers ∧
    (s.endItems o good).status.marks = s.status.marks := by
  unfold State.endItems
  simp

@[simp] theorem State.endCheck_kept (o : EngineOrder) :
    (s.endCheck o).control = s.control ∧ (s.endCheck o).units = s.units ∧ (s.endCheck o).air = s.air ∧
    (s.endCheck o).bins = s.bins ∧ (s.endCheck o).lines = s.lines ∧ (s.endCheck o).spares = s.spares ∧
    (s.endCheck o).coupling = s.coupling ∧ (s.endCheck o).params = s.params ∧ (s.endCheck o).cache = s.cache ∧
    (s.endCheck o).engine.requests = s.engine.requests ∧ (s.endCheck o).watch.records = s.watch.records ∧
    (s.endCheck o).watch.params = s.watch.params ∧ (s.endCheck o).watch.heldTunes = s.watch.heldTunes ∧
    (s.endCheck o).swapAnswers = s.swapAnswers ∧
    (s.endCheck o).status.marks = s.status.marks := by
  unfold State.endCheck
  simp

@[simp] theorem State.endCommit_kept (o : EngineOrder) :
    (s.endCommit o).control = s.control ∧ (s.endCommit o).units = s.units ∧ (s.endCommit o).air = s.air ∧
    (s.endCommit o).bins = s.bins ∧ (s.endCommit o).lines = s.lines ∧ (s.endCommit o).spares = s.spares ∧
    (s.endCommit o).coupling = s.coupling ∧ (s.endCommit o).params = s.params ∧ (s.endCommit o).cache = s.cache ∧
    (s.endCommit o).engine.requests = s.engine.requests ∧ (s.endCommit o).watch.records = s.watch.records ∧
    (s.endCommit o).watch.params = s.watch.params ∧ (s.endCommit o).watch.heldTunes = s.watch.heldTunes ∧
    (s.endCommit o).swapAnswers = s.swapAnswers ∧
    (s.endCommit o).status.marks = s.status.marks := by
  unfold State.endCommit
  (repeat' split) <;> simp

@[simp] theorem State.stepEnds_kept (o : EngineOrder) (k : StepKind) :
    (s.stepEnds o k).control = s.control ∧ (s.stepEnds o k).units = s.units ∧ (s.stepEnds o k).air = s.air ∧
    (s.stepEnds o k).bins = s.bins ∧ (s.stepEnds o k).lines = s.lines ∧ (s.stepEnds o k).spares = s.spares ∧
    (s.stepEnds o k).coupling = s.coupling ∧ (s.stepEnds o k).params = s.params ∧ (s.stepEnds o k).cache = s.cache ∧
    (s.stepEnds o k).engine.requests = s.engine.requests ∧ (s.stepEnds o k).watch.records = s.watch.records ∧
    (s.stepEnds o k).watch.params = s.watch.params ∧ (s.stepEnds o k).watch.heldTunes = s.watch.heldTunes ∧
    (s.stepEnds o k).swapAnswers = s.swapAnswers ∧
    (s.stepEnds o k).status.marks = s.status.marks := by
  unfold State.stepEnds
  simp

@[simp] theorem State.beginLookup_kept (o : EngineOrder) (id : Nat) :
    (s.beginLookup o id).control = s.control ∧ (s.beginLookup o id).units = s.units ∧
    (s.beginLookup o id).air = s.air ∧ (s.beginLookup o id).bins = s.bins ∧ (s.beginLookup o id).lines = s.lines ∧
    (s.beginLookup o id).spares = s.spares ∧ (s.beginLookup o id).coupling = s.coupling ∧
    (s.beginLookup o id).params = s.params ∧ (s.beginLookup o id).cache = s.cache ∧
    (s.beginLookup o id).engine.requests = s.engine.requests ∧ (s.beginLookup o id).watch.records = s.watch.records ∧
    (s.beginLookup o id).watch.params = s.watch.params ∧ (s.beginLookup o id).watch.heldTunes = s.watch.heldTunes ∧
    (s.beginLookup o id).swapAnswers = s.swapAnswers ∧
    (s.beginLookup o id).status.marks = s.status.marks := by
  unfold State.beginLookup
  simp

@[simp] theorem State.lookupFault_kept (o : EngineOrder) :
    (s.lookupFault o).control = s.control ∧ (s.lookupFault o).units = s.units ∧ (s.lookupFault o).air = s.air ∧
    (s.lookupFault o).bins = s.bins ∧ (s.lookupFault o).lines = s.lines ∧ (s.lookupFault o).spares = s.spares ∧
    (s.lookupFault o).coupling = s.coupling ∧ (s.lookupFault o).params = s.params ∧
    (s.lookupFault o).cache = s.cache ∧ (s.lookupFault o).engine.requests = s.engine.requests ∧
    (s.lookupFault o).watch.records = s.watch.records ∧ (s.lookupFault o).watch.params = s.watch.params ∧
    (s.lookupFault o).watch.heldTunes = s.watch.heldTunes ∧ (s.lookupFault o).swapAnswers = s.swapAnswers ∧
    (s.lookupFault o).status.marks = s.status.marks := by
  unfold State.lookupFault
  simp

@[simp] theorem State.joinItem_kept (o : EngineOrder) (id : Nat) :
    (s.joinItem o id).control = s.control ∧ (s.joinItem o id).units = s.units ∧ (s.joinItem o id).air = s.air ∧
    (s.joinItem o id).bins = s.bins ∧ (s.joinItem o id).lines = s.lines ∧ (s.joinItem o id).spares = s.spares ∧
    (s.joinItem o id).coupling = s.coupling ∧ (s.joinItem o id).params = s.params ∧
    (s.joinItem o id).cache = s.cache ∧ (s.joinItem o id).engine.requests = s.engine.requests ∧
    (s.joinItem o id).watch.records = s.watch.records ∧ (s.joinItem o id).watch.params = s.watch.params ∧
    (s.joinItem o id).watch.heldTunes = s.watch.heldTunes ∧ (s.joinItem o id).swapAnswers = s.swapAnswers ∧
    (s.joinItem o id).status.marks = s.status.marks := by
  unfold State.joinItem
  simp

@[simp] theorem State.joinKept_kept (o : EngineOrder) (id : Nat) (i : CarrierInfo) :
    (s.joinKept o id i).control = s.control ∧ (s.joinKept o id i).units = s.units ∧
    (s.joinKept o id i).bins = s.bins ∧ (s.joinKept o id i).lines = s.lines ∧ (s.joinKept o id i).spares = s.spares ∧
    (s.joinKept o id i).coupling = s.coupling ∧ (s.joinKept o id i).params = s.params ∧
    (s.joinKept o id i).cache = s.cache ∧ (s.joinKept o id i).engine.requests = s.engine.requests ∧
    (s.joinKept o id i).watch.params = s.watch.params ∧ (s.joinKept o id i).watch.heldTunes = s.watch.heldTunes := by
  unfold State.joinKept
  dsimp only
  split <;> simp

@[simp] theorem State.joinLooked_kept (o : EngineOrder) (id : Nat) (a : LookupAnswer) :
    (s.joinLooked o id a).control = s.control ∧ (s.joinLooked o id a).units = s.units ∧
    (s.joinLooked o id a).bins = s.bins ∧ (s.joinLooked o id a).lines = s.lines ∧
    (s.joinLooked o id a).spares = s.spares ∧ (s.joinLooked o id a).coupling = s.coupling ∧
    (s.joinLooked o id a).params = s.params ∧ (s.joinLooked o id a).cache = s.cache ∧
    (s.joinLooked o id a).engine.requests = s.engine.requests ∧ (s.joinLooked o id a).watch.params = s.watch.params ∧
    (s.joinLooked o id a).watch.heldTunes = s.watch.heldTunes := by
  unfold State.joinLooked
  (repeat' split) <;> simp

@[simp] theorem State.joinVerify_kept (o : EngineOrder) (j : Joiner) :
    (s.joinVerify o j).control = s.control ∧ (s.joinVerify o j).units = s.units ∧ (s.joinVerify o j).bins = s.bins ∧
    (s.joinVerify o j).lines = s.lines ∧ (s.joinVerify o j).spares = s.spares ∧
    (s.joinVerify o j).coupling = s.coupling ∧ (s.joinVerify o j).params = s.params ∧
    (s.joinVerify o j).cache = s.cache ∧ (s.joinVerify o j).engine.requests = s.engine.requests ∧
    (s.joinVerify o j).watch.params = s.watch.params ∧ (s.joinVerify o j).watch.heldTunes = s.watch.heldTunes := by
  unfold State.joinVerify State.withBins
  (repeat' split) <;> simp

@[simp] theorem State.leaveItem_kept (o : EngineOrder) (id : Nat) :
    (s.leaveItem o id).control = s.control ∧ (s.leaveItem o id).units = s.units ∧ (s.leaveItem o id).bins = s.bins ∧
    (s.leaveItem o id).lines = s.lines ∧ (s.leaveItem o id).spares = s.spares ∧
    (s.leaveItem o id).coupling = s.coupling ∧ (s.leaveItem o id).params = s.params ∧
    (s.leaveItem o id).cache = s.cache ∧ (s.leaveItem o id).watch.params = s.watch.params := by
  unfold State.leaveItem
  (repeat' split) <;> simp

@[simp] theorem State.examineStep_kept (o : EngineOrder) (j : Joiner) :
    (s.examineStep o j).control = s.control ∧ (s.examineStep o j).units = s.units ∧ (s.examineStep o j).air = s.air ∧
    (s.examineStep o j).bins = s.bins ∧ (s.examineStep o j).lines = s.lines ∧ (s.examineStep o j).spares = s.spares ∧
    (s.examineStep o j).coupling = s.coupling ∧ (s.examineStep o j).params = s.params ∧
    (s.examineStep o j).cache = s.cache ∧ (s.examineStep o j).engine.requests = s.engine.requests ∧
    (s.examineStep o j).watch.records = s.watch.records ∧ (s.examineStep o j).watch.params = s.watch.params ∧
    (s.examineStep o j).watch.heldTunes = s.watch.heldTunes ∧ (s.examineStep o j).swapAnswers = s.swapAnswers ∧
    (s.examineStep o j).status.marks = s.status.marks := by
  unfold State.examineStep State.withBins
  dsimp only
  (repeat' split) <;> simp

@[simp] theorem State.joinerRefused_kept (o : EngineOrder) (id : Nat) (out : ItemOutcome) (closing : Bool) :
    (s.joinerRefused o id out closing).control = s.control ∧ (s.joinerRefused o id out closing).units = s.units ∧
    (s.joinerRefused o id out closing).bins = s.bins ∧ (s.joinerRefused o id out closing).lines = s.lines ∧
    (s.joinerRefused o id out closing).spares = s.spares ∧ (s.joinerRefused o id out closing).coupling = s.coupling ∧
    (s.joinerRefused o id out closing).params = s.params ∧ (s.joinerRefused o id out closing).cache = s.cache ∧
    (s.joinerRefused o id out closing).engine.requests = s.engine.requests ∧
    (s.joinerRefused o id out closing).watch.records = s.watch.records ∧
    (s.joinerRefused o id out closing).watch.params = s.watch.params ∧
    (s.joinerRefused o id out closing).watch.heldTunes = s.watch.heldTunes ∧
    (s.joinerRefused o id out closing).swapAnswers = s.swapAnswers := by
  unfold State.joinerRefused
  simp

@[simp] theorem State.placeItem_kept (o : EngineOrder) (id : Nat) :
    (s.placeItem o id).control = s.control ∧ (s.placeItem o id).units = s.units ∧ (s.placeItem o id).bins = s.bins ∧
    (s.placeItem o id).lines = s.lines ∧ (s.placeItem o id).spares = s.spares ∧
    (s.placeItem o id).coupling = s.coupling ∧ (s.placeItem o id).params = s.params ∧
    (s.placeItem o id).cache = s.cache ∧ (s.placeItem o id).engine.requests = s.engine.requests ∧
    (s.placeItem o id).watch.records = s.watch.records ∧ (s.placeItem o id).watch.params = s.watch.params ∧
    (s.placeItem o id).watch.heldTunes = s.watch.heldTunes ∧ (s.placeItem o id).swapAnswers = s.swapAnswers := by
  unfold State.placeItem
  simp

@[simp] theorem State.placeFound_kept (o : EngineOrder) (id : Nat) (i : CarrierInfo) :
    (s.placeFound o id i).control = s.control ∧ (s.placeFound o id i).units = s.units ∧
    (s.placeFound o id i).bins = s.bins ∧ (s.placeFound o id i).lines = s.lines ∧
    (s.placeFound o id i).spares = s.spares ∧ (s.placeFound o id i).coupling = s.coupling ∧
    (s.placeFound o id i).params = s.params ∧ (s.placeFound o id i).cache = s.cache ∧
    (s.placeFound o id i).engine.requests = s.engine.requests ∧
    (s.placeFound o id i).watch.records = s.watch.records ∧ (s.placeFound o id i).watch.params = s.watch.params ∧
    (s.placeFound o id i).watch.heldTunes = s.watch.heldTunes ∧
    (s.placeFound o id i).swapAnswers = s.swapAnswers := by
  unfold State.placeFound
  (repeat' split) <;> simp

@[simp] theorem State.placeLooked_kept (o : EngineOrder) (id : Nat) (a : LookupAnswer) :
    (s.placeLooked o id a).control = s.control ∧ (s.placeLooked o id a).units = s.units ∧
    (s.placeLooked o id a).bins = s.bins ∧ (s.placeLooked o id a).lines = s.lines ∧
    (s.placeLooked o id a).spares = s.spares ∧ (s.placeLooked o id a).coupling = s.coupling ∧
    (s.placeLooked o id a).params = s.params ∧ (s.placeLooked o id a).cache = s.cache ∧
    (s.placeLooked o id a).engine.requests = s.engine.requests ∧
    (s.placeLooked o id a).watch.records = s.watch.records ∧ (s.placeLooked o id a).watch.params = s.watch.params ∧
    (s.placeLooked o id a).watch.heldTunes = s.watch.heldTunes ∧
    (s.placeLooked o id a).swapAnswers = s.swapAnswers := by
  unfold State.placeLooked
  (repeat' split) <;> simp

@[simp] theorem State.placeStep_kept (o : EngineOrder) :
    (s.placeStep o).control = s.control ∧ (s.placeStep o).units = s.units ∧ (s.placeStep o).bins = s.bins ∧
    (s.placeStep o).lines = s.lines ∧ (s.placeStep o).spares = s.spares ∧ (s.placeStep o).coupling = s.coupling ∧
    (s.placeStep o).params = s.params ∧ (s.placeStep o).cache = s.cache ∧
    (s.placeStep o).engine.requests = s.engine.requests ∧ (s.placeStep o).watch.records = s.watch.records ∧
    (s.placeStep o).watch.params = s.watch.params ∧ (s.placeStep o).watch.heldTunes = s.watch.heldTunes ∧
    (s.placeStep o).swapAnswers = s.swapAnswers := by
  unfold State.placeStep
  (repeat' split) <;> simp

@[simp] theorem State.retuneFails_kept (o : EngineOrder) (out : ItemOutcome) (r : ResultCode) (examined : Nat) :
    (s.retuneFails o out r examined).control = s.control ∧ (s.retuneFails o out r examined).units = s.units ∧
    (s.retuneFails o out r examined).air = s.air ∧ (s.retuneFails o out r examined).bins = s.bins ∧
    (s.retuneFails o out r examined).lines = s.lines ∧ (s.retuneFails o out r examined).spares = s.spares ∧
    (s.retuneFails o out r examined).coupling = s.coupling ∧ (s.retuneFails o out r examined).params = s.params ∧
    (s.retuneFails o out r examined).cache = s.cache ∧
    (s.retuneFails o out r examined).engine.requests = s.engine.requests ∧
    (s.retuneFails o out r examined).watch.records = s.watch.records ∧
    (s.retuneFails o out r examined).watch.params = s.watch.params ∧
    (s.retuneFails o out r examined).watch.heldTunes = s.watch.heldTunes ∧
    (s.retuneFails o out r examined).swapAnswers = s.swapAnswers ∧
    (s.retuneFails o out r examined).status.marks = s.status.marks := by
  unfold State.retuneFails
  simp

@[simp] theorem State.beginRetune_kept (o : EngineOrder) :
    (s.beginRetune o).control = s.control ∧ (s.beginRetune o).units = s.units ∧ (s.beginRetune o).air = s.air ∧
    (s.beginRetune o).bins = s.bins ∧ (s.beginRetune o).lines = s.lines ∧ (s.beginRetune o).spares = s.spares ∧
    (s.beginRetune o).coupling = s.coupling ∧ (s.beginRetune o).params = s.params ∧
    (s.beginRetune o).cache = s.cache ∧ (s.beginRetune o).engine.requests = s.engine.requests ∧
    (s.beginRetune o).watch.records = s.watch.records ∧ (s.beginRetune o).watch.params = s.watch.params ∧
    (s.beginRetune o).watch.heldTunes = s.watch.heldTunes ∧ (s.beginRetune o).swapAnswers = s.swapAnswers ∧
    (s.beginRetune o).status.marks = s.status.marks := by
  unfold State.beginRetune
  dsimp only
  (repeat' split) <;> simp

@[simp] theorem State.retuneLooked_kept (o : EngineOrder) (id : Nat) (a : LookupAnswer) :
    (s.retuneLooked o id a).control = s.control ∧ (s.retuneLooked o id a).units = s.units ∧
    (s.retuneLooked o id a).air = s.air ∧ (s.retuneLooked o id a).bins = s.bins ∧
    (s.retuneLooked o id a).lines = s.lines ∧ (s.retuneLooked o id a).spares = s.spares ∧
    (s.retuneLooked o id a).coupling = s.coupling ∧ (s.retuneLooked o id a).params = s.params ∧
    (s.retuneLooked o id a).cache = s.cache ∧ (s.retuneLooked o id a).engine.requests = s.engine.requests ∧
    (s.retuneLooked o id a).watch.records = s.watch.records ∧ (s.retuneLooked o id a).watch.params = s.watch.params ∧
    (s.retuneLooked o id a).watch.heldTunes = s.watch.heldTunes ∧
    (s.retuneLooked o id a).swapAnswers = s.swapAnswers ∧
    (s.retuneLooked o id a).status.marks = s.status.marks := by
  unfold State.retuneLooked
  (repeat' split) <;> simp

@[simp] theorem State.lookedUp_kept (o : EngineOrder) (id : Nat) (a : LookupAnswer) :
    (s.lookedUp o id a).control = s.control ∧ (s.lookedUp o id a).units = s.units ∧
    (s.lookedUp o id a).bins = s.bins ∧ (s.lookedUp o id a).lines = s.lines ∧ (s.lookedUp o id a).spares = s.spares ∧
    (s.lookedUp o id a).coupling = s.coupling ∧ (s.lookedUp o id a).params = s.params ∧
    (s.lookedUp o id a).cache = s.cache ∧ (s.lookedUp o id a).engine.requests = s.engine.requests ∧
    (s.lookedUp o id a).watch.params = s.watch.params ∧ (s.lookedUp o id a).watch.heldTunes = s.watch.heldTunes := by
  unfold State.lookedUp
  (repeat' split) <;> simp

@[simp] theorem State.writeConflict_kept (o : EngineOrder) (rec : List Byte) :
    (s.writeConflict o rec).control = s.control ∧ (s.writeConflict o rec).units = s.units ∧
    (s.writeConflict o rec).air = s.air ∧ (s.writeConflict o rec).bins = s.bins ∧
    (s.writeConflict o rec).lines = s.lines ∧ (s.writeConflict o rec).spares = s.spares ∧
    (s.writeConflict o rec).coupling = s.coupling ∧ (s.writeConflict o rec).params = s.params ∧
    (s.writeConflict o rec).cache = s.cache ∧ (s.writeConflict o rec).engine.requests = s.engine.requests ∧
    (s.writeConflict o rec).watch.records = s.watch.records ∧ (s.writeConflict o rec).watch.params = s.watch.params ∧
    (s.writeConflict o rec).watch.heldTunes = s.watch.heldTunes ∧
    (s.writeConflict o rec).swapAnswers = s.swapAnswers ∧
    (s.writeConflict o rec).status.marks = s.status.marks := by
  unfold State.writeConflict
  simp

@[simp] theorem State.checkStep_kept (o : EngineOrder) (k : StepKind) (l : List Conflict) :
    (s.checkStep o k l).control = s.control ∧ (s.checkStep o k l).units = s.units ∧ (s.checkStep o k l).air = s.air ∧
    (s.checkStep o k l).bins = s.bins ∧ (s.checkStep o k l).lines = s.lines ∧ (s.checkStep o k l).spares = s.spares ∧
    (s.checkStep o k l).coupling = s.coupling ∧ (s.checkStep o k l).params = s.params ∧
    (s.checkStep o k l).cache = s.cache ∧ (s.checkStep o k l).engine.requests = s.engine.requests ∧
    (s.checkStep o k l).watch.records = s.watch.records ∧ (s.checkStep o k l).watch.params = s.watch.params ∧
    (s.checkStep o k l).watch.heldTunes = s.watch.heldTunes ∧ (s.checkStep o k l).swapAnswers = s.swapAnswers ∧
    (s.checkStep o k l).status.marks = s.status.marks := by
  unfold State.checkStep
  (repeat' split) <;> simp

@[simp] theorem State.conflictWritten_kept (o : EngineOrder) (left : List (List Byte)) (a : Answer) :
    (s.conflictWritten o left a).control = s.control ∧ (s.conflictWritten o left a).units = s.units ∧
    (s.conflictWritten o left a).air = s.air ∧ (s.conflictWritten o left a).bins = s.bins ∧
    (s.conflictWritten o left a).lines = s.lines ∧ (s.conflictWritten o left a).spares = s.spares ∧
    (s.conflictWritten o left a).coupling = s.coupling ∧ (s.conflictWritten o left a).params = s.params ∧
    (s.conflictWritten o left a).cache = s.cache ∧ (s.conflictWritten o left a).engine.requests = s.engine.requests ∧
    (s.conflictWritten o left a).watch.records = s.watch.records ∧
    (s.conflictWritten o left a).watch.params = s.watch.params ∧
    (s.conflictWritten o left a).watch.heldTunes = s.watch.heldTunes ∧
    (s.conflictWritten o left a).swapAnswers = s.swapAnswers ∧
    (s.conflictWritten o left a).status.marks = s.status.marks := by
  unfold State.conflictWritten
  (repeat' split) <;> simp

@[simp] theorem State.spareStep_kept (o : EngineOrder) :
    (s.spareStep o).control = s.control ∧ (s.spareStep o).units = s.units ∧ (s.spareStep o).air = s.air ∧
    (s.spareStep o).bins = s.bins ∧ (s.spareStep o).lines = s.lines ∧ (s.spareStep o).spares = s.spares ∧
    (s.spareStep o).coupling = s.coupling ∧ (s.spareStep o).params = s.params ∧ (s.spareStep o).cache = s.cache ∧
    (s.spareStep o).engine.requests = s.engine.requests ∧ (s.spareStep o).watch.records = s.watch.records ∧
    (s.spareStep o).watch.params = s.watch.params ∧ (s.spareStep o).watch.heldTunes = s.watch.heldTunes ∧
    (s.spareStep o).swapAnswers = s.swapAnswers ∧
    (s.spareStep o).status.marks = s.status.marks := by
  unfold State.spareStep State.withBins
  dsimp only
  (repeat' split) <;> simp

@[simp] theorem State.victimStep_kept (o : EngineOrder) :
    (s.victimStep o).control = s.control ∧ (s.victimStep o).units = s.units ∧ (s.victimStep o).air = s.air ∧
    (s.victimStep o).bins = s.bins ∧ (s.victimStep o).lines = s.lines ∧ (s.victimStep o).spares = s.spares ∧
    (s.victimStep o).coupling = s.coupling ∧ (s.victimStep o).params = s.params ∧ (s.victimStep o).cache = s.cache ∧
    (s.victimStep o).engine.requests = s.engine.requests ∧ (s.victimStep o).watch.records = s.watch.records ∧
    (s.victimStep o).watch.params = s.watch.params ∧ (s.victimStep o).watch.heldTunes = s.watch.heldTunes ∧
    (s.victimStep o).swapAnswers = s.swapAnswers ∧
    (s.victimStep o).status.marks = s.status.marks := by
  unfold State.victimStep State.withBins
  dsimp only
  (repeat' split) <;> simp

@[simp] theorem State.beginCommit_kept (o : EngineOrder) :
    (s.beginCommit o).control = s.control ∧ (s.beginCommit o).units = s.units ∧ (s.beginCommit o).bins = s.bins ∧
    (s.beginCommit o).lines = s.lines ∧ (s.beginCommit o).spares = s.spares ∧
    (s.beginCommit o).coupling = s.coupling ∧ (s.beginCommit o).params = s.params ∧
    (s.beginCommit o).cache = s.cache ∧ (s.beginCommit o).engine.requests = s.engine.requests ∧
    (s.beginCommit o).watch.params = s.watch.params ∧ (s.beginCommit o).watch.heldTunes = s.watch.heldTunes := by
  unfold State.beginCommit
  simp

@[simp] theorem State.commitRetune_kept (o : EngineOrder) (j : Joiner) :
    (s.commitRetune o j).control = s.control ∧ (s.commitRetune o j).units = s.units ∧
    (s.commitRetune o j).bins = s.bins ∧ (s.commitRetune o j).lines = s.lines ∧
    (s.commitRetune o j).spares = s.spares ∧ (s.commitRetune o j).coupling = s.coupling ∧
    (s.commitRetune o j).params = s.params ∧ (s.commitRetune o j).cache = s.cache ∧
    (s.commitRetune o j).watch.params = s.watch.params := by
  unfold State.commitRetune
  simp

@[simp] theorem State.commitNext_kept (o : EngineOrder) (left : List Nat) :
    (s.commitNext o left).control = s.control ∧ (s.commitNext o left).units = s.units ∧
    (s.commitNext o left).air = s.air ∧ (s.commitNext o left).bins = s.bins ∧ (s.commitNext o left).lines = s.lines ∧
    (s.commitNext o left).spares = s.spares ∧ (s.commitNext o left).coupling = s.coupling ∧
    (s.commitNext o left).params = s.params ∧ (s.commitNext o left).cache = s.cache ∧
    (s.commitNext o left).engine.requests = s.engine.requests ∧
    (s.commitNext o left).watch.records = s.watch.records ∧ (s.commitNext o left).watch.params = s.watch.params ∧
    (s.commitNext o left).watch.heldTunes = s.watch.heldTunes ∧
    (s.commitNext o left).swapAnswers = s.swapAnswers ∧
    (s.commitNext o left).status.marks = s.status.marks := by
  unfold State.commitNext
  (repeat' split) <;> simp

@[simp] theorem State.commitWritten_kept (o : EngineOrder) (left : List Nat) (a : WriteBackAnswer) :
    (s.commitWritten o left a).control = s.control ∧ (s.commitWritten o left a).units = s.units ∧
    (s.commitWritten o left a).air = s.air ∧ (s.commitWritten o left a).bins = s.bins ∧
    (s.commitWritten o left a).lines = s.lines ∧ (s.commitWritten o left a).spares = s.spares ∧
    (s.commitWritten o left a).coupling = s.coupling ∧ (s.commitWritten o left a).params = s.params ∧
    (s.commitWritten o left a).cache = s.cache ∧ (s.commitWritten o left a).engine.requests = s.engine.requests ∧
    (s.commitWritten o left a).watch.records = s.watch.records ∧
    (s.commitWritten o left a).watch.params = s.watch.params ∧
    (s.commitWritten o left a).watch.heldTunes = s.watch.heldTunes ∧
    (s.commitWritten o left a).swapAnswers = s.swapAnswers ∧
    (s.commitWritten o left a).status.marks = s.status.marks := by
  unfold State.commitWritten
  simp

@[simp] theorem State.tunesSent_kept (o : EngineOrder) :
    (s.tunesSent o).control = s.control ∧ (s.tunesSent o).units = s.units ∧ (s.tunesSent o).air = s.air ∧
    (s.tunesSent o).bins = s.bins ∧ (s.tunesSent o).lines = s.lines ∧ (s.tunesSent o).spares = s.spares ∧
    (s.tunesSent o).coupling = s.coupling ∧ (s.tunesSent o).params = s.params ∧ (s.tunesSent o).cache = s.cache ∧
    (s.tunesSent o).engine.requests = s.engine.requests ∧ (s.tunesSent o).watch.records = s.watch.records ∧
    (s.tunesSent o).watch.params = s.watch.params ∧ (s.tunesSent o).watch.heldTunes = s.watch.heldTunes ∧
    (s.tunesSent o).swapAnswers = s.swapAnswers ∧
    (s.tunesSent o).status.marks = s.status.marks := by
  unfold State.tunesSent
  simp

@[simp] theorem State.tuneNext_kept (o : EngineOrder) (left : List Nat) :
    (s.tuneNext o left).control = s.control ∧ (s.tuneNext o left).units = s.units ∧ (s.tuneNext o left).air = s.air ∧
    (s.tuneNext o left).bins = s.bins ∧ (s.tuneNext o left).spares = s.spares ∧
    (s.tuneNext o left).coupling = s.coupling ∧ (s.tuneNext o left).params = s.params ∧
    (s.tuneNext o left).cache = s.cache ∧ (s.tuneNext o left).engine.requests = s.engine.requests ∧
    (s.tuneNext o left).watch.records = s.watch.records ∧ (s.tuneNext o left).watch.params = s.watch.params ∧
    (s.tuneNext o left).watch.heldTunes = s.watch.heldTunes ∧ (s.tuneNext o left).swapAnswers = s.swapAnswers ∧
    (s.tuneNext o left).status.marks = s.status.marks := by
  unfold State.tuneNext
  split
  · simp
  · split
    · simp
    · split
      · have := State.offer_some s ‹_›; simp [this]
      · simp

@[simp] theorem State.goOn_kept (o : EngineOrder) (m : NextMove) :
    (s.goOn o m).control = s.control ∧ (s.goOn o m).units = s.units ∧ (s.goOn o m).bins = s.bins ∧
    (s.goOn o m).lines = s.lines ∧ (s.goOn o m).spares = s.spares ∧ (s.goOn o m).coupling = s.coupling ∧
    (s.goOn o m).params = s.params ∧ (s.goOn o m).cache = s.cache ∧ (s.goOn o m).watch.params = s.watch.params := by
  unfold State.goOn
  (repeat' split) <;> simp

@[simp] theorem State.boundaryStop_kept (o : EngineOrder) :
    (s.boundaryStop o).control = s.control ∧ (s.boundaryStop o).units = s.units ∧ (s.boundaryStop o).air = s.air ∧
    (s.boundaryStop o).bins = s.bins ∧ (s.boundaryStop o).lines = s.lines ∧ (s.boundaryStop o).spares = s.spares ∧
    (s.boundaryStop o).coupling = s.coupling ∧ (s.boundaryStop o).params = s.params ∧
    (s.boundaryStop o).cache = s.cache ∧ (s.boundaryStop o).engine.requests = s.engine.requests ∧
    (s.boundaryStop o).watch.records = s.watch.records ∧ (s.boundaryStop o).watch.params = s.watch.params ∧
    (s.boundaryStop o).watch.heldTunes = s.watch.heldTunes ∧ (s.boundaryStop o).swapAnswers = s.swapAnswers ∧
    (s.boundaryStop o).status.marks = s.status.marks := by
  unfold State.boundaryStop
  simp

@[simp] theorem State.stopRead_kept (o : EngineOrder) (a : Answer) :
    (s.stopRead o a).control = s.control ∧ (s.stopRead o a).units = s.units ∧ (s.stopRead o a).air = s.air ∧
    (s.stopRead o a).bins = s.bins ∧ (s.stopRead o a).lines = s.lines ∧ (s.stopRead o a).spares = s.spares ∧
    (s.stopRead o a).coupling = s.coupling ∧ (s.stopRead o a).params = s.params ∧ (s.stopRead o a).cache = s.cache ∧
    (s.stopRead o a).engine.requests = s.engine.requests ∧ (s.stopRead o a).watch.records = s.watch.records ∧
    (s.stopRead o a).watch.params = s.watch.params ∧ (s.stopRead o a).watch.heldTunes = s.watch.heldTunes ∧
    (s.stopRead o a).swapAnswers = s.swapAnswers ∧
    (s.stopRead o a).status.marks = s.status.marks := by
  unfold State.stopRead
  simp

@[simp] theorem State.decideBoundary_kept (o : EngineOrder) :
    (s.decideBoundary o).control = s.control ∧ (s.decideBoundary o).units = s.units ∧
    (s.decideBoundary o).bins = s.bins ∧ (s.decideBoundary o).lines = s.lines ∧
    (s.decideBoundary o).spares = s.spares ∧ (s.decideBoundary o).coupling = s.coupling ∧
    (s.decideBoundary o).params = s.params ∧ (s.decideBoundary o).cache = s.cache ∧
    (s.decideBoundary o).watch.params = s.watch.params := by
  unfold State.decideBoundary
  simp

@[simp] theorem State.setParams_kept (o : EngineOrder) :
    (s.setParams o).control = s.control ∧ (s.setParams o).units = s.units ∧ (s.setParams o).air = s.air ∧
    (s.setParams o).bins = s.bins ∧ (s.setParams o).lines = s.lines ∧ (s.setParams o).spares = s.spares ∧
    (s.setParams o).coupling = s.coupling ∧ (s.setParams o).cache = s.cache ∧
    (s.setParams o).engine.requests = s.engine.requests ∧ (s.setParams o).watch.records = s.watch.records ∧
    (s.setParams o).watch.params = s.watch.params ∧ (s.setParams o).watch.heldTunes = s.watch.heldTunes ∧
    (s.setParams o).swapAnswers = s.swapAnswers ∧
    (s.setParams o).status.marks = s.status.marks := by
  unfold State.setParams
  simp

@[simp] theorem State.loadCoupling_kept (o : EngineOrder) (bs : List Byte) :
    (s.loadCoupling o bs).control = s.control ∧ (s.loadCoupling o bs).units = s.units ∧
    (s.loadCoupling o bs).air = s.air ∧ (s.loadCoupling o bs).bins = s.bins ∧ (s.loadCoupling o bs).lines = s.lines ∧
    (s.loadCoupling o bs).spares = s.spares ∧ (s.loadCoupling o bs).params = s.params ∧
    (s.loadCoupling o bs).cache = s.cache ∧ (s.loadCoupling o bs).engine.requests = s.engine.requests ∧
    (s.loadCoupling o bs).watch.records = s.watch.records ∧ (s.loadCoupling o bs).watch.params = s.watch.params ∧
    (s.loadCoupling o bs).watch.heldTunes = s.watch.heldTunes ∧
    (s.loadCoupling o bs).swapAnswers = s.swapAnswers ∧
    (s.loadCoupling o bs).status.marks = s.status.marks := by
  unfold State.loadCoupling
  simp

@[simp] theorem State.sparesLoad_kept (o : EngineOrder) (bs : List Byte) :
    (s.sparesLoad o bs).control = s.control ∧ (s.sparesLoad o bs).units = s.units ∧ (s.sparesLoad o bs).air = s.air ∧
    (s.sparesLoad o bs).bins = s.bins ∧ (s.sparesLoad o bs).lines = s.lines ∧
    (s.sparesLoad o bs).coupling = s.coupling ∧ (s.sparesLoad o bs).params = s.params ∧
    (s.sparesLoad o bs).cache = s.cache ∧ (s.sparesLoad o bs).engine.requests = s.engine.requests ∧
    (s.sparesLoad o bs).watch.records = s.watch.records ∧ (s.sparesLoad o bs).watch.params = s.watch.params ∧
    (s.sparesLoad o bs).watch.heldTunes = s.watch.heldTunes ∧ (s.sparesLoad o bs).swapAnswers = s.swapAnswers := by
  unfold State.sparesLoad
  simp

@[simp] theorem State.sparesRelease_kept (o : EngineOrder) :
    (s.sparesRelease o).control = s.control ∧ (s.sparesRelease o).units = s.units ∧ (s.sparesRelease o).air = s.air ∧
    (s.sparesRelease o).bins = s.bins ∧ (s.sparesRelease o).lines = s.lines ∧
    (s.sparesRelease o).coupling = s.coupling ∧ (s.sparesRelease o).params = s.params ∧
    (s.sparesRelease o).cache = s.cache ∧ (s.sparesRelease o).engine.requests = s.engine.requests ∧
    (s.sparesRelease o).watch.records = s.watch.records ∧ (s.sparesRelease o).watch.params = s.watch.params ∧
    (s.sparesRelease o).watch.heldTunes = s.watch.heldTunes ∧ (s.sparesRelease o).swapAnswers = s.swapAnswers := by
  unfold State.sparesRelease
  simp

@[simp] theorem State.flushCache_kept (o : EngineOrder) :
    (s.flushCache o).control = s.control ∧ (s.flushCache o).units = s.units ∧ (s.flushCache o).air = s.air ∧
    (s.flushCache o).bins = s.bins ∧ (s.flushCache o).lines = s.lines ∧ (s.flushCache o).spares = s.spares ∧
    (s.flushCache o).coupling = s.coupling ∧ (s.flushCache o).params = s.params ∧
    (s.flushCache o).engine.requests = s.engine.requests ∧ (s.flushCache o).watch.records = s.watch.records ∧
    (s.flushCache o).watch.params = s.watch.params ∧ (s.flushCache o).watch.heldTunes = s.watch.heldTunes ∧
    (s.flushCache o).swapAnswers = s.swapAnswers ∧
    (s.flushCache o).status.marks = s.status.marks := by
  unfold State.flushCache
  simp

@[simp] theorem State.readListA_kept (o : EngineOrder) :
    (s.readListA o).control = s.control ∧ (s.readListA o).units = s.units ∧ (s.readListA o).air = s.air ∧
    (s.readListA o).bins = s.bins ∧ (s.readListA o).lines = s.lines ∧ (s.readListA o).spares = s.spares ∧
    (s.readListA o).coupling = s.coupling ∧ (s.readListA o).params = s.params ∧ (s.readListA o).cache = s.cache ∧
    (s.readListA o).engine.requests = s.engine.requests ∧ (s.readListA o).watch.records = s.watch.records ∧
    (s.readListA o).watch.params = s.watch.params ∧ (s.readListA o).watch.heldTunes = s.watch.heldTunes ∧
    (s.readListA o).swapAnswers = s.swapAnswers ∧
    (s.readListA o).status.marks = s.status.marks := by
  unfold State.readListA
  simp

@[simp] theorem State.readListB_kept (o : EngineOrder) :
    (s.readListB o).control = s.control ∧ (s.readListB o).units = s.units ∧ (s.readListB o).air = s.air ∧
    (s.readListB o).bins = s.bins ∧ (s.readListB o).lines = s.lines ∧ (s.readListB o).spares = s.spares ∧
    (s.readListB o).coupling = s.coupling ∧ (s.readListB o).params = s.params ∧ (s.readListB o).cache = s.cache ∧
    (s.readListB o).engine.requests = s.engine.requests ∧ (s.readListB o).watch.records = s.watch.records ∧
    (s.readListB o).watch.params = s.watch.params ∧ (s.readListB o).watch.heldTunes = s.watch.heldTunes ∧
    (s.readListB o).swapAnswers = s.swapAnswers ∧
    (s.readListB o).status.marks = s.status.marks := by
  unfold State.readListB
  simp

@[simp] theorem State.beginOrder_kept (o : EngineOrder) :
    (s.beginOrder o).control = s.control ∧ (s.beginOrder o).units = s.units ∧ (s.beginOrder o).air = s.air ∧
    (s.beginOrder o).bins = s.bins ∧ (s.beginOrder o).lines = s.lines ∧ (s.beginOrder o).coupling = s.coupling ∧
    (s.beginOrder o).engine.requests = s.engine.requests ∧ (s.beginOrder o).watch.records = s.watch.records ∧
    (s.beginOrder o).watch.params = s.watch.params ∧ (s.beginOrder o).watch.heldTunes = s.watch.heldTunes ∧
    (s.beginOrder o).swapAnswers = s.swapAnswers := by
  unfold State.beginOrder
  (repeat' split) <;> simp

@[simp] theorem State.listFault_kept (o : EngineOrder) (aRead : Bool) :
    (s.listFault o aRead).control = s.control ∧ (s.listFault o aRead).units = s.units ∧
    (s.listFault o aRead).air = s.air ∧ (s.listFault o aRead).bins = s.bins ∧ (s.listFault o aRead).lines = s.lines ∧
    (s.listFault o aRead).spares = s.spares ∧ (s.listFault o aRead).coupling = s.coupling ∧
    (s.listFault o aRead).params = s.params ∧ (s.listFault o aRead).cache = s.cache ∧
    (s.listFault o aRead).engine.requests = s.engine.requests ∧
    (s.listFault o aRead).watch.records = s.watch.records ∧ (s.listFault o aRead).watch.params = s.watch.params ∧
    (s.listFault o aRead).watch.heldTunes = s.watch.heldTunes ∧
    (s.listFault o aRead).swapAnswers = s.swapAnswers ∧
    (s.listFault o aRead).status.marks = s.status.marks := by
  unfold State.listFault
  simp

@[simp] theorem State.listARead_kept (o : EngineOrder) (a : Answer) :
    (s.listARead o a).control = s.control ∧ (s.listARead o a).units = s.units ∧ (s.listARead o a).air = s.air ∧
    (s.listARead o a).bins = s.bins ∧ (s.listARead o a).lines = s.lines ∧ (s.listARead o a).params = s.params ∧
    (s.listARead o a).cache = s.cache ∧ (s.listARead o a).engine.requests = s.engine.requests ∧
    (s.listARead o a).watch.records = s.watch.records ∧ (s.listARead o a).watch.params = s.watch.params ∧
    (s.listARead o a).watch.heldTunes = s.watch.heldTunes ∧ (s.listARead o a).swapAnswers = s.swapAnswers := by
  unfold State.listARead
  (repeat' split) <;> simp

@[simp] theorem State.listBRead_kept (o : EngineOrder) (a : Answer) :
    (s.listBRead o a).control = s.control ∧ (s.listBRead o a).units = s.units ∧ (s.listBRead o a).air = s.air ∧
    (s.listBRead o a).bins = s.bins ∧ (s.listBRead o a).lines = s.lines ∧ (s.listBRead o a).spares = s.spares ∧
    (s.listBRead o a).coupling = s.coupling ∧ (s.listBRead o a).params = s.params ∧
    (s.listBRead o a).cache = s.cache ∧ (s.listBRead o a).engine.requests = s.engine.requests ∧
    (s.listBRead o a).watch.records = s.watch.records ∧ (s.listBRead o a).watch.params = s.watch.params ∧
    (s.listBRead o a).watch.heldTunes = s.watch.heldTunes ∧ (s.listBRead o a).swapAnswers = s.swapAnswers ∧
    (s.listBRead o a).status.marks = s.status.marks := by
  unfold State.listBRead
  (repeat' split) <;> simp

@[simp] theorem State.joinStep_kept (o : EngineOrder) :
    (s.joinStep o).control = s.control ∧ (s.joinStep o).units = s.units ∧ (s.joinStep o).bins = s.bins ∧
    (s.joinStep o).lines = s.lines ∧ (s.joinStep o).spares = s.spares ∧ (s.joinStep o).coupling = s.coupling ∧
    (s.joinStep o).params = s.params ∧ (s.joinStep o).cache = s.cache ∧
    (s.joinStep o).watch.params = s.watch.params := by
  unfold State.joinStep
  (repeat' split) <;> simp

@[simp] theorem State.leaveStep_kept (o : EngineOrder) :
    (s.leaveStep o).control = s.control ∧ (s.leaveStep o).units = s.units ∧ (s.leaveStep o).bins = s.bins ∧
    (s.leaveStep o).lines = s.lines ∧ (s.leaveStep o).spares = s.spares ∧ (s.leaveStep o).coupling = s.coupling ∧
    (s.leaveStep o).params = s.params ∧ (s.leaveStep o).cache = s.cache ∧
    (s.leaveStep o).watch.params = s.watch.params := by
  unfold State.leaveStep
  (repeat' split) <;> simp

@[simp] theorem State.beginStep_kept (o : EngineOrder) :
    (s.beginStep o).control = s.control ∧ (s.beginStep o).units = s.units ∧ (s.beginStep o).bins = s.bins ∧
    (s.beginStep o).lines = s.lines ∧ (s.beginStep o).spares = s.spares ∧ (s.beginStep o).coupling = s.coupling ∧
    (s.beginStep o).params = s.params ∧ (s.beginStep o).cache = s.cache ∧
    (s.beginStep o).watch.params = s.watch.params := by
  unfold State.beginStep
  (repeat' split) <;> simp

@[simp] theorem State.sweepEnds_kept (o : SweepOrder) (c : SweepCount) (failed : Bool) (r : ResultCode) :
    (s.sweepEnds o c failed r).control = s.control ∧ (s.sweepEnds o c failed r).air = s.air ∧
    (s.sweepEnds o c failed r).bins = s.bins ∧ (s.sweepEnds o c failed r).lines = s.lines ∧
    (s.sweepEnds o c failed r).spares = s.spares ∧ (s.sweepEnds o c failed r).coupling = s.coupling ∧
    (s.sweepEnds o c failed r).params = s.params ∧ (s.sweepEnds o c failed r).cache = s.cache ∧
    (s.sweepEnds o c failed r).engine.requests = s.engine.requests ∧
    (s.sweepEnds o c failed r).watch.records = s.watch.records ∧
    (s.sweepEnds o c failed r).watch.params = s.watch.params ∧
    (s.sweepEnds o c failed r).watch.heldTunes = s.watch.heldTunes ∧
    (s.sweepEnds o c failed r).swapAnswers = s.swapAnswers ∧
    (s.sweepEnds o c failed r).status.marks = s.status.marks := by
  unfold State.sweepEnds
  simp

@[simp] theorem State.beginPoint_kept (c : SweepCount) :
    (s.beginPoint c).control = s.control ∧ (s.beginPoint c).air = s.air ∧ (s.beginPoint c).bins = s.bins ∧
    (s.beginPoint c).lines = s.lines ∧ (s.beginPoint c).spares = s.spares ∧ (s.beginPoint c).coupling = s.coupling ∧
    (s.beginPoint c).params = s.params ∧ (s.beginPoint c).cache = s.cache ∧
    (s.beginPoint c).engine.requests = s.engine.requests ∧ (s.beginPoint c).watch.records = s.watch.records ∧
    (s.beginPoint c).watch.params = s.watch.params ∧ (s.beginPoint c).watch.heldTunes = s.watch.heldTunes ∧
    (s.beginPoint c).swapAnswers = s.swapAnswers ∧
    (s.beginPoint c).status.marks = s.status.marks := by
  unfold State.beginPoint
  simp

@[simp] theorem State.sweepTake_kept (slot : Nat) (b : OrderBody) :
    (s.sweepTake slot b).control = s.control ∧ (s.sweepTake slot b).air = s.air ∧ (s.sweepTake slot b).bins = s.bins ∧
    (s.sweepTake slot b).lines = s.lines ∧ (s.sweepTake slot b).spares = s.spares ∧
    (s.sweepTake slot b).coupling = s.coupling ∧ (s.sweepTake slot b).params = s.params ∧
    (s.sweepTake slot b).cache = s.cache ∧ (s.sweepTake slot b).engine.requests = s.engine.requests ∧
    (s.sweepTake slot b).watch.records = s.watch.records ∧ (s.sweepTake slot b).watch.params = s.watch.params ∧
    (s.sweepTake slot b).watch.heldTunes = s.watch.heldTunes ∧ (s.sweepTake slot b).swapAnswers = s.swapAnswers ∧
    (s.sweepTake slot b).status.marks = s.status.marks := by
  unfold State.sweepTake
  simp

@[simp] theorem State.storePoint_kept (o : SweepOrder) (c : SweepCount) (level : Nat) (failed : Bool) :
    (s.storePoint o c level failed).control = s.control ∧ (s.storePoint o c level failed).air = s.air ∧
    (s.storePoint o c level failed).bins = s.bins ∧ (s.storePoint o c level failed).lines = s.lines ∧
    (s.storePoint o c level failed).spares = s.spares ∧ (s.storePoint o c level failed).coupling = s.coupling ∧
    (s.storePoint o c level failed).params = s.params ∧ (s.storePoint o c level failed).cache = s.cache ∧
    (s.storePoint o c level failed).engine.requests = s.engine.requests ∧
    (s.storePoint o c level failed).watch.records = s.watch.records ∧
    (s.storePoint o c level failed).watch.params = s.watch.params ∧
    (s.storePoint o c level failed).watch.heldTunes = s.watch.heldTunes ∧
    (s.storePoint o c level failed).swapAnswers = s.swapAnswers ∧
    (s.storePoint o c level failed).status.marks = s.status.marks := by
  unfold State.storePoint
  simp

@[simp] theorem State.pointEnd_kept (o : SweepOrder) (c : SweepCount) :
    (s.pointEnd o c).control = s.control ∧ (s.pointEnd o c).air = s.air ∧ (s.pointEnd o c).bins = s.bins ∧
    (s.pointEnd o c).lines = s.lines ∧ (s.pointEnd o c).spares = s.spares ∧ (s.pointEnd o c).coupling = s.coupling ∧
    (s.pointEnd o c).params = s.params ∧ (s.pointEnd o c).cache = s.cache ∧
    (s.pointEnd o c).engine.requests = s.engine.requests ∧ (s.pointEnd o c).watch.records = s.watch.records ∧
    (s.pointEnd o c).watch.params = s.watch.params ∧ (s.pointEnd o c).watch.heldTunes = s.watch.heldTunes ∧
    (s.pointEnd o c).swapAnswers = s.swapAnswers ∧
    (s.pointEnd o c).status.marks = s.status.marks := by
  unfold State.pointEnd
  simp

@[simp] theorem State.pointStored_kept (o : SweepOrder) (c : SweepCount) :
    (s.pointStored o c).control = s.control ∧ (s.pointStored o c).air = s.air ∧ (s.pointStored o c).lines = s.lines ∧
    (s.pointStored o c).spares = s.spares ∧ (s.pointStored o c).coupling = s.coupling ∧
    (s.pointStored o c).params = s.params ∧ (s.pointStored o c).cache = s.cache ∧
    (s.pointStored o c).engine.requests = s.engine.requests ∧ (s.pointStored o c).watch.records = s.watch.records ∧
    (s.pointStored o c).watch.params = s.watch.params ∧ (s.pointStored o c).watch.heldTunes = s.watch.heldTunes ∧
    (s.pointStored o c).swapAnswers = s.swapAnswers ∧
    (s.pointStored o c).status.marks = s.status.marks := by
  unfold State.pointStored
  simp

@[simp] theorem State.passWritten_kept (o : SweepOrder) (c : SweepCount) (a : Answer) :
    (s.passWritten o c a).control = s.control ∧ (s.passWritten o c a).air = s.air ∧ (s.passWritten o c a).bins = s.bins ∧
    (s.passWritten o c a).lines = s.lines ∧ (s.passWritten o c a).spares = s.spares ∧
    (s.passWritten o c a).coupling = s.coupling ∧ (s.passWritten o c a).params = s.params ∧
    (s.passWritten o c a).cache = s.cache ∧ (s.passWritten o c a).engine.requests = s.engine.requests ∧
    (s.passWritten o c a).watch.records = s.watch.records ∧ (s.passWritten o c a).watch.params = s.watch.params ∧
    (s.passWritten o c a).watch.heldTunes = s.watch.heldTunes ∧ (s.passWritten o c a).swapAnswers = s.swapAnswers ∧
    (s.passWritten o c a).status.marks = s.status.marks := by
  unfold State.passWritten
  (repeat' split) <;> simp

@[simp] theorem State.pointStop_kept (o : SweepOrder) (c : SweepCount) (a : Answer) :
    (s.pointStop o c a).control = s.control ∧ (s.pointStop o c a).air = s.air ∧ (s.pointStop o c a).bins = s.bins ∧
    (s.pointStop o c a).lines = s.lines ∧ (s.pointStop o c a).spares = s.spares ∧
    (s.pointStop o c a).coupling = s.coupling ∧ (s.pointStop o c a).params = s.params ∧
    (s.pointStop o c a).cache = s.cache ∧ (s.pointStop o c a).engine.requests = s.engine.requests ∧
    (s.pointStop o c a).watch.records = s.watch.records ∧ (s.pointStop o c a).watch.params = s.watch.params ∧
    (s.pointStop o c a).watch.heldTunes = s.watch.heldTunes ∧ (s.pointStop o c a).swapAnswers = s.swapAnswers ∧
    (s.pointStop o c a).status.marks = s.status.marks := by
  unfold State.pointStop
  (repeat' split) <;> simp

@[simp] theorem State.settingsTake_kept (slot : Nat) (b : OrderBody) :
    (s.settingsTake slot b).control = s.control ∧ (s.settingsTake slot b).air = s.air ∧
    (s.settingsTake slot b).bins = s.bins ∧ (s.settingsTake slot b).lines = s.lines ∧
    (s.settingsTake slot b).spares = s.spares ∧ (s.settingsTake slot b).coupling = s.coupling ∧
    (s.settingsTake slot b).params = s.params ∧ (s.settingsTake slot b).cache = s.cache ∧
    (s.settingsTake slot b).engine.requests = s.engine.requests ∧
    (s.settingsTake slot b).watch.records = s.watch.records ∧ (s.settingsTake slot b).watch.params = s.watch.params ∧
    (s.settingsTake slot b).watch.heldTunes = s.watch.heldTunes ∧
    (s.settingsTake slot b).swapAnswers = s.swapAnswers ∧
    (s.settingsTake slot b).status.marks = s.status.marks := by
  unfold State.settingsTake
  simp

@[simp] theorem State.settingsEnds_kept (c : Completion) :
    (s.settingsEnds c).control = s.control ∧ (s.settingsEnds c).air = s.air ∧ (s.settingsEnds c).bins = s.bins ∧
    (s.settingsEnds c).lines = s.lines ∧ (s.settingsEnds c).spares = s.spares ∧
    (s.settingsEnds c).coupling = s.coupling ∧ (s.settingsEnds c).params = s.params ∧
    (s.settingsEnds c).cache = s.cache ∧ (s.settingsEnds c).engine.requests = s.engine.requests ∧
    (s.settingsEnds c).watch.records = s.watch.records ∧ (s.settingsEnds c).watch.params = s.watch.params ∧
    (s.settingsEnds c).watch.heldTunes = s.watch.heldTunes ∧ (s.settingsEnds c).swapAnswers = s.swapAnswers ∧
    (s.settingsEnds c).status.marks = s.status.marks := by
  unfold State.settingsEnds
  simp

@[simp] theorem State.settingsGo_kept :
    s.settingsGo.control = s.control ∧ s.settingsGo.air = s.air ∧ s.settingsGo.bins = s.bins ∧
    s.settingsGo.lines = s.lines ∧ s.settingsGo.spares = s.spares ∧ s.settingsGo.coupling = s.coupling ∧
    s.settingsGo.params = s.params ∧ s.settingsGo.cache = s.cache ∧ s.settingsGo.engine.requests = s.engine.requests ∧
    s.settingsGo.watch.records = s.watch.records ∧ s.settingsGo.watch.params = s.watch.params ∧
    s.settingsGo.watch.heldTunes = s.watch.heldTunes ∧ s.settingsGo.swapAnswers = s.swapAnswers ∧
    s.settingsGo.status.marks = s.status.marks := by
  unfold State.settingsGo
  (repeat' split) <;> simp

@[simp] theorem State.trigger_kept :
    s.trigger.control = s.control ∧ s.trigger.units = s.units ∧ s.trigger.air = s.air ∧ s.trigger.bins = s.bins ∧
    s.trigger.lines = s.lines ∧ s.trigger.spares = s.spares ∧ s.trigger.coupling = s.coupling ∧
    s.trigger.params = s.params ∧ s.trigger.cache = s.cache ∧ s.trigger.engine.requests = s.engine.requests ∧
    s.trigger.watch.records = s.watch.records ∧ s.trigger.watch.params = s.watch.params ∧
    s.trigger.watch.heldTunes = s.watch.heldTunes ∧ s.trigger.swapAnswers = s.swapAnswers ∧
    s.trigger.status.marks = s.status.marks := by
  unfold State.trigger
  simp

@[simp] theorem State.screen_kept (b : OrderBody) :
    (s.screen b).1.control = s.control ∧ (s.screen b).1.units = s.units ∧ (s.screen b).1.air = s.air ∧
    (s.screen b).1.bins = s.bins ∧ (s.screen b).1.lines = s.lines ∧ (s.screen b).1.spares = s.spares ∧
    (s.screen b).1.coupling = s.coupling ∧ (s.screen b).1.params = s.params ∧ (s.screen b).1.cache = s.cache ∧
    (s.screen b).1.engine.requests = s.engine.requests ∧ (s.screen b).1.watch.records = s.watch.records ∧
    (s.screen b).1.watch.params = s.watch.params ∧ (s.screen b).1.watch.heldTunes = s.watch.heldTunes ∧
    (s.screen b).1.swapAnswers = s.swapAnswers ∧
    (s.screen b).1.status.marks = s.status.marks := by
  unfold State.screen
  (repeat' split) <;> simp

@[simp] theorem State.advanceCursor_kept (slot : Nat) :
    (s.advanceCursor slot).control = s.control ∧ (s.advanceCursor slot).units = s.units ∧
    (s.advanceCursor slot).air = s.air ∧ (s.advanceCursor slot).bins = s.bins ∧
    (s.advanceCursor slot).lines = s.lines ∧ (s.advanceCursor slot).spares = s.spares ∧
    (s.advanceCursor slot).coupling = s.coupling ∧ (s.advanceCursor slot).params = s.params ∧
    (s.advanceCursor slot).cache = s.cache ∧ (s.advanceCursor slot).engine.requests = s.engine.requests ∧
    (s.advanceCursor slot).watch.records = s.watch.records ∧ (s.advanceCursor slot).watch.params = s.watch.params ∧
    (s.advanceCursor slot).watch.heldTunes = s.watch.heldTunes ∧
    (s.advanceCursor slot).swapAnswers = s.swapAnswers ∧
    (s.advanceCursor slot).status.marks = s.status.marks := by
  unfold State.advanceCursor
  simp

@[simp] theorem State.writeResult_kept (c : Completion) (p : BoardPos) :
    (s.writeResult c p).control = s.control ∧ (s.writeResult c p).units = s.units ∧ (s.writeResult c p).air = s.air ∧
    (s.writeResult c p).bins = s.bins ∧ (s.writeResult c p).lines = s.lines ∧ (s.writeResult c p).spares = s.spares ∧
    (s.writeResult c p).coupling = s.coupling ∧ (s.writeResult c p).params = s.params ∧
    (s.writeResult c p).cache = s.cache ∧ (s.writeResult c p).engine.requests = s.engine.requests ∧
    (s.writeResult c p).watch.records = s.watch.records ∧ (s.writeResult c p).watch.params = s.watch.params ∧
    (s.writeResult c p).watch.heldTunes = s.watch.heldTunes ∧ (s.writeResult c p).swapAnswers = s.swapAnswers ∧
    (s.writeResult c p).status.marks = s.status.marks := by
  unfold State.writeResult
  simp

@[simp] theorem State.writeState_kept (slot code : Nat) (p : BoardPos) :
    (s.writeState slot code p).control = s.control ∧ (s.writeState slot code p).units = s.units ∧
    (s.writeState slot code p).air = s.air ∧ (s.writeState slot code p).bins = s.bins ∧
    (s.writeState slot code p).lines = s.lines ∧ (s.writeState slot code p).spares = s.spares ∧
    (s.writeState slot code p).coupling = s.coupling ∧ (s.writeState slot code p).params = s.params ∧
    (s.writeState slot code p).cache = s.cache ∧ (s.writeState slot code p).engine.requests = s.engine.requests ∧
    (s.writeState slot code p).watch.records = s.watch.records ∧
    (s.writeState slot code p).watch.params = s.watch.params ∧
    (s.writeState slot code p).watch.heldTunes = s.watch.heldTunes ∧
    (s.writeState slot code p).swapAnswers = s.swapAnswers ∧
    (s.writeState slot code p).status.marks = s.status.marks := by
  unfold State.writeState
  simp

@[simp] theorem State.answered_kept (p : BoardPos) :
    (s.answered p).control = s.control ∧ (s.answered p).units = s.units ∧ (s.answered p).air = s.air ∧
    (s.answered p).bins = s.bins ∧ (s.answered p).lines = s.lines ∧ (s.answered p).spares = s.spares ∧
    (s.answered p).coupling = s.coupling ∧ (s.answered p).params = s.params ∧ (s.answered p).cache = s.cache ∧
    (s.answered p).engine.requests = s.engine.requests ∧ (s.answered p).watch.records = s.watch.records ∧
    (s.answered p).watch.params = s.watch.params ∧ (s.answered p).watch.heldTunes = s.watch.heldTunes ∧
    (s.answered p).swapAnswers = s.swapAnswers ∧
    (s.answered p).status.marks = s.status.marks := by
  unfold State.answered
  simp

@[simp] theorem State.listEnded_kept (c : Completion) :
    (s.listEnded c).control = s.control ∧ (s.listEnded c).units = s.units ∧ (s.listEnded c).air = s.air ∧
    (s.listEnded c).bins = s.bins ∧ (s.listEnded c).lines = s.lines ∧ (s.listEnded c).spares = s.spares ∧
    (s.listEnded c).coupling = s.coupling ∧ (s.listEnded c).params = s.params ∧ (s.listEnded c).cache = s.cache ∧
    (s.listEnded c).engine.requests = s.engine.requests ∧ (s.listEnded c).watch.records = s.watch.records ∧
    (s.listEnded c).watch.params = s.watch.params ∧ (s.listEnded c).watch.heldTunes = s.watch.heldTunes ∧
    (s.listEnded c).swapAnswers = s.swapAnswers ∧
    (s.listEnded c).status.marks = s.status.marks := by
  unfold State.listEnded
  dsimp only
  (repeat' split) <;> simp

@[simp] theorem State.carry_kept (c : Candidate) :
    (s.carry c).1.control = s.control ∧ (s.carry c).1.units = s.units ∧ (s.carry c).1.air = s.air ∧
    (s.carry c).1.spares = s.spares ∧ (s.carry c).1.coupling = s.coupling ∧ (s.carry c).1.params = s.params ∧
    (s.carry c).1.cache = s.cache ∧ (s.carry c).1.engine.requests = s.engine.requests ∧
    (s.carry c).1.watch.heldTunes = s.watch.heldTunes ∧ (s.carry c).1.swapAnswers = s.swapAnswers := by
  unfold State.carry
  (repeat' split) <;> simp

/-- A RACK_TUNE taken changes its line alone. -/
theorem State.rackTune_some {slot : Nat} {b : OrderBody} {r : State × Completion} (h : s.rackTune slot b = some r) :
    r.1.control = s.control ∧ r.1.units = s.units ∧ r.1.air = s.air ∧ r.1.bins = s.bins ∧ r.1.spares = s.spares ∧
    r.1.coupling = s.coupling ∧ r.1.params = s.params ∧ r.1.cache = s.cache ∧
    r.1.engine.requests = s.engine.requests ∧ r.1.watch.records = s.watch.records ∧
    r.1.watch.params = s.watch.params ∧ r.1.watch.heldTunes = s.watch.heldTunes ∧
    r.1.swapAnswers = s.swapAnswers ∧
    r.1.status.marks = s.status.marks := by
  unfold State.rackTune at h
  dsimp only at h
  split at h
  · cases h; simp
  · cases ho : s.offer (lineOf (paramByte b.p2 0)) ⟨false, paramByte b.p2 1, paramByte b.p2 2, lowHalf b.p0, lowHalf b.p1⟩ with
    | none => simp [ho] at h
    | some t => simp only [ho, Option.map_some, Option.some.injEq] at h; subst h; have := State.offer_some s ho; simp [this]

@[simp] theorem State.chooseStep_kept (sound : List Candidate) :
    (s.chooseStep sound).control = s.control ∧ (s.chooseStep sound).units = s.units ∧
    (s.chooseStep sound).air = s.air ∧ (s.chooseStep sound).bins = s.bins ∧ (s.chooseStep sound).spares = s.spares ∧
    (s.chooseStep sound).coupling = s.coupling ∧ (s.chooseStep sound).params = s.params ∧
    (s.chooseStep sound).cache = s.cache ∧ (s.chooseStep sound).engine.requests = s.engine.requests ∧
    (s.chooseStep sound).watch.records = s.watch.records ∧ (s.chooseStep sound).watch.params = s.watch.params ∧
    (s.chooseStep sound).watch.heldTunes = s.watch.heldTunes ∧ (s.chooseStep sound).swapAnswers = s.swapAnswers ∧
    (s.chooseStep sound).status.marks = s.status.marks := by
  unfold State.chooseStep
  split
  · simp
  · split
    · simp
    · split
      · split
        · simp
        · have := State.rackTune_some s ‹_›; simp [this]
      · simp

@[simp] theorem State.tuneTaken_kept (c : Completion) (sound : List Candidate) (a : Answer) :
    (s.tuneTaken c sound a).control = s.control ∧ (s.tuneTaken c sound a).units = s.units ∧
    (s.tuneTaken c sound a).air = s.air ∧ (s.tuneTaken c sound a).bins = s.bins ∧
    (s.tuneTaken c sound a).lines = s.lines ∧ (s.tuneTaken c sound a).spares = s.spares ∧
    (s.tuneTaken c sound a).coupling = s.coupling ∧ (s.tuneTaken c sound a).params = s.params ∧
    (s.tuneTaken c sound a).cache = s.cache ∧ (s.tuneTaken c sound a).engine.requests = s.engine.requests ∧
    (s.tuneTaken c sound a).watch.records = s.watch.records ∧ (s.tuneTaken c sound a).watch.params = s.watch.params ∧
    (s.tuneTaken c sound a).watch.heldTunes = s.watch.heldTunes ∧
    (s.tuneTaken c sound a).swapAnswers = s.swapAnswers ∧
    (s.tuneTaken c sound a).status.marks = s.status.marks := by
  unfold State.tuneTaken
  split_ifs <;> simp

@[simp] theorem State.slotRead_kept (a n : Nat) (p : BoardPos) :
    (s.slotRead a n p).control = s.control ∧ (s.slotRead a n p).units = s.units ∧
    (s.slotRead a n p).air = s.air ∧ (s.slotRead a n p).bins = s.bins ∧
    (s.slotRead a n p).lines = s.lines ∧ (s.slotRead a n p).spares = s.spares ∧
    (s.slotRead a n p).coupling = s.coupling ∧ (s.slotRead a n p).params = s.params ∧
    (s.slotRead a n p).cache = s.cache ∧ (s.slotRead a n p).engine.requests = s.engine.requests ∧
    (s.slotRead a n p).watch.records = s.watch.records ∧
    (s.slotRead a n p).watch.params = s.watch.params ∧
    (s.slotRead a n p).watch.heldTunes = s.watch.heldTunes ∧
    (s.slotRead a n p).swapAnswers = s.swapAnswers ∧
    (s.slotRead a n p).status.marks = s.status.marks := by
  unfold State.slotRead
  split_ifs <;> simp

@[simp] theorem State.statesStep_kept (next : Nat) (found : List Nat) :
    (s.statesStep next found).control = s.control ∧ (s.statesStep next found).units = s.units ∧
    (s.statesStep next found).air = s.air ∧ (s.statesStep next found).bins = s.bins ∧
    (s.statesStep next found).lines = s.lines ∧ (s.statesStep next found).spares = s.spares ∧
    (s.statesStep next found).coupling = s.coupling ∧ (s.statesStep next found).params = s.params ∧
    (s.statesStep next found).cache = s.cache ∧ (s.statesStep next found).engine.requests = s.engine.requests ∧
    (s.statesStep next found).watch.records = s.watch.records ∧
    (s.statesStep next found).watch.params = s.watch.params ∧
    (s.statesStep next found).watch.heldTunes = s.watch.heldTunes ∧
    (s.statesStep next found).swapAnswers = s.swapAnswers ∧
    (s.statesStep next found).status.marks = s.status.marks := by
  unfold State.statesStep
  simp

@[simp] theorem State.bodiesStep_kept (left : List Nat) (sound : List Candidate) :
    (s.bodiesStep left sound).control = s.control ∧ (s.bodiesStep left sound).units = s.units ∧
    (s.bodiesStep left sound).air = s.air ∧ (s.bodiesStep left sound).bins = s.bins ∧
    (s.bodiesStep left sound).lines = s.lines ∧ (s.bodiesStep left sound).spares = s.spares ∧
    (s.bodiesStep left sound).coupling = s.coupling ∧ (s.bodiesStep left sound).params = s.params ∧
    (s.bodiesStep left sound).cache = s.cache ∧ (s.bodiesStep left sound).engine.requests = s.engine.requests ∧
    (s.bodiesStep left sound).watch.records = s.watch.records ∧
    (s.bodiesStep left sound).watch.params = s.watch.params ∧
    (s.bodiesStep left sound).watch.heldTunes = s.watch.heldTunes ∧
    (s.bodiesStep left sound).swapAnswers = s.swapAnswers ∧
    (s.bodiesStep left sound).status.marks = s.status.marks := by
  unfold State.bodiesStep
  (repeat' split) <;> simp


@[simp] theorem State.bodyRead_kept (slot : Nat) (left : List Nat) (sound : List Candidate) (bs : List Byte) :
    (s.bodyRead slot left sound bs).control = s.control ∧ (s.bodyRead slot left sound bs).units = s.units ∧
    (s.bodyRead slot left sound bs).air = s.air ∧ (s.bodyRead slot left sound bs).bins = s.bins ∧
    (s.bodyRead slot left sound bs).lines = s.lines ∧ (s.bodyRead slot left sound bs).spares = s.spares ∧
    (s.bodyRead slot left sound bs).coupling = s.coupling ∧ (s.bodyRead slot left sound bs).params = s.params ∧
    (s.bodyRead slot left sound bs).cache = s.cache ∧
    (s.bodyRead slot left sound bs).engine.requests = s.engine.requests ∧
    (s.bodyRead slot left sound bs).watch.records = s.watch.records ∧
    (s.bodyRead slot left sound bs).watch.params = s.watch.params ∧
    (s.bodyRead slot left sound bs).watch.heldTunes = s.watch.heldTunes ∧
    (s.bodyRead slot left sound bs).swapAnswers = s.swapAnswers ∧
    (s.bodyRead slot left sound bs).status.marks = s.status.marks := by
  unfold State.bodyRead
  have h := State.screen_kept s (orderBody bs)
  revert h
  dsimp only
  split <;> rename_i hs <;> rw [hs] <;> intro h <;> simp only at h <;> simp [h]

@[simp] theorem State.writeRecord_kept (r : RecId) (rest : List RecId) (base : Nat) :
    (s.writeRecord r rest base).control = s.control ∧ (s.writeRecord r rest base).units = s.units ∧
    (s.writeRecord r rest base).air = s.air ∧ (s.writeRecord r rest base).bins = s.bins ∧
    (s.writeRecord r rest base).lines = s.lines ∧ (s.writeRecord r rest base).spares = s.spares ∧
    (s.writeRecord r rest base).coupling = s.coupling ∧ (s.writeRecord r rest base).params = s.params ∧
    (s.writeRecord r rest base).cache = s.cache ∧ (s.writeRecord r rest base).engine.requests = s.engine.requests ∧
    (s.writeRecord r rest base).watch.records = s.watch.records ∧
    (s.writeRecord r rest base).watch.params = s.watch.params ∧
    (s.writeRecord r rest base).watch.heldTunes = s.watch.heldTunes ∧
    (s.writeRecord r rest base).swapAnswers = s.swapAnswers := by
  unfold State.writeRecord
  simp

end Sys2Proof.Machine
end

