-- ==== Sys2Proof/Laws/Blocks.lean ====
section
/-! SUPPORT. All that one micro-step of the Plan Engine, the Board Handler and the Status Writer can do, and what
it leaves alone. -/

namespace Sys2Proof.Machine

variable (s : State)

/-- The state in which a piece of work leaves the part, if it does not wait. -/
def Progress.state? {α : Type} : Progress α → Option State
  | .wait => none
  | .more s => some s
  | .done _ s => some s

@[simp] theorem Progress.state?_wait {α : Type} : (Progress.wait : Progress α).state? = none := rfl
@[simp] theorem Progress.state?_more {α : Type} (s : State) : (Progress.more s : Progress α).state? = some s := rfl
@[simp] theorem Progress.state?_done {α : Type} (a : α) (s : State) : (Progress.done a s).state? = some s := rfl

theorem State.lookupStep_kept {id : Nat} {t : State} (h : (s.lookupStep id).state? = some t) :
    t.control = s.control ∧ t.units = s.units ∧ t.air = s.air ∧ t.bins = s.bins ∧ t.lines = s.lines ∧
    t.spares = s.spares ∧ t.coupling = s.coupling ∧ t.params = s.params ∧ t.engine.requests = s.engine.requests ∧
    t.watch.records = s.watch.records ∧ t.watch.params = s.watch.params ∧ t.watch.heldTunes = s.watch.heldTunes ∧
    t.swapAnswers = s.swapAnswers := by
  unfold State.lookupStep State.lookupEnds State.lookupFound at h
  dsimp only at h
  (repeat' split at h) <;> simp [State.lookupEnds] at h <;> subst h <;> simp

theorem State.wbStep_kept {t : State} (h : s.wbStep.state? = some t) :
    t.control = s.control ∧ t.units = s.units ∧ t.air = s.air ∧ t.bins = s.bins ∧ t.lines = s.lines ∧
    t.spares = s.spares ∧ t.coupling = s.coupling ∧ t.params = s.params ∧ t.engine.requests = s.engine.requests ∧
    t.watch.records = s.watch.records ∧ t.watch.params = s.watch.params ∧ t.watch.heldTunes = s.watch.heldTunes ∧
    t.swapAnswers = s.swapAnswers := by
  unfold State.wbStep State.wbFails at h
  dsimp only at h
  (repeat' split at h) <;> simp at h <;> subst h <;> simp

/-- A block that waits does nothing. -/
theorem runMicro_none {f : State → Option State} {s : State} (h : f s = none) (n : Nat) : runMicro f n s = s := by
  cases n with
  | zero => rfl
  | succ n => simp [runMicro, h]

/-- A micro-step is made, and the block goes on. -/
theorem runMicro_some {f : State → Option State} {s t : State} (h : f s = some t) (n : Nat) :
    runMicro f (n + 1) s = runMicro f n t := by
  simp [runMicro, h]

/-- What runs by micro-steps keeps what each micro-step keeps. -/
theorem runMicro_inv {f : State → Option State} (P : State → Prop) (hf : ∀ s t, f s = some t → P s → P t)
    (n : Nat) (s : State) (h : P s) : P (runMicro f n s) := by
  induction n generalizing s with
  | zero => exact h
  | succ n ih =>
    unfold runMicro
    split
    · exact h
    · exact ih _ (hf _ _ ‹_› h)

/-- A fold keeps what each of its steps keeps. -/
theorem foldl_inv {α β : Type} {f : β → α → β} (P : β → Prop) (hf : ∀ b a, P b → P (f b a)) (l : List α) (b : β)
    (h : P b) : P (l.foldl f b) := by
  induction l generalizing b with
  | nil => exact h
  | cons a l ih => exact ih _ (hf _ _ h)

/-! ### The Plan Engine: all that one micro-step can do -/

/-- A micro-step of the engine, by what it does. -/
inductive EngineMove (s : State) : State → Prop
  | served : EngineMove s s.serveHead
  | written (t : State) (h : s.wbStep.state? = some t) : EngineMove s t
  | swapped (id : Nat) (changed : List RecId) (t : State) (h : s.wbStep.state? = some t) :
      EngineMove s (((t.setService none).mark (.carrier id)).markAll changed)
  | searched (x next : Nat) : EngineMove s (s.serviceStep x next)
  | begun (o : EngineOrder) (h : s.engine.order = some o) : EngineMove s (s.beginOrder o)
  | listA (o : EngineOrder) (a : Answer) (h : s.engine.order = some o) :
      EngineMove s ((s.setMail .engine none).listARead o a)
  | listB (o : EngineOrder) (a : Answer) (h : s.engine.order = some o) :
      EngineMove s ((s.setMail .engine none).listBRead o a)
  | stepped (o : EngineOrder) (h : s.engine.order = some o) : EngineMove s (s.beginStep o)
  | looked (id : Nat) (t : State) (h : (s.lookupStep id).state? = some t) : EngineMove s t
  | lookedUp (o : EngineOrder) (id : Nat) (a : LookupAnswer) (t : State) (h : s.engine.order = some o)
      (hl : s.lookupStep id = .done a t) : EngineMove s (t.lookedUp o id a)
  | conflict (o : EngineOrder) (left : List (List Byte)) (a : Answer) (h : s.engine.order = some o) :
      EngineMove s ((s.setMail .engine none).conflictWritten o left a)
  | boundary (o : EngineOrder) (h : s.engine.order = some o) : EngineMove s (s.boundaryStop o)
  | stopped (o : EngineOrder) (a : Answer) (h : s.engine.order = some o) :
      EngineMove s ((s.setMail .engine none).stopRead o a)
  | decided (o : EngineOrder) (h : s.engine.order = some o) : EngineMove s (s.decideBoundary o)
  | commit (o : EngineOrder) (left : List Nat) (h : s.engine.order = some o) : EngineMove s (s.commitNext o left)
  | committed (o : EngineOrder) (left : List Nat) (a : WriteBackAnswer) (t : State) (h : s.engine.order = some o)
      (hw : s.wbStep = .done a t) : EngineMove s (t.commitWritten o left a)
  | tuned (o : EngineOrder) (left : List Nat) (h : s.engine.order = some o) : EngineMove s (s.tuneNext o left)
  | retried (left : List Nat) : EngineMove s (s.setPos (.tune left true))
  | outcomes (o : EngineOrder) (a : Answer) (failed : Bool) (r : ResultCode) (c1 c2 : Nat)
      (h : s.engine.order = some o) : EngineMove s ((s.setMail .engine none).outcomesWritten o a failed r c1 c2)

theorem State.engineMail_some {f : State → Answer → State} {t : State} (h : s.engineMail f = some t) :
    ∃ a, s.mail.engine = some a ∧ t = f (s.setMail .engine none) a := by
  unfold State.engineMail at h
  cases hm : s.mail.engine with
  | none => simp [hm] at h
  | some a => simp [hm] at h; exact ⟨a, rfl, h.symm⟩

theorem State.engineMicro_moves {t : State} (h : s.engineMicro = some t) : EngineMove s t := by
  unfold State.engineMicro at h
  split at h
  · cases h
  split at h
  · cases h; exact .searched _ _
  · unfold State.swapMicro at h
    split at h <;> rename_i hw <;> simp at h <;> subst h
    · exact .written _ (by rw [hw]; rfl)
    · exact .swapped _ _ _ (by rw [hw]; rfl)
  · split at h
    · split at h <;> simp at h
      subst h; exact .served
    · rename_i o ho
      unfold State.orderMicro at h
      dsimp only at h
      split at h
      · cases h
      · split at h <;> cases h; exacts [.begun o ho, .served]
      · obtain ⟨a, -, rfl⟩ := State.engineMail_some s h; exact .listA o a ho
      · obtain ⟨a, -, rfl⟩ := State.engineMail_some s h; exact .listB o a ho
      · cases h; exact .stepped o ho
      · split at h <;> rename_i hl <;> cases h
        · exact .looked _ _ (by rw [hl]; rfl)
        · exact .lookedUp o _ _ _ ho hl
      · obtain ⟨a, -, rfl⟩ := State.engineMail_some s h; exact .conflict o _ a ho
      · cases h
      · split at h <;> cases h; exacts [.boundary o ho, .served]
      · obtain ⟨a, -, rfl⟩ := State.engineMail_some s h; exact .stopped o a ho
      · cases h; exact .decided o ho
      · cases h; exact .commit o _ ho
      · split at h <;> rename_i hl <;> cases h
        · exact .written _ (by rw [hl]; rfl)
        · exact .committed o _ _ _ ho hl
      · cases h
        split
        · split; exacts [.tuned o _ ho, .served]
        · exact .tuned o _ ho
      · split at h <;> cases h; exact .retried _
      · obtain ⟨a, -, rfl⟩ := State.engineMail_some s h; exact .outcomes o a _ _ _ _ ho

/-- What one micro-step of the engine leaves alone. -/
theorem EngineMove.kept {s t : State} (h : EngineMove s t) :
    t.control = s.control ∧ t.units = s.units ∧ t.bins = s.bins ∧ t.watch.params = s.watch.params := by
  cases h with
  | written _ h => have := State.wbStep_kept s h; simp [this]
  | swapped _ _ _ h => have := State.wbStep_kept s h; simp [this]
  | looked _ _ h => have := State.lookupStep_kept s h; simp [this]
  | lookedUp o id a t _ h => have := State.lookupStep_kept s (t := t) (id := id) (by rw [h]; rfl); simp [this]
  | committed o id a t _ h => have := State.wbStep_kept s (t := t) (by rw [h]; rfl); simp [this]
  | _ => simp

@[simp] theorem State.engineGo_kept :
    s.engineGo.control = s.control ∧ s.engineGo.units = s.units ∧ s.engineGo.bins = s.bins ∧
    s.engineGo.watch.params = s.watch.params := by
  refine runMicro_inv (fun t => t.control = s.control ∧ t.units = s.units ∧ t.bins = s.bins ∧
    t.watch.params = s.watch.params) (fun a b h hi => ?_) _ s ⟨rfl, rfl, rfl, rfl⟩
  have := (State.engineMicro_moves a h).kept
  simp [this, hi]

/-! ### The Board Handler: all that one micro-step can do -/

/-- All that the read of a part of a slot can do: with READ_WRITE access it is presented, without it the survey is
abandoned with fault WINDOW (R167). -/
theorem State.slotRead_cases (s : State) (a n : Nat) (p : BoardPos) :
    (s.allowed true a n = true ∧ s.slotRead a n p = (s.presentRead .board a n).setBoardPos p) ∨
    (s.allowed true a n = false ∧ s.slotRead a n p = (s.recordFault a .window .board).surveyEnds) := by
  cases h : s.allowed true a n <;> simp [State.slotRead, h]

/-- A micro-step of the Board Handler, by what it does. -/
inductive BoardMove (s : State) : State → Prop
  | states (next : Nat) (found : List Nat) : BoardMove s (s.statesStep next found)
  | bodies (left : List Nat) (sound : List Candidate) : BoardMove s (s.bodiesStep left sound)
  | chosen (sound : List Candidate) : BoardMove s (s.chooseStep sound)
  | abandoned : BoardMove s (s.setMail .board none).surveyEnds
  | moved (p : BoardPos) : BoardMove s ((s.setMail .board none).setBoardPos p)
  | body (slot : Nat) (left : List Nat) (sound : List Candidate) (bs : List Byte) :
      BoardMove s ((s.setMail .board none).bodyRead slot left sound bs)
  | stateWord (slot code : Nat) (p : BoardPos) : BoardMove s ((s.setMail .board none).writeState slot code p)
  | answered (p : BoardPos) : BoardMove s ((s.setMail .board none).answered p)
  | taken (c : Candidate) (sound : List Candidate) : BoardMove s ((s.setMail .board none).takeOrder c sound)
  | noRoster (c : Completion) (sound : List Candidate) :
      BoardMove s (State.immEnds (s.setMail .board none, c) sound)
  | roster (c : Candidate) (sound : List Candidate) (bs : List Byte) :
      BoardMove s (State.immEnds ((s.setMail .board none).rackRoster c.slot c.body bs) sound)
  | result (c : Completion) (p : BoardPos) : BoardMove s ((s.setMail .board none).writeResult c p)
  | tuned (c : Completion) (sound : List Candidate) (a : Answer) :
      BoardMove s ((s.setMail .board none).tuneTaken c sound a)
  | band (c : Completion) (sound : List Candidate) : BoardMove s (State.immEnds ({ s with band := none }, c) sound)
  | listed (c : Completion) : BoardMove s ((s.setMail .board none).listEnded c)

theorem State.boardMail_some {f : State → Answer → State} {t : State} (h : s.boardMail f = some t) :
    ∃ a, s.mail.board = some a ∧ t = f (s.setMail .board none) a := by
  unfold State.boardMail at h
  cases hm : s.mail.board with
  | none => simp [hm] at h
  | some a => simp [hm] at h; exact ⟨a, rfl, h.symm⟩

theorem State.boardMicro_moves {t : State} (h : s.boardMicro = some t) : BoardMove s t := by
  unfold State.boardMicro State.surveyRead at h
  split at h
  case h_3 => cases h; exact .states _ _
  case h_5 => cases h; exact .bodies _ _
  case h_9 => cases h; exact .chosen _
  case h_1 => cases h
  case h_2 => cases h
  case h_13 =>
    split at h
    · cases h
    · split at h <;> cases h
      exact .band _ _
  all_goals
    obtain ⟨a, -, rfl⟩ := State.boardMail_some s h
    try dsimp only
    cases a
  all_goals first
    | exact .tuned _ _ _
    | exact .abandoned
    | exact .moved _
    | exact .body _ _ _ _
    | exact .stateWord _ _ _
    | exact .answered _
    | exact .taken _ _
    | exact .noRoster _ _
    | exact .roster _ _ _
    | exact .result _ _
    | exact .listed _

theorem State.engineTake_kept (slot : Nat) (kind : OrderKind) (body : OrderBody) :
    (s.engineTake slot kind body).control = s.control ∧ (s.engineTake slot kind body).units = s.units ∧
    (s.engineTake slot kind body).bins = s.bins ∧ (s.engineTake slot kind body).watch.params = s.watch.params := by
  simp [State.engineTake]

@[simp] theorem State.handHeld_control (d : HeldDest) (c : Candidate) : (s.handHeld d c).control = s.control := by
  unfold State.handHeld; split <;> simp [State.engineTake]

@[simp] theorem State.immEnds_kept (r : State × Completion) (sound : List Candidate) :
    (State.immEnds r sound).control = r.1.control ∧ (State.immEnds r sound).units = r.1.units ∧
    (State.immEnds r sound).air = r.1.air ∧ (State.immEnds r sound).bins = r.1.bins ∧
    (State.immEnds r sound).lines = r.1.lines ∧ (State.immEnds r sound).spares = r.1.spares ∧
    (State.immEnds r sound).coupling = r.1.coupling ∧ (State.immEnds r sound).params = r.1.params ∧
    (State.immEnds r sound).cache = r.1.cache ∧ (State.immEnds r sound).engine.requests = r.1.engine.requests ∧
    (State.immEnds r sound).watch.records = r.1.watch.records ∧
    (State.immEnds r sound).watch.params = r.1.watch.params := by
  simp [State.immEnds]

@[simp] theorem State.takeOrder_control (c : Candidate) (sound : List Candidate) :
    (s.takeOrder c sound).control = s.control := by
  unfold State.takeOrder
  dsimp only
  (repeat' split) <;> simp

theorem BoardMove.control {s t : State} (h : BoardMove s t) : t.control = s.control := by
  cases h <;> simp

@[simp] theorem State.boardGo_control : s.boardGo.control = s.control :=
  runMicro_inv (fun t => t.control = s.control)
    (fun a _ h hi => (BoardMove.control (State.boardMicro_moves a h)).trans hi) _ s rfl

/-! ### The Status Writer -/

theorem State.statusMicro_kept {t : State} (h : s.statusMicro = some t) :
    t.mem = s.mem ∧ t.units = s.units ∧ t.air = s.air ∧ t.bins = s.bins ∧ t.lines = s.lines ∧ t.spares = s.spares ∧
    t.coupling = s.coupling ∧ t.params = s.params ∧ t.cache = s.cache ∧ t.engine = s.engine ∧ t.watch = s.watch ∧
    t.swapAnswers = s.swapAnswers ∧ t.port.phase = s.port.phase ∧ t.port.lastServed = s.port.lastServed ∧
    t.status.marks = s.status.marks := by
  unfold State.statusMicro at h
  split at h
  · cases h
    unfold State.recordWritten State.announced State.rewriteDone
    split
    · simp
    · simp only []
      split <;> simp
  · cases h
    unfold State.rewriteDone
    split <;> simp
  · cases h
    unfold State.announced State.rewriteDone
    simp only []
    split <;> simp
  · cases h

@[simp] theorem State.statusGo_kept :
    s.statusGo.mem = s.mem ∧ s.statusGo.units = s.units ∧ s.statusGo.air = s.air ∧ s.statusGo.bins = s.bins ∧
    s.statusGo.lines = s.lines ∧ s.statusGo.spares = s.spares ∧ s.statusGo.coupling = s.coupling ∧
    s.statusGo.params = s.params ∧ s.statusGo.cache = s.cache ∧ s.statusGo.engine = s.engine ∧
    s.statusGo.watch = s.watch ∧ s.statusGo.swapAnswers = s.swapAnswers ∧
    s.statusGo.port.phase = s.port.phase ∧ s.statusGo.port.lastServed = s.port.lastServed ∧
    s.statusGo.status.marks = s.status.marks := by
  refine runMicro_inv (fun t => t.mem = s.mem ∧ t.units = s.units ∧ t.air = s.air ∧ t.bins = s.bins ∧
    t.lines = s.lines ∧ t.spares = s.spares ∧ t.coupling = s.coupling ∧ t.params = s.params ∧ t.cache = s.cache ∧
    t.engine = s.engine ∧ t.watch = s.watch ∧ t.swapAnswers = s.swapAnswers ∧ t.port.phase = s.port.phase ∧
    t.port.lastServed = s.port.lastServed ∧ t.status.marks = s.status.marks) (fun a b h hi => ?_) _ s (by simp)
  have := State.statusMicro_kept a h
  simp [this, hi]

/-! ### The halt and the services of swaps (R75, R106, R190) -/

/-- All that the end of a search can do: a search and its reading are gone, and anything else stands. -/
theorem State.endSearch_cases :
    (∃ id next, s.engine.service = some (.search id next) ∧
      s.endSearch = { s with engine := { s.engine with service := none, reading := none } }) ∨
    ((∀ id next, s.engine.service ≠ some (.search id next)) ∧ s.endSearch = s) := by
  unfold State.endSearch
  split
  · rename_i id next h
    exact .inl ⟨id, next, h, rfl⟩
  · rename_i h
    exact .inr ⟨fun id next e => h id next e, rfl⟩

theorem State.endSearch_frame : { s.endSearch with engine := s.engine } = s := by
  rcases s.endSearch_cases with ⟨_, _, _, h⟩ | ⟨_, h⟩ <;> rw [h]

/-- No halt is complete while a swap request is served. -/
theorem State.haltDone_service (h : s.haltDone = true) : s.engine.service = none := by
  simp only [State.haltDone, Bool.and_eq_true, Option.isNone_iff_eq_none] at h
  exact h.1.1.2

theorem State.watchMarks_watch (s : State) (id : Nat) (old new : WatchState) : (s.watchMarks id old new).watch = s.watch := by
  unfold State.watchMarks
  dsimp only
  (repeat' split) <;> simp

/-- A change of watch state rests, for what it makes of the Watch Unit, on that unit alone. -/
theorem State.watchTo_watch {s t : State} (h : s.watch = t.watch) (id : Nat) (new : WatchState) (n : Nat) :
    (s.watchTo id new n).watch = (t.watchTo id new n).watch := by
  have hr : s.watchRec id = t.watchRec id := by unfold State.watchRec; rw [h]
  unfold State.watchTo
  rw [hr]
  cases t.watchRec id with
  | none => exact h
  | some r => dsimp only; split <;> simp [State.watchMarks_watch, State.onRec, h]

/-- What the Watch Unit makes of the engine's answers rests on its own state and on the answers alone. -/
theorem State.takeAnswer_watch {s t : State} (h : s.watch = t.watch) (a : SwapAnswer) :
    (s.takeAnswer a).watch = (t.takeAnswer a).watch := by
  have hr : s.watchRec a.id = t.watchRec a.id := by unfold State.watchRec; rw [h]
  have hm : ((s.onRec a.id fun r => { r with swaps := min 7 (r.swaps + 1) }).mark (.carrier a.id)).watch =
      ((t.onRec a.id fun r => { r with swaps := min 7 (r.swaps + 1) }).mark (.carrier a.id)).watch := by
    simp [State.onRec, h]
  unfold State.takeAnswer
  rw [hr]
  cases t.watchRec a.id with
  | none => exact h
  | some r =>
    dsimp only
    split
    · split
      · exact State.watchTo_watch hm _ _ _
      · exact hm
    · split
      · exact State.watchTo_watch h _ _ _
      · exact h

theorem State.takeAnswers_watch {s t : State} (h : s.watch = t.watch) (g : s.swapAnswers = t.swapAnswers) :
    s.takeAnswers.watch = t.takeAnswers.watch := by
  unfold State.takeAnswers
  rw [g]
  generalize t.swapAnswers = l
  have h' : ({ s with swapAnswers := [] } : State).watch = ({ t with swapAnswers := [] } : State).watch := h
  revert h'
  generalize ({ s with swapAnswers := [] } : State) = u
  generalize ({ t with swapAnswers := [] } : State) = v
  intro h'
  induction l generalizing u v with
  | nil => exact h'
  | cons a l ih => exact ih _ _ (State.takeAnswer_watch h' a)

end Sys2Proof.Machine
end

