-- ==== Sys2Proof/Laws/Sparse.lean ====
section
/-! SUPPORT. Laws of sparse tables and of shared memory: a read after a write, and the canonical form. -/

namespace Sys2Proof.Machine

variable {β : Type}

@[simp] theorem sparseGet_nil (d : β) (k : Nat) : sparseGet d [] k = d := rfl

theorem sparseGet_put (d : β) (m : Sparse β) (k : Nat) (v : β) (j : Nat) :
    sparseGet d (sparsePut m k v) j = if j = k then v else sparseGet d m j := by
  induction m with
  | nil => simp [sparsePut, sparseGet]
  | cons e m ih =>
    obtain ⟨k', v'⟩ := e
    by_cases h1 : k < k'
    · simp [sparsePut, h1, sparseGet]
    · by_cases h2 : k = k'
      · subst h2; by_cases hj : j = k <;> simp [sparsePut, sparseGet, hj]
      · by_cases hj : j = k'
        · subst hj; simp [sparsePut, h1, h2, sparseGet, Ne.symm h2]
        · simp [sparsePut, h1, h2, sparseGet, ih, hj]

theorem sparseGet_filter (d : β) (m : Sparse β) (p : Nat → Bool) (j : Nat) :
    sparseGet d (m.filter fun e => p e.1) j = if p j then sparseGet d m j else d := by
  induction m with
  | nil => simp
  | cons e m ih =>
    obtain ⟨k', v'⟩ := e
    by_cases hp : p k'
    · rw [List.filter_cons_of_pos (by simpa using hp)]
      simp only [sparseGet, ih]
      by_cases hj : j = k'
      · subst hj; simp [hp]
      · simp [hj]
    · rw [List.filter_cons_of_neg (by simpa using hp), ih]
      by_cases hj : j = k'
      · subst hj; simp [hp]
      · simp [sparseGet, hj]

/-- A read of a table after a write: the value written at its key, and every other key as before. -/
theorem sparseGet_set [DecidableEq β] (d : β) (m : Sparse β) (k : Nat) (v : β) (j : Nat) :
    sparseGet d (sparseSet d m k v) j = if j = k then v else sparseGet d m j := by
  unfold sparseSet
  split_ifs with hv hj hj
  · rw [sparseErase, sparseGet_filter d m (fun x => x != k) j]; simp [hj, hv]
  · rw [sparseErase, sparseGet_filter d m (fun x => x != k) j]; simp [hj]
  · rw [sparseGet_put]; simp [hj]
  · rw [sparseGet_put]; simp [hj]

@[simp] theorem sparseGet_set_same [DecidableEq β] (d : β) (m : Sparse β) (k : Nat) (v : β) :
    sparseGet d (sparseSet d m k v) k = v := by simp [sparseGet_set]

theorem sparseGet_set_other [DecidableEq β] (d : β) (m : Sparse β) (k : Nat) (v : β) (j : Nat) (h : j ≠ k) :
    sparseGet d (sparseSet d m k v) j = sparseGet d m j := by simp [sparseGet_set, h]

/-! ### The canonical form -/

theorem keysFrom_mono {m : Sparse β} {a b : Nat} (h : a ≤ b) (hb : keysFrom b m = true) : keysFrom a m = true := by
  cases m with
  | nil => rfl
  | cons e m => simp only [keysFrom, Bool.and_eq_true, decide_eq_true_eq] at hb ⊢; exact ⟨by omega, hb.2⟩

theorem keysFrom_filter {m : Sparse β} (p : Nat × β → Bool) {a : Nat} (h : keysFrom a m = true) :
    keysFrom a (m.filter p) = true := by
  induction m generalizing a with
  | nil => exact h
  | cons e m ih =>
    simp only [keysFrom, Bool.and_eq_true, decide_eq_true_eq] at h
    by_cases hp : p e
    · rw [List.filter_cons_of_pos hp]
      simp only [keysFrom, Bool.and_eq_true, decide_eq_true_eq]
      exact ⟨h.1, ih h.2⟩
    · rw [List.filter_cons_of_neg hp]
      exact ih (keysFrom_mono (by omega) h.2)

theorem keysFrom_put {m : Sparse β} {a k : Nat} (v : β) (hk : a ≤ k) (h : keysFrom a m = true) :
    keysFrom a (sparsePut m k v) = true := by
  induction m generalizing a with
  | nil => simp [sparsePut, keysFrom, hk]
  | cons e m ih =>
    obtain ⟨k', v'⟩ := e
    simp only [keysFrom, Bool.and_eq_true, decide_eq_true_eq] at h
    unfold sparsePut
    split_ifs with h1 h2
    · simp only [keysFrom, Bool.and_eq_true, decide_eq_true_eq]; exact ⟨hk, by omega, h.2⟩
    · subst h2; simp only [keysFrom, Bool.and_eq_true, decide_eq_true_eq]; exact ⟨hk, h.2⟩
    · simp only [keysFrom, Bool.and_eq_true, decide_eq_true_eq]; exact ⟨h.1, ih (by omega) h.2⟩

theorem mem_sparsePut {m : Sparse β} {k : Nat} {v : β} {e : Nat × β} (h : e ∈ sparsePut m k v) :
    e = (k, v) ∨ e ∈ m := by
  induction m with
  | nil => simpa [sparsePut] using h
  | cons x m ih =>
    obtain ⟨k', v'⟩ := x
    unfold sparsePut at h
    split_ifs at h <;> simp only [List.mem_cons] at h ⊢ <;> tauto

/-- A write keeps the canonical form. -/
theorem sparseWf_set [DecidableEq β] {d : β} {m : Sparse β} (k : Nat) (v : β) (h : sparseWf d m = true) :
    sparseWf d (sparseSet d m k v) = true := by
  simp only [sparseWf, Bool.and_eq_true, List.all_eq_true, decide_eq_true_eq] at h ⊢
  unfold sparseSet
  split_ifs with hv
  · exact ⟨keysFrom_filter _ h.1, fun e he => h.2 e (List.mem_filter.mp he).1⟩
  · refine ⟨keysFrom_put v (Nat.zero_le _) h.1, fun e he => ?_⟩
    rcases mem_sparsePut he with rfl | he
    · exact hv
    · exact h.2 e he

theorem sparseWf_filter [DecidableEq β] {d : β} {m : Sparse β} (p : Nat × β → Bool) (h : sparseWf d m = true) :
    sparseWf d (m.filter p) = true := by
  simp only [sparseWf, Bool.and_eq_true, List.all_eq_true, decide_eq_true_eq] at h ⊢
  exact ⟨keysFrom_filter _ h.1, fun e he => h.2 e (List.mem_filter.mp he).1⟩

/-! ### Shared memory -/

theorem memWf_write {m : Sparse Byte} (a : Nat) (bs : List Byte) (h : Memory.wf m = true) :
    Memory.wf (memWrite m a bs) = true := by
  induction bs generalizing m a with
  | nil => exact h
  | cons b bs ih => exact ih (a + 1) (sparseWf_set _ _ h)

theorem memWf_hostStores {m : Sparse Byte} (ws : List (Nat × Byte)) (h : Memory.wf m = true) :
    Memory.wf (hostStores m ws) = true := by
  unfold hostStores
  induction ws generalizing m with
  | nil => exact h
  | cons w ws ih => exact ih (sparseWf_set _ _ h)

theorem memWf_store {m : Sparse Byte} (t : Transfer) (n : Nat) (h : Memory.wf m = true) :
    Memory.wf (t.store m n) = true := by
  unfold Transfer.store
  split_ifs
  · exact memWf_write _ _ h
  · exact h

/-- What a store of bytes leaves at an address: the byte stored there, or what stood there before. The area
lies within the address space. -/
theorem sparseGet_memWrite (m : Sparse Byte) (a : Nat) (bs : List Byte) (x : Nat)
    (h : a + bs.length ≤ Config.addresses) :
    sparseGet unwritten (memWrite m a bs) x =
      if a ≤ x ∧ x < a + bs.length then bs.getD (x - a) 0 else sparseGet unwritten m x := by
  induction bs generalizing m a with
  | nil => simp [memWrite]
  | cons b bs ih =>
    simp only [List.length_cons] at h
    have ha : a % Config.addresses = a := Nat.mod_eq_of_lt (by omega)
    rw [memWrite, ih _ _ (by omega), sparseGet_set, ha, List.length_cons]
    by_cases h1 : x = a
    · subst h1; simp
    · by_cases h2 : a + 1 ≤ x ∧ x < a + 1 + bs.length
      · rw [if_pos h2, if_pos (by omega)]
        obtain ⟨n, rfl⟩ : ∃ n, x = a + 1 + n := ⟨x - (a + 1), by omega⟩
        have e1 : a + 1 + n - (a + 1) = n := by omega
        have e2 : a + 1 + n - a = n + 1 := by omega
        rw [e1, e2, List.getD_cons_succ]
      · rw [if_neg h2, if_neg h1, if_neg (by omega)]

end Sys2Proof.Machine
end

