-- ==== Sys2Proof/Laws/Closed.lean ====
section
/-! SUPPORT. What every command but RESET keeps: a property of the tables that survives each admissible change of one
table (`Closed`) survives each operation of the blocks and each command. First, what those changes are. -/

namespace Sys2Proof.Machine


/-! ### Lines -/

/-- A line that has no more entries queued than before, and the same racks in its roster. -/
def Line.Shrinks (l' l : Line) : Prop :=
  l'.live.length ≤ l.live.length ∧ l'.plan.length ≤ l.plan.length ∧
    l'.roster.map RosterEntry.addr = l.roster.map RosterEntry.addr

theorem Line.Shrinks.refl (l : Line) : l.Shrinks l := ⟨le_refl _, le_refl _, rfl⟩

theorem Line.Shrinks.trans {a b c : Line} (h : a.Shrinks b) (g : b.Shrinks c) : a.Shrinks c :=
  ⟨h.1.trans g.1, h.2.1.trans g.2.1, h.2.2.trans g.2.2⟩

theorem Line.Shrinks.queueOk {l' l : Line} (h : l'.Shrinks l) (hq : l.queueOk) : l'.queueOk := by
  obtain ⟨h1, h2, -⟩ := h
  unfold Line.queueOk Line.queued at *
  omega

theorem Line.Shrinks.rosterOk {l' l : Line} (h : l'.Shrinks l) (hr : l.rosterOk) : l'.rosterOk := by
  have hl := congrArg List.length h.2.2
  rw [List.length_map, List.length_map] at hl
  refine ⟨hl ▸ hr.1, h.2.2 ▸ hr.2.1, fun e he => ?_⟩
  have hm : e.addr ∈ l.roster.map RosterEntry.addr := h.2.2 ▸ List.mem_map_of_mem he
  obtain ⟨e', he', ha⟩ := List.mem_map.1 hm
  exact ha ▸ hr.2.2 e' he'

theorem Line.deliver_same (l : Line) (e : Tune) (o : TuneOutcome) :
    (l.deliver e o).live = l.live ∧ (l.deliver e o).plan = l.plan ∧ (l.deliver e o).roster = l.roster :=
  ⟨rfl, rfl, rfl⟩

theorem Line.deliver_shrinks (l : Line) (e : Tune) (o : TuneOutcome) : (l.deliver e o).Shrinks l := .refl _

theorem Line.drain_shrinks (l : Line) : l.drain.Shrinks l := by
  unfold Line.drain
  refine foldl_inv (fun l' : Line => l'.Shrinks l) (fun b a hb => (Line.deliver_shrinks b a _).trans hb) _ _ ?_
  exact ⟨Nat.zero_le _, Nat.zero_le _, rfl⟩

theorem Line.startFrame_shrinks (l : Line) : l.startFrame.Shrinks l := by
  unfold Line.startFrame; split <;> exact .refl _

theorem Line.begin_shrinks (l : Line) (t : Transaction) : (l.begin t).Shrinks l := by
  unfold Line.begin
  split
  · exact (Line.startFrame_shrinks _).trans (.refl _)
  · exact .refl _

theorem Line.takeHead_shrinks {l l' : Line} {e : Tune} (h : l.takeHead = some (e, l')) : l'.Shrinks l := by
  unfold Line.takeHead at h
  split at h <;> cases h
  · rename_i hl; exact ⟨by simp [hl], le_refl _, rfl⟩
  · rename_i hl; exact ⟨le_refl _, by simp [hl], rfl⟩

theorem Line.choose_shrinks (l : Line) : l.choose.Shrinks l := by
  unfold Line.choose
  split
  · exact .refl _
  · split
    · exact l.drain_shrinks
    · split
      · exact (Line.begin_shrinks _ _).trans (Line.takeHead_shrinks ‹_›)
      · split
        · exact (Line.begin_shrinks _ _).trans (.refl _)
        · exact .refl _

theorem Line.apply_shrinks (l : Line) (v : LineValues) : (l.apply v).Shrinks l := by
  unfold Line.apply; split <;> exact .refl _

theorem Line.setUp_shrinks (l : Line) (v : LineValues) : (l.setUp v).Shrinks l := by
  unfold Line.setUp
  dsimp only
  split
  · exact Line.apply_shrinks _ _
  · exact (Line.drain_shrinks _).trans (Line.apply_shrinks _ _)

theorem Line.endTxn_shrinks (l : Line) : l.endTxn.Shrinks l := by
  unfold Line.endTxn
  split
  · exact (Line.choose_shrinks _).trans ((Line.apply_shrinks _ _).trans (.refl _))
  · exact (Line.choose_shrinks _).trans (.refl _)

theorem Line.pollEnded_shrinks (l : Line) (b : Bool) : (l.pollEnded b).Shrinks l := by
  unfold Line.pollEnded Line.rotate; split <;> exact .refl _

theorem Line.afterFailure_shrinks (l : Line) : l.afterFailure.Shrinks l := by
  unfold Line.afterFailure
  split
  · split
    · exact .refl _
    · exact (Line.endTxn_shrinks _).trans (.refl _)
  · exact (Line.endTxn_shrinks _).trans ((Line.pollEnded_shrinks _ _).trans (.refl _))
  · exact .refl _

theorem Line.afterReply_shrinks (l : Line) (frame : List Byte) : (l.afterReply frame).Shrinks l := by
  unfold Line.afterReply
  split
  · exact (Line.endTxn_shrinks _).trans (.refl _)
  · refine (Line.endTxn_shrinks _).trans ((Line.pollEnded_shrinks _ _).trans ⟨le_refl _, le_refl _, ?_⟩)
    dsimp only
    rw [List.map_map]
    refine List.map_congr_left fun r _ => ?_
    dsimp only [Function.comp]
    split <;> rfl
  · exact .refl _

theorem Line.raise_shrinks (l : Line) (c : Counter) : (l.raise c).Shrinks l := by
  cases c <;> exact .refl _

/-- An accepted entry leaves the queue within its bounds (R133). -/
theorem Line.enqueue_ok {l : Line} {e : Tune} (ha : l.accepts e.live = true) (h : l.queueOk) : (l.enqueue e).queueOk := by
  unfold Line.accepts Config.queueCapacity Config.planLimit at ha
  unfold Line.enqueue
  unfold Line.queueOk Line.queued at *
  split at ha <;> simp_all <;> omega

/-- A new roster holds up to 8 entries, no two for one address, each address within 1..30 (R130). -/
theorem newRoster_ok (old : List RosterEntry) (addrs : List Nat) : (newRoster old addrs).length ≤ 8 ∧
    ((newRoster old addrs).map RosterEntry.addr).Nodup ∧ ∀ e ∈ newRoster old addrs, 1 ≤ e.addr ∧ e.addr ≤ 30 := by
  unfold newRoster
  refine foldl_inv (fun new : List RosterEntry => new.length ≤ 8 ∧ (new.map RosterEntry.addr).Nodup ∧
    ∀ e ∈ new, 1 ≤ e.addr ∧ e.addr ≤ 30) (fun new a hn => ?_) _ _ (by simp)
  split
  · exact hn
  · rename_i hc
    obtain ⟨hlen, hn⟩ := hn
    simp only [not_or, List.any_eq_true, not_exists, not_and, beq_iff_eq] at hc
    have ha : ((old.find? fun e => e.addr == a).getD ⟨a, .unknown, 0, 0⟩).addr = a := by
      cases hf : old.find? fun e => e.addr == a with
      | none => rfl
      | some e => simpa using List.find?_some hf
    have h8 := hc.2.2.2
    unfold Config.rosterCapacity at h8
    refine ⟨by rw [List.length_append, List.length_singleton]; omega, ?_, fun e he => ?_⟩
    · rw [List.map_append, List.nodup_append]
      refine ⟨hn.1, by simp, fun x hx y hy => ?_⟩
      simp only [List.map_cons, List.map_nil, List.mem_singleton, ha] at hy
      subst hy
      rintro rfl
      obtain ⟨e, he, hx⟩ := List.mem_map.1 hx
      exact hc.2.2.1 e he hx
    · rcases List.mem_append.1 he with he | he
      · exact hn.2 e he
      · rw [List.mem_singleton.1 he, ha]
        omega

/-! ### The Watch Unit -/

theorem State.onRec_ids (s : State) (id : Nat) (f : WatchRec → WatchRec) (hf : ∀ r, (f r).id = r.id) :
    (s.onRec id f).watch.records.map WatchRec.id = s.watch.records.map WatchRec.id := by
  simp only [State.onRec_watch, List.map_map]
  refine List.map_congr_left fun r _ => ?_
  dsimp only [Function.comp]
  split
  · exact hf r
  · rfl

theorem State.watchTo_ids (s : State) (id : Nat) (new : WatchState) (n : Nat) :
    (s.watchTo id new n).watch.records.map WatchRec.id = s.watch.records.map WatchRec.id := by
  unfold State.watchTo
  split
  · rfl
  · dsimp only
    split
    · exact State.onRec_ids _ _ _ fun _ => rfl
    · rw [State.watchMarks_watch]; exact State.onRec_ids _ _ _ fun _ => rfl

theorem State.takeAnswer_ids (s : State) (a : SwapAnswer) :
    (s.takeAnswer a).watch.records.map WatchRec.id = s.watch.records.map WatchRec.id := by
  unfold State.takeAnswer
  dsimp only
  (repeat' split) <;> simp only [State.watchTo_ids, State.mark_watch]
  all_goals exact State.onRec_ids _ _ _ fun _ => rfl

theorem State.takeAnswers_ids (s : State) :
    s.takeAnswers.watch.records.map WatchRec.id = s.watch.records.map WatchRec.id :=
  foldl_kept (β := State) State.takeAnswer (·.watch.records.map WatchRec.id) (fun _ _ => State.takeAnswer_ids _ _) _ _

/-! ### The Carrier Cache -/

theorem State.way_setWay (s : State) (set : Nat) (b : Bool) (w : Option CacheWay) (set' : Nat) (b' : Bool) :
    (s.setWay set b w).way set' b' = if set' = set ∧ b' = b then w else s.way set' b' := by
  unfold State.way State.setWay
  rw [sparseGet_set]
  refine if_congr ?_ rfl rfl
  cases b <;> cases b' <;> simp <;> omega

theorem State.cacheOk_setWay {s : State} (hc : s.cacheOk) {set : Nat} {b : Bool} {w : CacheWay}
    (hw : ∀ w', s.way set (!b) = some w' → w'.tag ≠ w.tag) : (s.setWay set b (some w)).cacheOk := by
  intro set' x y hx hy
  rw [State.way_setWay] at hx hy
  cases b <;> by_cases hs : set' = set <;> simp [hs] at hx hy
  · subst hx; subst hs; exact (hw y hy).symm
  · exact hc _ _ _ hx hy
  · subst hy; subst hs; exact hw x hx
  · exact hc _ _ _ hx hy

theorem State.cacheOk_dropWay {s : State} (hc : s.cacheOk) {set : Nat} {b : Bool} : (s.setWay set b none).cacheOk := by
  intro set' x y hx hy
  rw [State.way_setWay] at hx hy
  split at hx
  · cases hx
  · split at hy
    · cases hy
    · exact hc _ _ _ hx hy

/-! ### The Air Set -/

theorem State.airOk_filter {s : State} (h : s.airOk) (p : AirEntry → Bool) : State.airOk { s with air := s.air.filter p } :=
  ⟨(List.length_filter_le _ _).trans h.1, List.Nodup.sublist (List.filter_sublist.map _) h.2.1, h.2.2.1.filter _,
    fun e he => h.2.2.2 e (List.mem_filter.1 he).1⟩

theorem State.airOk_map {s : State} (h : s.airOk) (f : AirEntry → AirEntry) (hi : ∀ e, (f e).id = e.id)
    (hc : ∀ e, (f e).code = e.code)
    (hp : ∀ e, (e.air = .pending ↔ e.owner.isSome = true) → ((f e).air = .pending ↔ (f e).owner.isSome = true)) :
    State.airOk { s with air := s.air.map f } := by
  refine ⟨by simpa using h.1, ?_, ?_, ?_⟩
  · simp only [List.map_map]
    have : AirEntry.id ∘ f = AirEntry.id := funext hi
    rw [this]; exact h.2.1
  · refine List.pairwise_map.2 (h.2.2.1.imp fun {a b} hab => ?_)
    simpa [airBefore, hi, hc] using hab
  · intro e he
    obtain ⟨e', he', rfl⟩ := List.mem_map.1 he
    exact hp e' (h.2.2.2 e' he')

theorem mem_airInsert {e x : AirEntry} {l : List AirEntry} : x ∈ airInsert e l ↔ x = e ∨ x ∈ l := by
  induction l with
  | nil => simp [airInsert]
  | cons y l ih =>
    unfold airInsert
    split
    · simp
    · simp [ih]; tauto

theorem length_airInsert (e : AirEntry) (l : List AirEntry) : (airInsert e l).length = l.length + 1 := by
  induction l with
  | nil => rfl
  | cons y l ih => unfold airInsert; split <;> simp [ih]

theorem airInsert_perm (e : AirEntry) (l : List AirEntry) : (airInsert e l).Perm (e :: l) := by
  induction l with
  | nil => exact .refl _
  | cons y l ih =>
    unfold airInsert
    split
    · exact .refl _
    · exact (ih.cons y).trans (.swap e y l)

theorem airInsert_pairwise {e : AirEntry} {l : List AirEntry} (he : ∀ x ∈ l, x.id ≠ e.id)
    (h : l.Pairwise fun a b => airBefore a b = true) : (airInsert e l).Pairwise fun a b => airBefore a b = true := by
  induction l with
  | nil => simp [airInsert]
  | cons y l ih =>
    rw [List.pairwise_cons] at h
    unfold airInsert
    split
    · rename_i hb
      refine List.pairwise_cons.2 ⟨fun x hx => ?_, List.pairwise_cons.2 h⟩
      rcases List.mem_cons.1 hx with rfl | hx
      · exact hb
      · have := h.1 x hx
        simp only [airBefore, Bool.or_eq_true, Bool.and_eq_true, decide_eq_true_eq] at hb this ⊢
        omega
    · rename_i hb
      refine List.pairwise_cons.2 ⟨fun x hx => ?_, ih (fun x hx => he x (.tail _ hx)) h.2⟩
      rcases mem_airInsert.1 hx with rfl | hx
      · have := he y (.head _)
        simp only [airBefore, Bool.or_eq_true, Bool.and_eq_true, decide_eq_true_eq, not_or, not_and] at hb ⊢
        omega
      · exact h.1 x hx

/-- An insertion keeps the Air Set's limits and its order (R25, R26). -/
theorem State.airOk_putEntry {s : State} (h : s.airOk) {e : AirEntry}
    (he : e.air = .pending ↔ e.owner.isSome = true) : (s.putEntry e).airOk := by
  unfold State.putEntry
  split
  · exact h
  · rename_i hn
    rw [not_or] at hn
    have hid : ∀ x ∈ s.air, x.id ≠ e.id := by
      intro x hx hxe
      have := hn.1
      simp only [State.airEntry, Bool.not_eq_true, Option.isSome_eq_false_iff, Option.isNone_iff_eq_none,
        List.find?_eq_none] at this
      exact absurd hxe (by simpa using this x hx)
    refine ⟨?_, ?_, airInsert_pairwise hid h.2.2.1, ?_⟩
    · have := hn.2
      have hl : s.air.length < 200 := Nat.lt_of_not_le fun hc => this (decide_eq_true hc)
      rw [length_airInsert]; omega
    · refine ((airInsert_perm e s.air).map AirEntry.id).nodup_iff.2 ?_
      rw [List.map_cons, List.nodup_cons]
      refine ⟨fun hm => ?_, h.2.1⟩
      obtain ⟨x, hx, hxe⟩ := List.mem_map.1 hm
      exact hid x hx hxe
    · intro x hx
      rcases mem_airInsert.1 hx with rfl | hx
      · exact he
      · exact h.2.2.2 x hx

/-! ### The Spare List -/

theorem nodup_of_hasRepeat {l : List Nat} (h : hasRepeat l = false) : l.Nodup := by
  induction l with
  | nil => exact List.nodup_nil
  | cons a l ih =>
    simp only [hasRepeat, Bool.or_eq_false_iff, decide_eq_false_iff_not] at h
    exact List.nodup_cons.2 ⟨h.1, ih h.2⟩

theorem sparesOk_release {l : List Spare} {i : Nat} {sp : Spare} (hi : l[i]? = some sp)
    (h : (l.map Spare.code).Nodup ∧ (l.filterMap Spare.user).Nodup) :
    ((l.set i { sp with state := .available, user := none }).map Spare.code).Nodup ∧
    ((l.set i { sp with state := .available, user := none }).filterMap Spare.user).Nodup := by
  suffices hs : (l.set i { sp with state := .available, user := none }).map Spare.code = l.map Spare.code ∧
      ((l.set i { sp with state := .available, user := none }).filterMap Spare.user).Sublist
        (l.filterMap Spare.user) from ⟨hs.1 ▸ h.1, h.2.sublist hs.2⟩
  clear h
  induction l generalizing i with
  | nil => simp
  | cons a l ih =>
    cases i with
    | zero =>
      simp only [List.getElem?_cons_zero, Option.some.injEq] at hi
      subst hi
      refine ⟨rfl, ?_⟩
      simp only [List.set_cons_zero, List.filterMap_cons]
      split <;> simp
    | succ i =>
      have := ih (i := i) (by simpa using hi)
      refine ⟨by simp [this.1], ?_⟩
      simp only [List.set_cons_succ, List.filterMap_cons]
      split
      · exact this.2
      · exact this.2.cons_cons _

/-- A spare of a list while carrier `id` takes the one at `i` (R77). -/
theorem spareTaken_from (id i : Nat) (l : List Spare) (n : Nat) (h : (l.filterMap Spare.user).Nodup) :
    let l' := (l.zipIdx n).map fun p =>
      if p.2 = i then { p.1 with state := .used, user := some id }
      else if p.1.user = some id then { p.1 with state := .barred, user := none } else p.1
    l'.map Spare.code = l.map Spare.code ∧ (l'.filterMap Spare.user).Nodup ∧
      (∀ u ∈ l'.filterMap Spare.user, u = id ∨ u ∈ l.filterMap Spare.user) ∧
      (i < n → id ∉ l'.filterMap Spare.user) := by
  induction l generalizing n with
  | nil => simp
  | cons a l ih =>
    have hl : (l.filterMap Spare.user).Nodup :=
      h.sublist (List.Sublist.filterMap _ (List.sublist_cons_self a l))
    obtain ⟨h1, h2, h3, h4⟩ := ih (n + 1) hl
    dsimp only at h1 h2 h3 h4 ⊢
    rw [List.zipIdx_cons, List.map_cons]
    by_cases hn : n = i
    · subst hn
      simp only [if_true, List.map_cons, h1, List.filterMap_cons]
      refine ⟨trivial, List.nodup_cons.2 ⟨h4 (Nat.lt_succ_self n), h2⟩, ?_, by simp⟩
      intro u hu
      rcases List.mem_cons.1 hu with rfl | hu
      · exact .inl rfl
      · rcases h3 u hu with h | h
        · exact .inl h
        · right; split
          · exact h
          · exact List.mem_cons_of_mem _ h
    · simp only [hn, if_false]
      by_cases ha : a.user = some id
      · simp only [ha, if_true, List.map_cons, h1, List.filterMap_cons]
        refine ⟨trivial, h2, fun u hu => ?_, fun hi => h4 (by omega)⟩
        rcases h3 u hu with h | h
        · exact .inl h
        · exact .inr (List.mem_cons_of_mem _ h)
      · simp only [ha, if_false, List.map_cons, h1]
        cases hu : a.user with
        | none =>
          simp only [List.filterMap_cons, hu]
          exact ⟨trivial, h2, h3, fun hi => h4 (by omega)⟩
        | some v =>
          simp only [List.filterMap_cons, hu] at h ⊢
          rw [List.nodup_cons] at h
          have hv : v ≠ id := fun hv => ha (by rw [hu, hv])
          refine ⟨trivial, List.nodup_cons.2 ⟨fun hm => ?_, h2⟩, fun u hm => ?_, fun hi hm => ?_⟩
          · rcases h3 v hm with hm | hm
            · exact hv hm
            · exact h.1 hm
          · rcases List.mem_cons.1 hm with rfl | hm
            · exact .inr (.head _)
            · rcases h3 u hm with hm | hm
              · exact .inl hm
              · exact .inr (.tail _ hm)
          · rcases List.mem_cons.1 hm with hm | hm
            · exact hv hm.symm
            · exact h4 (by omega) hm

theorem sparesOk_taken (id i : Nat) {l : List Spare}
    (h : (l.map Spare.code).Nodup ∧ (l.filterMap Spare.user).Nodup) :
    ((spareTaken id i l).map Spare.code).Nodup ∧ ((spareTaken id i l).filterMap Spare.user).Nodup := by
  have := spareTaken_from id i l 0 h.2
  exact ⟨this.1 ▸ h.1, this.2.1⟩

/-! ### Closed properties -/

/-- The tables and lists that the invariants of Safety speak of. -/
def State.tables (s : State) :=
  (s.mem, s.bins, s.coupling, s.params, s.watch.params, s.occThreshold, s.cache, s.air, s.engine.requests,
    s.watch.records, s.spares, s.lines, s.status.marks)

/-- A property of the tables that holds after each change of one table that keeps that table's own invariant. -/
structure Closed (P : State → Prop) : Prop where
  same : ∀ {s t : State}, P s → t.tables = s.tables → P t
  changeMem : ∀ {s : State} (m : Sparse Byte), (Memory.wf s.mem = true → Memory.wf m = true) → P s →
    P { s with mem := m }
  changeBin : ∀ {s : State} (b : Nat) (v : Bin), ((s.bin b).counter ≤ 7 → v.counter ≤ 7) → P s → P (s.setBin b v)
  changeCoupling : ∀ {s : State} (k : Nat) (bs : List Byte), P s →
    P { s with coupling := loadCells k bs s.coupling }
  changeParams : ∀ {s : State} (b : OrderBody), P s → P { s with params := readParams b }
  changeWatchParams : ∀ {s : State} (f e c t l : Nat), e ≤ 255 → P s →
    P { s with watch := { s.watch with params := readWatch f e c t l } }
  changeThreshold : ∀ {s : State} (n : Nat), n ≤ 200 → P s → P { s with occThreshold := n }
  changeCache : ∀ {s : State} (c : Sparse (Option CacheWay)), (s.cacheOk → State.cacheOk { s with cache := c }) →
    P s → P { s with cache := c }
  changeAir : ∀ {s : State} (l : List AirEntry), (s.airOk → State.airOk { s with air := l }) → P s →
    P { s with air := l }
  changeRequests : ∀ {s : State} (l : List Nat), (s.requestsOk → l.length ≤ 8 ∧ l.Nodup) → P s →
    P { s with engine := { s.engine with requests := l } }
  changeRecords : ∀ {s : State} (l : List WatchRec), (s.watchOk → (l.map WatchRec.id).Nodup) → P s →
    P { s with watch := { s.watch with records := l } }
  changeSpares : ∀ {s : State} (l : List Spare),
    (s.sparesOk → (l.map Spare.code).Nodup ∧ (l.filterMap Spare.user).Nodup) → P s → P { s with spares := l }
  changeLine : ∀ {s : State} (k : Fin 4) (f : Line → Line), ((s.line k).queueOk → (f (s.line k)).queueOk) →
    ((s.line k).rosterOk → (f (s.line k)).rosterOk) → P s → P (s.onLine k f)
  changeMarks : ∀ {s : State} (l : List RecId), (s.marksOk → l.Nodup ∧ ∀ r ∈ l, r.exists = true) → P s →
    P { s with status := { s.status with marks := l } }

theorem State.tables_eq {s t : State} (h : t.control = s.control ∧ t.units = s.units ∧ t.air = s.air ∧ t.bins = s.bins ∧
    t.lines = s.lines ∧ t.spares = s.spares ∧ t.coupling = s.coupling ∧ t.params = s.params ∧ t.cache = s.cache ∧
    t.engine.requests = s.engine.requests ∧ t.watch.records = s.watch.records ∧ t.watch.params = s.watch.params ∧
    t.watch.heldTunes = s.watch.heldTunes ∧ t.swapAnswers = s.swapAnswers ∧
    t.status.marks = s.status.marks) : t.tables = s.tables := by
  obtain ⟨hc, hu, h⟩ := h
  rw [State.control_eq_iff] at hc
  rw [State.units_eq_iff] at hu
  simp [State.tables, hc, hu, h]

variable {P : State → Prop} (hP : Closed P) {s : State} (h : P s)
include hP h

theorem Closed.kept {t : State} (hk : t.control = s.control ∧ t.units = s.units ∧ t.air = s.air ∧ t.bins = s.bins ∧
    t.lines = s.lines ∧ t.spares = s.spares ∧ t.coupling = s.coupling ∧ t.params = s.params ∧ t.cache = s.cache ∧
    t.engine.requests = s.engine.requests ∧ t.watch.records = s.watch.records ∧ t.watch.params = s.watch.params ∧
    t.watch.heldTunes = s.watch.heldTunes ∧ t.swapAnswers = s.swapAnswers ∧
    t.status.marks = s.status.marks) : P t := hP.same h (State.tables_eq hk)

theorem Closed.setCause (c : Cause) : P (s.setCause c) := hP.same h rfl

theorem Closed.clearCauses (value : Word) : P (s.clearCauses value) := hP.same h rfl

theorem Closed.recordFault (addr : Nat) (kind : FaultKind) (req : Requester) : P (s.recordFault addr kind req) := hP.same h (by simp [State.tables])

theorem Closed.setMail (o : Owner) (a : Option Answer) : P (s.setMail o a) := hP.same h rfl

theorem Closed.present (o : Owner) (write : Bool) (addr len : Nat) (data : List Byte) : P (s.present o write addr len data) := hP.same h (by simp [State.tables])

theorem Closed.presentRead (o : Owner) (addr len : Nat) : P (s.presentRead o addr len) := hP.same h (by simp [State.tables])

theorem Closed.presentWrite (o : Owner) (addr : Nat) (data : List Byte) : P (s.presentWrite o addr data) := hP.same h (by simp [State.tables])

theorem Closed.serveBus  : P s.serveBus := hP.same h (by simp [State.tables])

theorem Closed.mark (r : RecId) : P (s.mark r) := by
  unfold State.mark
  split
  · rename_i hr
    refine hP.changeMarks _ (fun hm => ⟨?_, fun x hx => ?_⟩) h
    · rw [List.nodup_append]
      refine ⟨hm.1, by simp, fun a ha b hb => ?_⟩
      rw [List.mem_singleton.1 hb]
      rintro rfl
      exact hr.2 ha
    · rcases List.mem_append.1 hx with hx | hx
      · exact hm.2 x hx
      · rw [List.mem_singleton.1 hx]; exact hr.1
  · exact h

theorem Closed.markAll (rs : List RecId) : P (s.markAll rs) := foldl_inv P (fun _ r hb => hP.mark hb r) _ _ h

theorem Closed.keep (id : Nat) (k : Kept) : P (s.keep id k) := by
  unfold State.keep
  split
  · refine hP.mark (hP.same h ?_) _
    rfl
  · exact h

theorem Closed.measure (b level : Nat) : P (s.measure b level) := by
  unfold State.measure
  split
  · exact h
  · split
    · exact h
    · refine hP.changeBin _ _ (fun hv => ?_) h
      dsimp only
      split
      · exact Nat.min_le_left 7 _
      · exact (Nat.sub_le _ _).trans hv

theorem Closed.watchMark (b : Nat) : P (s.watchMark b) := hP.changeBin b _ (fun _ => Nat.le_refl 7) h

theorem Closed.beginBand (slot : Nat) (body : OrderBody) : P (s.beginBand slot body) := hP.same h rfl

theorem Closed.bandStep : P s.bandStep := by
  unfold State.bandStep
  split
  · exact h
  · rename_i b hb
    split
    · exact h
    · refine hP.same (hP.changeBin b.next (bandOp b.op (s.bin b.next)) (fun hv => ?_) h) rfl
      unfold bandOp
      split <;> simp [hv]

theorem Closed.readBin : P s.readBin := by
  unfold State.readBin
  split
  · exact hP.same h rfl
  · exact h

/-- What is done with a reading that has ended keeps what each of its ends keeps. -/
theorem Closed.withBins (x : Nat) {f : State → Bool → State} (hf : ∀ {t : State} b, P t → P (f t b)) :
    P (s.withBins x f) := by
  unfold State.withBins
  split
  · exact hP.same h rfl
  · refine hf _ (hP.same h ?_)
    rfl

theorem Closed.shrink (k : Fin 4) (f : Line → Line) (hf : (f (s.line k)).Shrinks (s.line k)) : P (s.onLine k f) :=
  hP.changeLine k f hf.queueOk hf.rosterOk h

theorem Closed.raiseCounter (k : Fin 4) (c : Counter) : P (s.raiseCounter k c) := by
  unfold State.raiseCounter
  split
  · exact hP.mark (hP.shrink h k _ (Line.raise_shrinks _ _)) _
  · exact h

theorem Closed.rackChanged (k : Fin 4) (addr : Nat) (old new : RackState) : P (s.rackChanged k addr old new) := by
  unfold State.rackChanged
  have hm := hP.markAll (hP.mark h (.line k))
    ((s.stagesServed fun r => decide (r.line = k ∧ r.addr = addr)).map RecId.stage)
  dsimp only
  split
  · exact h
  · split
    · exact hP.shrink (hP.setCause (by simpa [State.stagesServed] using hm) _) k _ ⟨le_refl _, le_refl _, rfl⟩
    · split
      · exact hP.shrink (by simpa [State.stagesServed] using hm) k _ ⟨le_refl _, le_refl _, rfl⟩
      · simpa [State.stagesServed] using hm

theorem Closed.judgeRack (k : Fin 4) (addr : Nat) (good : Bool) : P (s.judgeRack k addr good) := by
  unfold State.judgeRack
  split
  · exact h
  · rename_i e he
    refine hP.rackChanged (hP.shrink h k _ ⟨le_refl _, le_refl _, ?_⟩) _ _ _ _
    have ha : e.addr = addr := by simpa using List.find?_some he
    dsimp only
    rw [List.map_map]
    refine List.map_congr_left fun r _ => ?_
    dsimp only [Function.comp]
    split
    · rename_i hr; unfold RosterEntry.judged; split <;> simp [ha, hr]
    · rfl

theorem Closed.exchangeFailed (k : Fin 4) (c : Counter) : P (s.exchangeFailed k c) := by
  unfold State.exchangeFailed
  split
  · exact h
  · exact hP.shrink (hP.judgeRack (hP.raiseCounter h _ _) _ _ _) k _ (Line.afterFailure_shrinks _)

theorem Closed.exchangeGood (k : Fin 4) (frame : List Byte) : P (s.exchangeGood k frame) := by
  unfold State.exchangeGood
  split
  · exact h
  · exact hP.shrink (hP.judgeRack h _ _ _) k _ (Line.afterReply_shrinks _ _)

theorem Closed.judgeReply (k : Fin 4) : P (s.judgeReply k) := by
  unfold State.judgeReply
  (repeat' split) <;> with_reducible apply_rules [hP.exchangeFailed, hP.exchangeGood]

theorem Closed.receive (k : Fin 4) (samples : BitVec 33) : P (s.receive k samples) := by
  have hs : ∀ p, P (s.setLine k { s.line k with phase := p }) := fun p =>
    hP.shrink h k (fun l => { l with phase := p }) ⟨le_refl _, le_refl _, rfl⟩
  unfold State.receive
  dsimp only
  (repeat' split) <;> first | exact h | exact hs _ | exact hP.raiseCounter h _ _ | exact hP.raiseCounter (hs _) _ _

theorem Closed.offer {k : Fin 4} {e : Tune} {t : State} (ho : s.offer k e = some t) : P t := by
  unfold State.offer at ho
  split at ho
  · rename_i ha
    cases ho
    refine hP.changeLine k _ (fun hq => ?_) (fun hr => ?_) h
    · exact (Line.choose_shrinks _).queueOk (Line.enqueue_ok ha hq)
    · refine (Line.choose_shrinks _).rosterOk ?_
      unfold Line.enqueue
      split <;> exact hr
  · cases ho

theorem Closed.lineSetup (slot : Nat) (b : OrderBody) : P (s.lineSetup slot b).1 := by
  refine hP.shrink h (lineOf b.p0) (fun l =>
    if l.txn.isSome then
      { l with pendingSetup := some (readLineValues (lowHalf b.p1) (paramByte b.p2 0) (paramByte b.p2 1)) }
    else l.setUp (readLineValues (lowHalf b.p1) (paramByte b.p2 0) (paramByte b.p2 1))) ?_
  split
  · exact ⟨le_refl _, le_refl _, rfl⟩
  · exact Line.setUp_shrinks _ _

theorem Closed.rackRoster (slot : Nat) (b : OrderBody) (list : List Byte) : P (s.rackRoster slot b list).1 := by
  unfold State.rackRoster
  dsimp only
  refine hP.markAll (hP.mark (hP.changeLine _ _ (fun hq => hq) (fun _ => ?_) h) _) _
  exact newRoster_ok _ _

theorem Closed.rackTune {slot : Nat} {b : OrderBody} {r : State × Completion} (hr : s.rackTune slot b = some r) : P r.1 := by
  unfold State.rackTune at hr
  dsimp only at hr
  split at hr
  · cases hr; exact h
  · rw [Option.map_eq_some_iff] at hr
    obtain ⟨t, ht, rfl⟩ := hr
    exact hP.offer h ht

theorem Closed.onRec (id : Nat) (f : WatchRec → WatchRec) (hf : ∀ r, (f r).id = r.id) : P (s.onRec id f) := by
  refine hP.changeRecords _ (fun hw => ?_) h
  rw [List.map_map]
  have : WatchRec.id ∘ (fun r => if r.id = id then f r else r) = WatchRec.id := by
    funext r; dsimp only [Function.comp]; split <;> simp [hf]
  rw [this]
  exact hw

theorem Closed.watchMarks (id : Nat) (old new : WatchState) : P (s.watchMarks id old new) := by
  unfold State.watchMarks
  dsimp only
  (repeat' split) <;> with_reducible apply_rules [hP.mark, hP.setCause]

theorem Closed.watchTo (id : Nat) (new : WatchState) (settle : Nat) : P (s.watchTo id new settle) := by
  unfold State.watchTo
  dsimp only
  (repeat' split) <;> with_reducible apply_rules [hP.onRec, hP.watchMarks]

theorem Closed.settle (id : Nat) : P (s.settle id) := by
  unfold State.settle
  (repeat' split) <;> with_reducible apply_rules [hP.watchTo]

theorem Closed.unlist (id : Nat) : P (s.unlist id) :=
  hP.changeRequests _ (fun hr => ⟨(List.length_filter_le _ _).trans hr.1, hr.2.filter _⟩) h

theorem Closed.takeAnswer (a : SwapAnswer) : P (s.takeAnswer a) := by
  unfold State.takeAnswer
  dsimp only
  (repeat' split) <;> with_reducible apply_rules [hP.mark, hP.onRec, hP.watchTo]

theorem Closed.takeAnswers : P s.takeAnswers :=
  foldl_inv P (fun _ a hb => hP.takeAnswer hb a) _ _ (hP.same h rfl)

theorem Closed.watchBegin (e : AirEntry) : P (s.watchBegin e) := by
  unfold State.watchBegin
  split
  · rename_i hn
    refine hP.mark (hP.changeRecords _ (fun hw => ?_) (hP.takeAnswers h)) _
    rw [List.map_append, State.takeAnswers_ids]
    rw [State.watchOk, State.takeAnswers_ids] at hw
    rw [List.nodup_append]
    refine ⟨hw, by simp, fun a ha b hb => ?_⟩
    simp only [List.map_cons, List.map_nil, List.mem_singleton, WatchRec.fresh] at hb
    subst hb
    rintro rfl
    obtain ⟨r, hr, hid⟩ := List.mem_map.1 ha
    have := hn.2
    simp only [State.watchRec, Option.isNone_iff_eq_none, List.find?_eq_none] at this
    exact this r hr (by simp [hid])
  · exact h

theorem Closed.watchEnd (id : Nat) : P (s.watchEnd id) := by
  unfold State.watchEnd
  have ht := hP.takeAnswers h
  have hr : ∀ p q, P { s.takeAnswers with watch := { s.takeAnswers.watch with
      records := s.takeAnswers.watch.records.filter p, heldTunes := q } } := fun p q =>
    hP.same (hP.changeRecords (s.takeAnswers.watch.records.filter p)
      (fun hw => List.Nodup.sublist (List.filter_sublist.map _) hw) ht) rfl
  dsimp only
  split
  · exact ht
  · split
    · exact hP.mark (hP.mark (hr _ _) _) _
    · exact hP.mark (hr _ _) _

theorem Closed.swapDecision (e : AirEntry) : P (s.swapDecision e) := by
  have ht := hP.takeAnswers h
  unfold State.swapDecision
  dsimp only
  split
  · exact ht
  · split
    · exact hP.watchTo ht _ _ _
    · split
      · rename_i ha
        refine hP.watchTo (hP.changeRequests _ (fun hr => ?_) ht) _ _ _
        unfold State.additionFate at ha
        split at ha
        · cases ha
        · split at ha
          · cases ha
          · rename_i hn
            have hn' := not_or.1 hn
            refine ⟨?_, ?_⟩
            · have := Nat.lt_of_not_le hn'.1
              simp only [List.length_append, List.length_singleton]
              exact this
            · rw [List.nodup_append]
              exact ⟨hr.2, by simp, fun a ha b hb => by simp at hb; subst hb; rintro rfl; exact hn'.2 ha⟩
      · exact hP.watchTo ht _ _ _
      · exact ht

theorem Closed.confirm (e : AirEntry) (c : ReportClass) : P (s.confirm e c) := by
  unfold State.confirm
  dsimp only
  (repeat' split) <;> with_reducible apply_rules [hP.watchMark, hP.watchTo, hP.swapDecision]

theorem Closed.countReport (e : AirEntry) (w : WatchRec) (c : ReportClass) : P (s.countReport e w c) := by
  unfold State.countReport
  dsimp only
  (repeat' split) <;> with_reducible apply_rules [hP.mark, hP.onRec, hP.watchTo, hP.confirm]

theorem Closed.reportFields (w : WatchRec) (r : Report) : P (s.reportFields w r) := by
  unfold State.reportFields
  dsimp only
  (repeat' split) <;> with_reducible apply_rules [hP.keep, hP.onRec]

theorem Closed.reportTo (r : Report) (e : AirEntry) : P (s.reportTo r e) := by
  unfold State.reportTo
  dsimp only
  (repeat' split) <;> with_reducible apply_rules [hP.onRec, hP.watchTo, hP.swapDecision, hP.countReport, hP.reportFields]

theorem Closed.report (k : Fin 4) (r : Report) : P (s.report k r) := foldl_inv P (fun _ e hb => hP.reportTo hb r e) _ _ h

theorem Closed.liveOutcome (m : OutcomeMsg) : P (s.liveOutcome m) := by
  unfold State.liveOutcome
  dsimp only
  (repeat' split) <;> with_reducible apply_rules [hP.watchTo, hP.settle, hP.takeAnswers]

theorem Closed.retuneNotice (id : Nat) : P (s.retuneNotice id) := by
  have ht := hP.takeAnswers h
  have hr : ∀ q, P { s.takeAnswers with watch := { s.takeAnswers.watch with heldTunes := q } } := fun q =>
    hP.same ht rfl
  unfold State.retuneNotice
  dsimp only
  split
  · exact ht
  · split
    · exact hr _
    · split
      · exact hP.settle (hP.unlist (hr _) _) _
      · exact hP.settle (hr _) _

theorem Closed.blindOne (e : AirEntry) : P (s.blindOne e) := by
  unfold State.blindOne
  (repeat' split) <;> with_reducible apply_rules [hP.watchTo, hP.unlist]

theorem Closed.blind (k : Fin 4) (addr : Nat) : P (s.blind k addr) := foldl_inv P (fun _ e hb => hP.blindOne hb e) _ _ h

theorem Closed.unblindOne (e : AirEntry) : P (s.unblindOne e) := by
  unfold State.unblindOne
  (repeat' split) <;> with_reducible apply_rules [hP.watchTo]

theorem Closed.unblind (k : Fin 4) (addr : Nat) : P (s.unblind k addr) := foldl_inv P (fun _ e hb => hP.unblindOne hb e) _ _ h

theorem Closed.haltRec (r : WatchRec) : P (s.haltRec r) := by
  unfold State.haltRec
  (repeat' split) <;> with_reducible apply_rules [hP.watchTo]

theorem Closed.watchHalt : P s.watchHalt := foldl_inv P (fun _ r hb => hP.haltRec hb r) _ _ (hP.takeAnswers h)

theorem Closed.holdTune (k : Fin 4) (t : Tune) : P (s.holdTune k t) := hP.same h rfl

theorem Closed.offerHeld (k : Fin 4) (hs : List HeldTune) : P (offerHeld k hs s) := by
  induction hs generalizing s with
  | nil => exact h
  | cons x hs ih =>
    unfold Sys2Proof.Machine.offerHeld
    split
    · split
      · exact h
      · rename_i t ht
        refine ih (s := _) (hP.same (s := t) (hP.offer h ht) ?_)
        rfl
    · exact ih h

theorem Closed.watchRoom (k : Fin 4) : P (s.watchRoom k) := hP.offerHeld h k _

theorem Closed.watchSetup (slot : Nat) (b : OrderBody) : P (s.watchSetup slot b).1 :=
  hP.changeWatchParams _ _ _ _ _ (Nat.le_of_lt_succ (Nat.mod_lt _ (by decide))) h

theorem Closed.watchRelease (slot : Nat) (b : OrderBody) : P (s.watchRelease slot b).1 := by
  unfold State.watchRelease
  dsimp only
  (repeat' split) <;> with_reducible apply_rules [hP.mark, hP.onRec, hP.watchTo]

theorem Closed.fillWay (id : Nat) (i : CarrierInfo) : P (s.fillWay id i) := by
  have hset : ∀ b, (s.hitWay id).isSome = false → P (s.setWay (cacheSet id) b (some ⟨cacheTag id, i⟩)) := by
    intro b hm
    refine hP.changeCache _ (fun hc => State.cacheOk_setWay hc ?_) h
    intro w hw
    unfold State.hitWay at hm
    cases b <;> simp only [Bool.not_false, Bool.not_true] at hw <;> intro he <;> simp [hw, he] at hm
    · split at hm <;> simp at hm
  unfold State.fillWay
  dsimp only
  split
  · exact h
  · rename_i hn
    have hn' : (s.hitWay id).isSome = false := by simpa using hn
    split
    · exact hset _ hn'
    · exact hset _ hn'
    · exact hP.same (hset _ hn') rfl

theorem Closed.dropWay (id : Nat) : P (s.dropWay id) := by
  unfold State.dropWay
  split
  · exact h
  · exact hP.changeCache _ (fun hc => State.cacheOk_dropWay hc) h

theorem Closed.updateWay (id code source : Nat) : P (s.updateWay id code source) := by
  unfold State.updateWay
  split
  · exact h
  · rename_i b _
    refine hP.changeCache _ (fun hc => ?_) h
    cases hw : s.way (cacheSet id) b with
    | none => exact State.cacheOk_dropWay hc
    | some w =>
      refine State.cacheOk_setWay hc fun w' hw' => ?_
      cases b
      · exact fun he => hc _ w w' hw hw' he.symm
      · exact hc _ w' w hw' hw

theorem Closed.setLookup (l : Option LookupStage) : P (s.setLookup l) := hP.same h rfl

theorem Closed.setWb (w : Option WriteBack) : P (s.setWb w) := hP.same h rfl

theorem Closed.flush (mask : Nat) : P (s.flush mask).1 := by
  refine hP.same (hP.changeCache (s.cache.filter fun e => (!areaFlagged mask (e.1 / 2))) (fun hc => ?_) h) rfl
  intro set a b ha hb
  have key : ∀ (b : Bool) (w : CacheWay), State.way { s with cache := s.cache.filter fun e =>
      (!areaFlagged mask (e.1 / 2)) } set b = some w → s.way set b = some w := by
    intro b w hw
    unfold State.way at hw ⊢
    rw [sparseGet_filter none s.cache (fun k => !areaFlagged mask (k / 2))] at hw
    generalize set * 2 + (if b = true then 1 else 0) = k at hw ⊢
    split at hw
    · exact hw
    · cases hw
  exact hc _ _ _ (key _ _ ha) (key _ _ hb)

theorem Closed.putEntry (e : AirEntry) (he : e.air = .pending ↔ e.owner.isSome = true) : P (s.putEntry e) := by
  have hk : s.putEntry e = { s with air := (s.putEntry e).air } := by unfold State.putEntry; split <;> rfl
  rw [hk]
  exact hP.changeAir _ (fun ha => State.airOk_putEntry ha he) h

theorem Closed.dropEntry (id : Nat) : P (s.dropEntry id) :=
  hP.changeAir _ (fun ha => State.airOk_filter ha _) h

theorem Closed.joinOnAir (id code : Nat) (i : CarrierInfo) : P (s.joinOnAir id code i) :=
  hP.mark (hP.mark (hP.watchBegin (hP.putEntry h _ (by simp [newEntry])) _) _) _

theorem Closed.joinPending (id code : Nat) (i : CarrierInfo) (slot : Nat) : P (s.joinPending id code i slot) :=
  hP.mark (hP.putEntry h _ (by simp [newEntry])) _

theorem Closed.leaveAir (id : Nat) : P (s.leaveAir id) := by
  unfold State.leaveAir
  with_reducible apply_rules [hP.mark, hP.unlist, hP.watchEnd, hP.dropEntry]

theorem Closed.withdrawOwned (slot : Nat) : P (s.withdrawOwned slot) :=
  hP.markAll (hP.changeAir _ (fun ha => State.airOk_filter ha _) h) _

theorem Closed.committed (e : AirEntry) : P (s.committed e) := by
  unfold State.committed
  with_reducible apply_rules [hP.mark, hP.watchBegin]

theorem Closed.commitOwned (slot : Nat) : P (s.commitOwned slot) :=
  foldl_inv P (fun _ e hb => hP.committed hb e) _ _ (hP.changeAir _ (fun ha => State.airOk_map ha _
    (fun e => by split <;> rfl) (fun e => by split <;> rfl) (fun e he => by split <;> simp [he])) h)

theorem Closed.setCode (id code : Nat) (f : AirEntry → AirEntry) (hf : ∀ e, (f e).air = e.air ∧ (f e).owner = e.owner) :
    P (s.setCode id code f) := by
  unfold State.setCode
  split
  · exact h
  · rename_i e he
    have hk : (s.dropEntry id).putEntry { f e with code := code, confirmed := .unconfirmed } =
        { s with air := ((s.dropEntry id).putEntry { f e with code := code, confirmed := .unconfirmed }).air } := by
      unfold State.putEntry; split <;> rfl
    rw [hk]
    refine hP.mark (hP.changeAir _ (fun ha => ?_) h) _
    refine State.airOk_putEntry (s := s.dropEntry id) (State.airOk_filter ha _) ?_
    have := ha.2.2.2 e (List.mem_of_find?_eq_some he)
    simpa [hf] using this

theorem Closed.recordOutcome (m : OutcomeMsg) : P (s.recordOutcome m) := by
  unfold State.recordOutcome
  dsimp only
  split
  · exact hP.keep h _ _
  · split
    · exact hP.keep (hP.changeAir _ (fun ha => State.airOk_map ha _ (fun e => by split <;> rfl)
        (fun e => by split <;> rfl) (fun e he => by split <;> simp [he])) h) _ _
    · exact h

theorem Closed.loadSpares (list : List (Nat × BitVec 12)) (hl : (list.map Prod.fst).Nodup) : P (s.loadSpares list) := by
  refine hP.markAll (hP.markAll (hP.changeSpares _ (fun _ => ?_) h) _) _
  rw [List.map_map, List.filterMap_map]
  refine ⟨hl, ?_⟩
  have : (List.filterMap (Spare.user ∘ fun e : Nat × BitVec 12 => (⟨e.1, e.2, .available, none⟩ : Spare)) list) = [] := by
    rw [List.filterMap_eq_nil_iff]; intros; rfl
  rw [this]
  exact List.nodup_nil

theorem Closed.releaseSpare (i : Nat) : P (s.releaseSpare i).1 := by
  unfold State.releaseSpare
  split
  · exact h
  · rename_i sp hi
    split
    · exact h
    · have hm : P (State.mark { s with spares := s.spares.set i { sp with state := .available, user := none } }
          (.spare i)) := hP.mark (hP.changeSpares _ (fun hs => sparesOk_release hi hs) h) _
      dsimp only
      split
      · exact hP.mark hm _
      · exact hm

theorem Closed.setPos (p : EnginePos) : P (s.setPos p) := hP.same h rfl

theorem Closed.setOrder (o : EngineOrder) : P (s.setOrder o) := hP.same h rfl

theorem Closed.beginWb (id code : Nat) (swap : Bool) : P (s.beginWb id code swap) := hP.kept h (State.beginWb_kept s id code swap)

theorem Closed.liveTune (id code : Nat) (rack : Option Rack) : P (s.liveTune id code rack) := by
  unfold State.liveTune
  split
  · exact h
  · dsimp only
    cases ho : State.offer s _ _ with
    | none => exact hP.holdTune h _ _
    | some t => exact hP.offer h ho

theorem Closed.answerSwap (id : Nat) (swapped : Bool) : P (s.answerSwap id swapped) :=
  hP.same (hP.unlist h id) rfl

theorem Closed.setService (v : Option Service) : P (s.setService v) := hP.same h rfl

theorem Closed.applySwap (e : AirEntry) (i : Nat) (sp : Spare) : P (s.applySwap e i sp) := by
  unfold State.applySwap
  dsimp only
  refine hP.same (hP.answerSwap (hP.liveTune (hP.changeSpares _ (fun hs => ?_)
    (hP.setCode h _ _ _ fun _ => ⟨rfl, rfl⟩)) _ _ _) e.id true) rfl
  exact sparesOk_taken _ _ hs

theorem Closed.swapChosen (e : AirEntry) (i : Nat) (sp : Spare) : P (s.swapChosen e i sp) := by
  unfold State.swapChosen
  split
  · exact hP.applySwap h _ _ _
  · exact hP.setService h _

theorem Closed.noSpare (id : Nat) : P (s.noSpare id) := by
  unfold State.noSpare
  split
  · exact hP.answerSwap (hP.setService h _) _ _
  · exact hP.setService h _

theorem Closed.serveHead : P s.serveHead := by
  unfold State.serveHead
  split
  · exact h
  · split
    · exact hP.answerSwap h _ _
    · split
      · exact hP.answerSwap h _ _
      · exact hP.setService h _

theorem Closed.serviceStep (x next : Nat) : P (s.serviceStep x next) := by
  unfold State.serviceStep
  split
  · exact hP.noSpare h _
  · split
    · exact hP.noSpare h _
    · refine hP.withBins h _ fun b ht => ?_
      split
      · exact hP.swapChosen ht _ _ _
      · exact hP.setService ht _

theorem Closed.handOver (c : Completion) : P (s.handOver c) := hP.kept h (State.handOver_kept s c)

theorem Closed.finish (o : EngineOrder) (failed : Bool) (r : ResultCode) (c1 c2 : Nat) : P (s.finish o failed r c1 c2) := hP.kept h (State.finish_kept s o failed r c1 c2)

theorem Closed.outcomesWritten (o : EngineOrder) (a : Answer) (failed : Bool) (r : ResultCode) (c1 c2 : Nat) : P (s.outcomesWritten o a failed r c1 c2) := hP.kept h (State.outcomesWritten_kept s o a failed r c1 c2)

theorem Closed.withdraw (o : EngineOrder) : P (s.withdraw o).1 := hP.withdrawOwned h _

theorem Closed.endFor (o : EngineOrder) (r : ResultCode) : P (s.endFor o r) := by
  unfold State.endFor
  dsimp only
  (repeat' split) <;> with_reducible apply_rules [hP.finish, hP.withdraw]

theorem Closed.endItems (o : EngineOrder) (good : ItemOutcome) : P (s.endItems o good) := hP.kept h (State.endItems_kept s o good)

theorem Closed.endCheck (o : EngineOrder) : P (s.endCheck o) := hP.kept h (State.endCheck_kept s o)

theorem Closed.endCommit (o : EngineOrder) : P (s.endCommit o) := hP.kept h (State.endCommit_kept s o)

theorem Closed.stepEnds (o : EngineOrder) (k : StepKind) : P (s.stepEnds o k) := hP.kept h (State.stepEnds_kept s o k)

theorem Closed.beginLookup (o : EngineOrder) (id : Nat) : P (s.beginLookup o id) := hP.kept h (State.beginLookup_kept s o id)

theorem Closed.lookupFault (o : EngineOrder) : P (s.lookupFault o) := hP.kept h (State.lookupFault_kept s o)

theorem Closed.joinItem (o : EngineOrder) (id : Nat) : P (s.joinItem o id) := hP.kept h (State.joinItem_kept s o id)

theorem Closed.joinKept (o : EngineOrder) (id : Nat) (i : CarrierInfo) : P (s.joinKept o id i) := by
  unfold State.joinKept
  dsimp only
  split
  · exact hP.setPos (hP.setOrder (hP.joinOnAir h _ _ _) _) _
  · exact hP.stepEnds (hP.joinOnAir h _ _ _) _ _

theorem Closed.joinLooked (o : EngineOrder) (id : Nat) (a : LookupAnswer) : P (s.joinLooked o id a) := by
  unfold State.joinLooked
  (repeat' split) <;> with_reducible apply_rules [hP.joinKept, hP.setPos, hP.setOrder, hP.stepEnds, hP.lookupFault]

theorem Closed.joinVerify (o : EngineOrder) (j : Joiner) : P (s.joinVerify o j) := by
  refine hP.withBins h _ fun b ht => ?_
  split
  · exact hP.stepEnds ht _ _
  · exact hP.joinKept ht _ _ _

theorem Closed.leaveItem (o : EngineOrder) (id : Nat) : P (s.leaveItem o id) := by
  unfold State.leaveItem
  (repeat' split) <;> with_reducible apply_rules [hP.leaveAir, hP.stepEnds]

theorem Closed.examineStep (o : EngineOrder) (j : Joiner) : P (s.examineStep o j) := hP.kept h (State.examineStep_kept s o j)

theorem Closed.joinerRefused (o : EngineOrder) (id : Nat) (out : ItemOutcome) (closing : Bool) :
    P (s.joinerRefused o id out closing) := by
  unfold State.joinerRefused
  dsimp only
  split
  · exact hP.finish (hP.withdraw h _) _ _ _ _ _
  · exact hP.setPos (hP.setOrder h _) _

theorem Closed.placeItem (o : EngineOrder) (id : Nat) : P (s.placeItem o id) := by
  unfold State.placeItem
  (repeat' split) <;> with_reducible apply_rules [hP.beginLookup, hP.joinerRefused]

theorem Closed.placeFound (o : EngineOrder) (id : Nat) (i : CarrierInfo) : P (s.placeFound o id i) := by
  unfold State.placeFound
  dsimp only
  (repeat' split) <;> first
    | exact hP.joinerRefused h _ _ _ _
    | exact hP.setPos (hP.setOrder h _) _

theorem Closed.placeLooked (o : EngineOrder) (id : Nat) (a : LookupAnswer) : P (s.placeLooked o id a) := by
  unfold State.placeLooked
  (repeat' split) <;> with_reducible apply_rules [hP.lookupFault, hP.joinerRefused, hP.placeFound]

theorem Closed.placeStep (o : EngineOrder) : P (s.placeStep o) := by
  unfold State.placeStep
  (repeat' split) <;> first
    | exact hP.examineStep h _ _
    | exact hP.placeItem h _ _
    | exact hP.setPos (hP.setOrder h _) _

theorem Closed.retuneFails (o : EngineOrder) (out : ItemOutcome) (r : ResultCode) (examined : Nat) : P (s.retuneFails o out r examined) := hP.kept h (State.retuneFails_kept s o out r examined)

theorem Closed.beginRetune (o : EngineOrder) : P (s.beginRetune o) := hP.kept h (State.beginRetune_kept s o)

theorem Closed.retuneLooked (o : EngineOrder) (id : Nat) (a : LookupAnswer) : P (s.retuneLooked o id a) := hP.kept h (State.retuneLooked_kept s o id a)

theorem Closed.lookedUp (o : EngineOrder) (id : Nat) (a : LookupAnswer) : P (s.lookedUp o id a) := by
  unfold State.lookedUp
  (repeat' split) <;> with_reducible apply_rules [hP.joinLooked, hP.placeLooked, hP.retuneLooked]

theorem Closed.writeConflict (o : EngineOrder) (rec : List Byte) : P (s.writeConflict o rec) := hP.kept h (State.writeConflict_kept s o rec)

theorem Closed.checkStep (o : EngineOrder) (k : StepKind) (l : List Conflict) : P (s.checkStep o k l) := hP.kept h (State.checkStep_kept s o k l)

theorem Closed.conflictWritten (o : EngineOrder) (left : List (List Byte)) (a : Answer) : P (s.conflictWritten o left a) := hP.kept h (State.conflictWritten_kept s o left a)

theorem Closed.spareStep (o : EngineOrder) : P (s.spareStep o) := hP.kept h (State.spareStep_kept s o)

theorem Closed.victimStep (o : EngineOrder) : P (s.victimStep o) := hP.kept h (State.victimStep_kept s o)

theorem Closed.beginCommit (o : EngineOrder) : P (s.beginCommit o) := by
  unfold State.beginCommit
  with_reducible apply_rules [hP.commitOwned, hP.setPos, hP.setOrder]

theorem Closed.commitRetune (o : EngineOrder) (j : Joiner) : P (s.commitRetune o j) := by
  have hm := hP.setCode h j.id j.candidate (fun e =>
    { e with tuneLow := j.info.tuneLow, tuneHigh := j.info.tuneHigh, tuneStep := j.info.tuneStep })
    fun _ => ⟨rfl, rfl⟩
  unfold State.commitRetune
  dsimp only
  exact hP.setPos (hP.setOrder (hP.retuneNotice hm _) _) _

theorem Closed.commitNext (o : EngineOrder) (left : List Nat) : P (s.commitNext o left) := hP.kept h (State.commitNext_kept s o left)

theorem Closed.commitWritten (o : EngineOrder) (left : List Nat) (a : WriteBackAnswer) : P (s.commitWritten o left a) := hP.kept h (State.commitWritten_kept s o left a)

theorem Closed.tunesSent (o : EngineOrder) : P (s.tunesSent o) := hP.kept h (State.tunesSent_kept s o)

theorem Closed.tuneNext (o : EngineOrder) (left : List Nat) : P (s.tuneNext o left) := by
  unfold State.tuneNext
  split
  · exact hP.tunesSent h _
  · split
    · exact hP.setPos h _
    · split
      · exact hP.setPos (hP.offer h ‹_›) _
      · exact hP.setPos h _

theorem Closed.goOn (o : EngineOrder) (m : NextMove) : P (s.goOn o m) := by
  unfold State.goOn
  split
  · exact hP.setPos (hP.setOrder h _) _
  · exact hP.setPos (hP.setOrder h _) _
  · split
    · exact hP.endItems h _ _
    · exact hP.endItems h _ _
    · exact hP.endCheck h _
  · exact hP.setPos (hP.setOrder h _) _
  · split
    · exact h
    · split
      · exact hP.commitRetune h _ _
      · exact hP.setPos (hP.setOrder (hP.joinPending h _ _ _ _) _) _
  · split
    · exact h
    · split
      · exact hP.retuneFails h _ _ _ _
      · exact hP.joinerRefused h _ _ _ _

theorem Closed.boundaryStop (o : EngineOrder) : P (s.boundaryStop o) := hP.kept h (State.boundaryStop_kept s o)

theorem Closed.stopRead (o : EngineOrder) (a : Answer) : P (s.stopRead o a) := hP.kept h (State.stopRead_kept s o a)

theorem Closed.decideBoundary (o : EngineOrder) : P (s.decideBoundary o) := by
  unfold State.decideBoundary
  (repeat' split) <;> with_reducible apply_rules [hP.endFor, hP.goOn]

theorem Closed.setParams (o : EngineOrder) : P (s.setParams o) := hP.finish (hP.changeParams _ h) _ _ _ _ _

theorem Closed.loadCoupling (o : EngineOrder) (bs : List Byte) : P (s.loadCoupling o bs) :=
  hP.finish (hP.changeCoupling _ _ h) _ _ _ _ _

theorem Closed.sparesLoad (o : EngineOrder) (bs : List Byte) : P (s.sparesLoad o bs) := by
  unfold State.sparesLoad
  dsimp only
  split
  · exact hP.finish h _ _ _ _ _
  · split
    · exact hP.finish h _ _ _ _ _
    · rename_i hr
      exact hP.finish (hP.loadSpares h _ (nodup_of_hasRepeat (by simpa using hr))) _ _ _ _ _

theorem Closed.sparesRelease (o : EngineOrder) : P (s.sparesRelease o) := by
  unfold State.sparesRelease
  dsimp only
  (repeat' split) <;> with_reducible apply_rules [hP.releaseSpare, hP.finish]

theorem Closed.flushCache (o : EngineOrder) : P (s.flushCache o) := by
  unfold State.flushCache
  dsimp only
  (repeat' split) <;> with_reducible apply_rules [hP.flush, hP.finish]

theorem Closed.readListA (o : EngineOrder) : P (s.readListA o) := hP.kept h (State.readListA_kept s o)

theorem Closed.readListB (o : EngineOrder) : P (s.readListB o) := hP.kept h (State.readListB_kept s o)

theorem Closed.beginOrder (o : EngineOrder) : P (s.beginOrder o) := by
  unfold State.beginOrder
  (repeat' split) <;> first
    | exact hP.setParams h _
    | exact hP.sparesRelease h _
    | exact hP.flushCache h _
    | exact hP.readListA h _
    | exact hP.readListB h _
    | exact hP.sparesLoad h _ _
    | exact hP.endItems h _ _
    | exact hP.beginRetune h _
    | exact hP.victimStep h _
    | exact hP.finish h _ _ _ _ _
    | exact hP.setPos (hP.setOrder h _) _

theorem Closed.listFault (o : EngineOrder) (aRead : Bool) : P (s.listFault o aRead) := hP.kept h (State.listFault_kept s o aRead)

theorem Closed.listARead (o : EngineOrder) (a : Answer) : P (s.listARead o a) := by
  unfold State.listARead
  (repeat' split) <;> first
    | exact hP.listFault h _ _
    | exact hP.loadCoupling h _ _
    | exact hP.sparesLoad h _ _
    | exact hP.readListB h _
    | exact hP.setPos (hP.setOrder h _) _

theorem Closed.listBRead (o : EngineOrder) (a : Answer) : P (s.listBRead o a) := hP.kept h (State.listBRead_kept s o a)

theorem Closed.joinStep (o : EngineOrder) : P (s.joinStep o) := by
  unfold State.joinStep
  (repeat' split) <;> with_reducible apply_rules [hP.stepEnds, hP.joinItem, hP.joinVerify]

theorem Closed.leaveStep (o : EngineOrder) : P (s.leaveStep o) := by
  unfold State.leaveStep
  (repeat' split) <;> with_reducible apply_rules [hP.stepEnds, hP.leaveItem]

theorem Closed.beginStep (o : EngineOrder) : P (s.beginStep o) := by
  unfold State.beginStep
  (repeat' split) <;> with_reducible apply_rules [hP.finish, hP.stepEnds, hP.joinStep, hP.leaveStep, hP.examineStep, hP.placeStep, hP.spareStep, hP.victimStep, hP.beginCommit]

theorem Closed.setSweep (u : Sweep) : P (s.setSweep u) := hP.same h rfl

theorem Closed.sweepTo (n : SweepCount) (p : SweepPos) : P (s.sweepTo n p) := hP.same h rfl

theorem Closed.sweepEnds (o : SweepOrder) (n : SweepCount) (failed : Bool) (r : ResultCode) : P (s.sweepEnds o n failed r) := hP.same h rfl

theorem Closed.beginPoint (n : SweepCount) : P (s.beginPoint n) := hP.same h rfl

theorem Closed.sweepTake (slot : Nat) (b : OrderBody) : P (s.sweepTake slot b) := by
  unfold State.sweepTake
  dsimp only
  split
  · refine hP.beginPoint (hP.same (hP.changeThreshold (decodeSweep slot (s.slotAddr slot) b).threshold
      (Nat.min_le_left _ _) h) ?_) _
    rfl
  · exact hP.sweepEnds h _ _ _ _

theorem Closed.storePoint (o : SweepOrder) (n : SweepCount) (level : Nat) (failed : Bool) : P (s.storePoint o n level failed) := by
  unfold State.storePoint
  with_reducible apply_rules [hP.presentWrite, hP.sweepTo]

theorem Closed.pointEnd (o : SweepOrder) (n : SweepCount) : P (s.pointEnd o n) := by
  unfold State.pointEnd
  dsimp only
  (repeat' split) <;> with_reducible apply_rules [hP.presentRead, hP.sweepTo, hP.sweepEnds]

theorem Closed.pointStored (o : SweepOrder) (n : SweepCount) : P (s.pointStored o n) := by
  unfold State.pointStored
  dsimp only
  split
  · exact hP.pointEnd (hP.measure h _ _) _ _
  · exact hP.presentWrite (hP.sweepTo (hP.measure h _ _) _ _) _ _ _

theorem Closed.passWritten (o : SweepOrder) (n : SweepCount) (a : Answer) : P (s.passWritten o n a) := by
  unfold State.passWritten
  split
  · exact hP.sweepEnds h _ _ _ _
  · exact hP.pointEnd h _ _

theorem Closed.pointStop (o : SweepOrder) (n : SweepCount) (a : Answer) : P (s.pointStop o n a) := by
  unfold State.pointStop
  (repeat' split) <;> with_reducible apply_rules [hP.sweepEnds, hP.beginPoint]

theorem Closed.setJob (j : SettingsJob) : P (s.setJob j) := hP.same h rfl

theorem Closed.settingsTake (slot : Nat) (b : OrderBody) : P (s.settingsTake slot b) := by
  unfold State.settingsTake
  with_reducible apply_rules [hP.presentRead, hP.setJob]

theorem Closed.settingsEnds (c : Completion) : P (s.settingsEnds c) := hP.same h rfl

theorem Closed.settingsGo  : P s.settingsGo := by
  unfold State.settingsGo
  (repeat' split) <;> with_reducible apply_rules [hP.setMail, hP.setJob, hP.settingsEnds]

theorem Closed.setBoardPos (p : BoardPos) : P (s.setBoardPos p) := hP.same h rfl

theorem Closed.trigger  : P s.trigger := hP.kept h (State.trigger_kept s)

theorem Closed.surveyEnds  : P s.surveyEnds := hP.same h rfl

theorem Closed.advanceCursor (slot : Nat) : P (s.advanceCursor slot) := hP.kept h (State.advanceCursor_kept s slot)

theorem Closed.writeResult (c : Completion) (p : BoardPos) : P (s.writeResult c p) := hP.kept h (State.writeResult_kept s c p)

theorem Closed.writeState (slot code : Nat) (p : BoardPos) : P (s.writeState slot code p) := hP.kept h (State.writeState_kept s slot code p)

theorem Closed.answered (p : BoardPos) : P (s.answered p) := hP.kept h (State.answered_kept s p)

theorem Closed.listEnded (c : Completion) : P (s.listEnded c) := hP.kept h (State.listEnded_kept s c)

theorem Closed.carry (c : Candidate) : P (s.carry c).1 := by
  unfold State.carry
  (repeat' split) <;> with_reducible apply_rules [hP.lineSetup, hP.watchSetup, hP.watchRelease]

theorem Closed.chooseStep (sound : List Candidate) : P (s.chooseStep sound) := by
  unfold State.chooseStep
  split
  · exact hP.surveyEnds h
  · split
    · exact hP.surveyEnds h
    · split
      · split
        · exact hP.setBoardPos h _
        · exact hP.writeState (hP.rackTune h ‹_›) _ _ _
      · exact hP.writeState h _ _ _

theorem Closed.tuneTaken (n : Completion) (sound : List Candidate) (a : Answer) : P (s.tuneTaken n sound a) := hP.kept h (State.tuneTaken_kept s n sound a)

theorem Closed.statesStep (next : Nat) (found : List Nat) : P (s.statesStep next found) := hP.kept h (State.statesStep_kept s next found)

theorem Closed.bodiesStep (left : List Nat) (sound : List Candidate) : P (s.bodiesStep left sound) := hP.kept h (State.bodiesStep_kept s left sound)

theorem Closed.bodyRead (slot : Nat) (left : List Nat) (sound : List Candidate) (bs : List Byte) : P (s.bodyRead slot left sound bs) := hP.kept h (State.bodyRead_kept s slot left sound bs)

theorem Closed.boardHalt : P s.boardHalt := hP.same h rfl

theorem Closed.bumpSeq (r : RecId) : P (s.bumpSeq r) := hP.same h rfl

theorem Closed.setStatusJob (j : StatusJob) : P (s.setStatusJob j) := hP.same h rfl

theorem Closed.endSearch : P s.endSearch := by
  unfold State.endSearch
  split
  · exact hP.same h rfl
  · exact h

theorem Closed.fallOfRun : P s.fallOfRun :=
  hP.watchHalt (hP.same (hP.changeRequests [] (fun _ => by simp) h) rfl)

theorem Closed.sweepHalt : P s.sweepHalt := hP.same h rfl

theorem Closed.beginHalt : P s.beginHalt :=
  hP.sweepHalt (hP.boardHalt (hP.same (hP.fallOfRun h) rfl))

theorem Closed.beginStart : P s.beginStart := by
  have h' : P { s with run := .starting, runBit := true } := hP.same h rfl
  exact hP.serveBus (hP.presentRead h' _ _ _)

theorem Closed.writeRun (run : Bool) : P (s.writeRun run) := by
  unfold State.writeRun
  (repeat' split) <;> with_reducible apply_rules [hP.fallOfRun, hP.beginHalt, hP.beginStart]

theorem Closed.controlWrite (run nudge : Bool) : P (s.controlWrite run nudge) := by
  unfold State.controlWrite
  (repeat' split) <;> with_reducible apply_rules [hP.trigger, hP.writeRun]

theorem Closed.anchorFails : P s.anchorFails := by
  unfold State.anchorFails
  dsimp only
  split
  · have h' : P { s.fallOfRun.endSearch with run := .stopped } := hP.same (hP.endSearch (hP.fallOfRun h)) rfl
    exact hP.setCause h' _
  · have h' : P { s.endSearch with run := .stopped } := hP.same (hP.endSearch h) rfl
    exact hP.setCause h' _

theorem Closed.latchAnchor (a : Anchor) : P (s.latchAnchor a) := by
  unfold State.latchAnchor
  dsimp only
  refine hP.markAll (hP.same h ?_) _
  rfl

theorem Closed.enterRunning : P s.enterRunning := hP.trigger (hP.same h rfl)

/-! ### The blocks as they go on -/

theorem Closed.lookupStep {id : Nat} {t : State} (ht : (s.lookupStep id).state? = some t) : P t := by
  have hf : ∀ u : State, P u → ∀ i, P ((if u.params.cacheOff = true then u else u.fillWay id i).setLookup none) := by
    intro u hu i
    split
    · exact hP.setLookup hu _
    · exact hP.setLookup (hP.fillWay hu _ _) _
  have hm : P (s.setMail .cache none) := hP.setMail h _ _
  unfold State.lookupStep State.lookupEnds State.lookupFound State.lookupEnds at ht
  dsimp only at ht
  (repeat' split at ht) <;> simp only [Progress.state?_wait, Progress.state?_more, Progress.state?_done,
    Option.some.injEq, reduceCtorEq] at ht <;> subst ht
  all_goals first
    | exact hP.setLookup h _
    | exact hP.setLookup hm _
    | exact hP.setLookup (hP.presentRead h _ _ _) _
    | exact hP.setLookup (hP.presentRead hm _ _ _) _
    | exact hP.setLookup (hP.fillWay hm _ _) _

theorem Closed.wbStep {t : State} (ht : s.wbStep.state? = some t) : P t := by
  have hm : P (s.setMail .cache none) := hP.setMail h _ _
  unfold State.wbStep State.wbFails at ht
  dsimp only at ht
  (repeat' split at ht) <;> simp only [Progress.state?_wait, Progress.state?_more, Progress.state?_done,
    Option.some.injEq, reduceCtorEq] at ht <;> subst ht
  all_goals first
    | exact hP.setWb (hP.dropWay h _) _
    | exact hP.setWb (hP.dropWay hm _) _
    | exact hP.setWb (hP.presentRead h _ _ _) _
    | exact hP.setWb (hP.presentWrite hm _ _ _) _
    | exact hP.setWb (hP.updateWay hm _ _ _) _

theorem Closed.engineMove {t : State} (hm : EngineMove s t) : P t := by
  have hmail : P (s.setMail .engine none) := hP.setMail h _ _
  cases hm with
  | served => exact hP.serveHead h
  | written _ hw => exact hP.wbStep h hw
  | swapped _ _ _ hw => exact hP.markAll (hP.mark (hP.setService (hP.wbStep h hw) _) _) _
  | searched x next => exact hP.serviceStep h x next
  | begun o _ => exact hP.beginOrder h o
  | listA o a _ => exact hP.listARead hmail o a
  | listB o a _ => exact hP.listBRead hmail o a
  | stepped o _ => exact hP.beginStep h o
  | looked _ _ hl => exact hP.lookupStep h hl
  | lookedUp o id a u _ hl => exact hP.lookedUp (hP.lookupStep h (t := u) (id := id) (by rw [hl]; rfl)) o id a
  | conflict o left a _ => exact hP.conflictWritten hmail o left a
  | boundary o _ => exact hP.boundaryStop h o
  | stopped o a _ => exact hP.stopRead hmail o a
  | decided o _ => exact hP.decideBoundary h o
  | commit o left _ => exact hP.commitNext h o left
  | committed o left a u _ hw => exact hP.commitWritten (hP.wbStep h (t := u) (by rw [hw]; rfl)) o left a
  | tuned o left _ => exact hP.tuneNext h o left
  | retried left => exact hP.setPos h _
  | outcomes o a failed r c1 c2 _ => exact hP.outcomesWritten hmail o a failed r c1 c2

theorem Closed.engineGo : P s.engineGo :=
  runMicro_inv P (fun a _ hs ha => hP.engineMove ha (State.engineMicro_moves a hs)) _ s h

theorem Closed.immEnds {r : State × Completion} (hr : P r.1) (sound : List Candidate) : P (State.immEnds r sound) :=
  hP.writeResult hr _ _

theorem Closed.handHeld (d : HeldDest) (c : Candidate) : P (s.handHeld d c) := by
  unfold State.handHeld
  split
  · exact hP.engineGo (hP.setPos (hP.setOrder h _) _)
  · exact hP.sweepTake h _ _
  · exact hP.settingsGo (hP.settingsTake h _ _)

theorem Closed.takeOrder (c : Candidate) (sound : List Candidate) : P (s.takeOrder c sound) := by
  unfold State.takeOrder
  dsimp only
  have ha := hP.advanceCursor h c.slot
  split
  · refine hP.handHeld (hP.same ha ?_) _ _
    rfl
  · split
    · split
      · exact hP.immEnds h (hP.rackRoster ha _ _ _) _
      · exact hP.setBoardPos (hP.presentRead ha _ _ _) _
    · split
      · exact hP.setBoardPos (hP.beginBand ha _ _) _
      · exact hP.immEnds h (hP.carry ha _) _

theorem Closed.boardMove {t : State} (hm : BoardMove s t) : P t := by
  have hb : P (s.setMail .board none) := hP.setMail h _ _
  cases hm with
  | states next found => exact hP.statesStep h next found
  | bodies left sound => exact hP.bodiesStep h left sound
  | chosen sound => exact hP.chooseStep h sound
  | abandoned => exact hP.surveyEnds hb
  | moved p => exact hP.setBoardPos hb p
  | body slot left sound bs => exact hP.bodyRead hb slot left sound bs
  | stateWord slot code p => exact hP.writeState hb slot code p
  | answered p => exact hP.answered hb p
  | taken c sound => exact hP.takeOrder hb c sound
  | noRoster c sound => exact hP.immEnds hb (r := (s.setMail .board none, c)) hb sound
  | roster c sound bs => exact hP.immEnds hb (hP.rackRoster hb _ _ _) sound
  | result c p => exact hP.writeResult hb c p
  | tuned c sound a => exact hP.tuneTaken hb c sound a
  | band c sound =>
    refine hP.immEnds h (r := ({ s with band := none }, c)) (hP.same h ?_) sound
    rfl
  | listed c => exact hP.listEnded hb c

theorem Closed.boardGo : P s.boardGo :=
  runMicro_inv P (fun a _ hs ha => hP.boardMove ha (State.boardMicro_moves a hs)) _ s h

theorem Closed.statusGo : P s.statusGo := by
  have hk := State.statusGo_kept s
  obtain ⟨-, hu, hk⟩ := hk
  rw [State.units_eq_iff] at hu
  exact hP.same h (by simp [State.tables, hu])

theorem Closed.wake (o : Owner) : P (s.wake o) := by
  cases o with
  | anchor => exact h
  | board => exact hP.boardGo h
  | settings => exact hP.settingsGo h
  | engine => exact hP.engineGo h
  | cache => exact hP.engineGo h
  | sweep => exact h
  | status => exact hP.statusGo h

theorem Closed.endBurst (t : Transfer) : P (s.endBurst t) := by
  have hm : ∀ p q n, P { s with mem := t.store s.mem n, port := p, mail := q } := fun p q n =>
    hP.same (hP.changeMem (t.store s.mem n) (fun hw => memWf_store t n hw) h) rfl
  unfold State.endBurst
  dsimp only
  split
  · exact hm _ _ _
  · exact hm _ _ _

theorem Closed.faultBurst (t : Transfer) (k addr : Nat) (kind : FaultKind) : P (s.faultBurst t k addr kind) := by
  have hm : ∀ p n, P { s with mem := t.store s.mem n, port := p } := fun p n =>
    hP.same (hP.changeMem (t.store s.mem n) (fun hw => memWf_store t n hw) h) rfl
  exact hP.setMail (hP.recordFault (hm _ _) _ _ _) _ _

/-! ### The commands -/

theorem Closed.writeRegister (offset : Nat) (v : Word) : P (s.writeRegister offset v) := by
  unfold State.writeRegister
  split
  · exact hP.controlWrite h _ _
  · exact hP.clearCauses h _
  · exact hP.same h rfl
  · exact hP.same h rfl
  · exact h

theorem Closed.judgeAnchor (a : Answer) : P (s.judgeAnchor a) := by
  unfold State.judgeAnchor
  (repeat' split) <;> first
    | exact hP.anchorFails h
    | exact hP.latchAnchor h _

theorem Closed.sweepAt {p : SweepPos} {f : State → SweepOrder → SweepCount → State}
    (hf : ∀ o n, P (f s o n)) : P (s.sweepAt p f) := by
  unfold State.sweepAt
  (repeat' split) <;> first
    | exact h
    | exact hf _ _

theorem Closed.sweepMail {p : SweepPos} {f : State → SweepOrder → SweepCount → Answer → State}
    (hf : ∀ o n a, P (f (s.setMail .sweep none) o n a)) : P (s.sweepMail p f) := by
  unfold State.sweepMail
  split
  · exact h
  · exact hP.sweepAt h fun o n => hf o n _

theorem Closed.engineRoom (k : Fin 4) : P (s.engineRoom k) := by
  unfold State.engineRoom
  (repeat' split) <;> first
    | exact h
    | exact hP.engineGo (hP.setPos h _)

theorem Closed.grantBus (writes : List (Nat × Byte)) : P (s.grantBus writes) := by
  unfold State.grantBus
  split
  · exact hP.same (hP.changeMem (hostStores s.mem writes) (fun hw => memWf_hostStores writes hw) h) rfl
  · exact h

theorem Closed.writeOldest : P s.writeOldest := by
  unfold State.writeOldest
  split
  · exact h
  · exact hP.serveBus (hP.boardGo (hP.writeResult h _ _))

theorem Closed.takeOldest : P s.takeOldest := by
  unfold State.takeOldest
  split
  · exact h
  · refine hP.takeAnswer (hP.same h ?_) _
    rfl

theorem Closed.takeOutcome (k : Fin 4) : P (s.takeOutcome k) := by
  unfold State.takeOutcome
  split
  · exact h
  · exact hP.recordOutcome (hP.shrink h k _ ⟨le_refl _, le_refl _, rfl⟩) _

theorem Closed.takeLiveOutcome (k : Fin 4) : P (s.takeLiveOutcome k) := by
  unfold State.takeLiveOutcome
  split
  · exact h
  · exact hP.liveOutcome (hP.shrink h k _ ⟨le_refl _, le_refl _, rfl⟩) _

theorem Closed.writeHead : P s.writeHead := by
  unfold State.writeHead
  split
  · rename_i r rest base hm _
    refine hP.serveBus (hP.statusGo ?_)
    unfold State.writeRecord
    dsimp only
    refine hP.setStatusJob (hP.presentWrite (hP.bumpSeq (hP.changeMarks rest (fun hk => ?_) h) _) _ _ _) _
    rw [State.marksOk, hm] at hk
    exact ⟨(List.nodup_cons.1 hk.1).2, fun x hx => hk.2 x (.tail _ hx)⟩
  · exact h

/-! ### Ticks -/

theorem Closed.bandTick : P s.bandTick := hP.boardGo (hP.bandStep h)

theorem Closed.readTick : P s.readTick := hP.engineGo (hP.readBin h)

theorem Closed.nextBin : P s.nextBin := by
  have hu : P { s with paces := s.paces + 1 } := hP.same h rfl
  unfold State.nextBin
  dsimp only
  (repeat' split)
  · exact hP.bandTick hu
  · exact hP.readTick hu
  · exact hP.bandTick h
  · exact hP.readTick h

theorem Closed.tick : P s.tick := by
  unfold State.tick
  split
  · exact hP.serveBus (hP.nextBin h)
  · exact h

theorem Closed.ticks (n : Nat) : P (Machine.ticks n s) := by
  induction n generalizing s with
  | zero => exact h
  | succ n ih =>
    unfold Machine.ticks
    split
    · exact ih (hP.tick h)
    · exact h

theorem Closed.worked : P s.worked := hP.ticks h _

theorem Closed.whenDue {due : State → Bool} {f : State → State} (hf : ∀ {t : State}, P t → P (f t)) :
    P (s.whenDue due f) := by
  unfold State.whenDue
  (repeat' split) <;> first
    | exact h
    | exact hf h
    | exact hf (hP.worked h)

/-- Every command but RESET keeps a closed property. -/
theorem Closed.exec {c : Instr} (hc : ∀ beats, c ≠ .reset beats) {t : State} (ht : exec c s = .next t) : P t := by
  have hl : ∀ k (f : Line → Line), (f (s.line k)).Shrinks (s.line k) → P (s.onLine k f) := fun k f hf =>
    hP.shrink h k f hf
  have hsw : P (s.setMail .sweep none) := hP.setMail h _ _
  cases c with
  | reset beats => exact absurd rfl (hc beats)
  | runStart nudge => cases ht; exact hP.controlWrite h _ _
  | halt nudge => cases ht; exact hP.controlWrite h _ _
  | runZeroInStarting nudge => cases ht; exact hP.controlWrite h _ _
  | nudge run => cases ht; exact hP.controlWrite h _ _
  | clearCause value => cases ht; exact hP.clearCauses h _
  | registerWrite offset value enables =>
    cases ht; split
    · exact hP.writeRegister h _ _
    · exact h
  | anchorReadDone =>
    cases ht; split
    · split
      · exact hP.judgeAnchor (hP.setMail h _ _) _
      · exact h
    · exact h
  | statusRewriteComplete =>
    cases ht; split
    · dsimp only
      split
      · exact hP.enterRunning (hP.same h rfl)
      · exact hP.beginHalt (hP.same h rfl)
    · exact h
  | haltComplete =>
    cases ht
    refine hP.whenDue h fun ht => hP.setCause (hP.same ht ?_) _
    rfl
  | busGrant writes => cases ht; exact hP.whenDue h fun ht => hP.grantBus ht writes
  | burstComplete =>
    cases ht; split
    · exact hP.serveBus (hP.wake (hP.endBurst h _) _)
    · exact h
  | transferTimeout beats =>
    cases ht; split
    · exact hP.serveBus (hP.wake (hP.faultBurst h _ _ _ _) _)
    · exact hP.serveBus (hP.wake (hP.faultBurst h _ _ _ _) _)
    · exact h
  | busError beat =>
    cases ht; split
    · exact hP.serveBus (hP.wake (hP.faultBurst h _ _ _ _) _)
    · exact h
  | surveyTimer =>
    cases ht; split
    · exact hP.trigger h
    · exact h
  | survey =>
    cases ht; split
    · exact hP.serveBus (hP.boardGo (hP.setBoardPos h _))
    · exact h
  | surveyAgain =>
    cases ht
    refine hP.whenDue h fun ht => ?_
    split
    · exact hP.same ht rfl
    · exact hP.writeOldest ht
  | orderCompletion => cases ht; exact hP.whenDue h fun ht => hP.writeOldest ht
  | engineStepBoundary =>
    cases ht
    refine hP.whenDue h fun ht => hP.serveBus (hP.engineGo (hP.same ht ?_))
    rfl
  | swapAnswer => cases ht; exact hP.whenDue h fun ht => hP.takeOldest ht
  | queueRoomNotice k b =>
    cases ht
    refine hP.whenDue h fun {u} hu => ?_
    have hn := hP.shrink hu k (fun l => { l with roomNotices := l.roomNotices - 1 }) ⟨le_refl _, le_refl _, rfl⟩
    dsimp only
    split
    · exact hP.serveBus (hP.watchRoom (hP.engineRoom hn _) _)
    · exact hP.serveBus (hP.engineRoom (hP.watchRoom hn _) _)
  | tuneOutcomeRecord k => cases ht; exact hP.whenDue h fun ht => hP.takeOutcome ht k
  | tuningWordSent => cases ht; exact hP.sweepAt h fun _ _ => hP.same h rfl
  | lockComes => cases ht; exact hP.sweepAt h fun _ _ => hP.sweepTo h _ _
  | lockLimitExpiry => cases ht; exact hP.serveBus (hP.sweepAt h fun _ _ => hP.storePoint h _ _ _ _)
  | dwellEnd lock =>
    cases ht
    refine hP.serveBus (hP.sweepAt h fun o n => ?_)
    split
    · exact hP.sweepTo h _ _
    · exact hP.storePoint h _ _ _ _
  | conversionComplete reading => cases ht; exact hP.serveBus (hP.sweepAt h fun _ _ => hP.storePoint h _ _ _ _)
  | bufferWriteDone =>
    cases ht
    refine hP.serveBus (hP.sweepMail h fun o n a => ?_)
    split
    · exact hP.sweepEnds hsw _ _ _ _
    · exact hP.pointStored hsw _ _
  | progressWriteDone => cases ht; exact hP.serveBus (hP.sweepMail h fun _ _ _ => hP.passWritten hsw _ _ _)
  | sweepStopWordReadDone => cases ht; exact hP.serveBus (hP.sweepMail h fun _ _ _ => hP.pointStop hsw _ _ _)
  | requestFrameSent k =>
    cases ht
    exact hP.whenDue h fun ht => hP.shrink ht k _ ⟨le_refl _, le_refl _, rfl⟩
  | replyFrame k => cases ht; exact hP.judgeReply h _
  | gapTimeout k =>
    cases ht; (repeat' split) <;> first
      | exact h
      | exact hP.exchangeFailed h _ _
  | replyTimeout k =>
    cases ht; (repeat' split) <;> first
      | exact h
      | exact hP.exchangeFailed h _ _
  | failedExchangeWaitEnd k =>
    cases ht; split
    · exact hl k _ (Line.startFrame_shrinks _)
    · exact h
  | unsolicitedCharacter k samples => cases ht; exact hP.receive h _ _
  | pollTimer k =>
    cases ht; split
    · exact hl k _ ((Line.choose_shrinks _).trans (.refl _))
    · exact h
  | reportEntry k =>
    cases ht; split
    · exact h
    · exact hP.serveBus (hP.engineGo (hP.report (hl k _ ⟨le_refl _, le_refl _, rfl⟩) _ _))
  | liveTuneOutcome k => cases ht; exact hP.whenDue h fun ht => hP.takeLiveOutcome ht k
  | blindNotice k =>
    cases ht; split
    · exact hP.blind (hl k _ ⟨le_refl _, le_refl _, rfl⟩) _ _
    · exact h
  | unblindNotice k =>
    cases ht; split
    · exact hP.unblind (hl k _ ⟨le_refl _, le_refl _, rfl⟩) _ _
    · exact h
  | statusRecordWrite => cases ht; exact hP.whenDue h fun ht => hP.writeHead ht
  | settingsWriteDone =>
    simp only [Machine.exec, execSettingsWriteDone] at ht
    split at ht <;> cases ht
    · refine hP.settingsEnds (hP.same h ?_) _
      rfl
    · exact h
  | characterReceived k samples => cases ht; exact hP.receive h _ _
  | goodExchangeWaitEnd k =>
    cases ht; split
    · exact hl k _ (Line.startFrame_shrinks _)
    · exact h

end Sys2Proof.Machine
end

