-- ==== Sys2Proof/Laws/Ticks.lean ====
section
/-! SUPPORT. What a tick and a command that waits for it can do, and what the tuner takes from a word sent. -/

namespace Sys2Proof.Machine

variable (s : State)

/-! ### Ticks -/

/-- A part with no work over the map does not change at a tick. -/
theorem State.tick_of_idle (h : s.working = false) : s.tick = s := by
  simp [State.tick, h]

theorem ticks_of_idle (n : Nat) (h : s.working = false) : ticks n s = s := by
  cases n <;> simp [ticks, h]

theorem State.worked_of_idle (h : s.working = false) : s.worked = s := ticks_of_idle s _ h

/-- All that a tick can do: nothing, the next bin of the order's band, or the engine's next read; with both works
under way either, and the count of choices rises. -/
theorem State.tick_cases :
    (s.bandRuns = false ∧ s.readsBins = false ∧ s.tick = s) ∨
    (s.bandRuns = true ∧ s.readsBins = false ∧ s.tick = s.bandTick.serveBus) ∨
    (s.bandRuns = false ∧ s.readsBins = true ∧ s.tick = s.readTick.serveBus) ∨
    (s.bandRuns = true ∧ s.readsBins = true ∧
      (s.tick = { s with paces := s.paces + 1 }.bandTick.serveBus ∨
        s.tick = { s with paces := s.paces + 1 }.readTick.serveBus)) := by
  cases hb : s.bandRuns <;> cases hr : s.readsBins <;>
    simp only [State.tick, State.working, State.nextBin, hb, hr, Bool.or_true, Bool.true_or, Bool.or_self, Bool.and_self,
      Bool.and_true, Bool.true_and, if_true, if_false, Bool.false_eq_true, reduceCtorEq, false_and, false_or, or_false,
      true_and]
  cases Config.bandNext s.paces <;> simp

/-- With an empty queue the part ticks. -/
theorem step_nil (h : s.pending = []) : step s = .next s.tick := by
  unfold step; rw [h]

theorem step_cons {c : Instr} {rest : List Instr} (h : s.pending = c :: rest) :
    step s = exec c { s with pending := rest } := by
  unfold step; rw [h]

/-- All that a command of the part's own can do: it takes effect at once, or when the work over the map has ended,
or never. -/
theorem State.whenDue_cases (due : State → Bool) (f : State → State) :
    (due s = true ∧ s.whenDue due f = f s) ∨
    (due s = false ∧ due s.worked = true ∧ s.whenDue due f = f s.worked) ∨
    (due s = false ∧ due s.worked = false ∧ s.whenDue due f = s) := by
  unfold State.whenDue
  cases h : due s <;> cases g : due s.worked <;> simp

theorem State.whenDue_of_due {due : State → Bool} (f : State → State) (h : due s = true) :
    s.whenDue due f = f s := by
  simp [State.whenDue, h]

theorem State.whenDue_of_idle {due : State → Bool} (f : State → State) (h : due s = false) (hw : s.working = false) :
    s.whenDue due f = s := by
  simp [State.whenDue, h, s.worked_of_idle hw]

/-! ### The tuner (R112) -/

/-- The shift register after the bits of a list. -/
def shiftIn (v : BitVec 16) (bits : List Bool) : BitVec 16 :=
  bits.foldl (fun v b => v <<< 1 ||| (if b then 1 else 0)) v

/-- Bits sent on the line, each after CLK low: the tuner shifts them in. -/
theorem Tuner.sees_bits (b : Bool) (bits : List Bool) (t : Tuner) (h : t.line.latch = false) :
    ((b :: bits).flatMap tunerBit).foldl Tuner.sees t =
      ⟨⟨true, (b :: bits).getLast (List.cons_ne_nil _ _), false⟩, shiftIn t.shift (b :: bits), t.word⟩ := by
  induction bits generalizing t b with
  | nil => simp [tunerBit, Tuner.sees, shiftIn, h]
  | cons c cs ih =>
    rw [List.flatMap_cons, List.foldl_append, ih _ _ rfl]
    simp [tunerBit, Tuner.sees, shiftIn, h]

theorem oneBit_getElem (b : Bool) (i : Nat) (h : i < 16) :
    (if b = true then 1#16 else 0#16)[i] = (b && decide (i = 0)) := by
  cases b <;> simp

/-- The sixteen bits of a word, the most significant first, are the word. -/
theorem shiftIn_word (w : BitVec 16) : shiftIn 0 ((List.range 16).map fun i => w.getLsbD (15 - i)) = w := by
  apply BitVec.eq_of_getLsbD_eq
  intro i hi
  simp only [shiftIn, List.range, List.range.loop, List.map_cons, List.map_nil, List.foldl_cons, List.foldl_nil]
  interval_cases i <;> simp [oneBit_getElem]

/-- The tuner takes from the wave of a word that word, and the line ends low but for DATA (R112, log 28). -/
theorem tunerTakes_wave (l : TunerLine) (v : Option (BitVec 16)) (w : BitVec 16) (h : l.latch = false) :
    tunerTakes l v (tunerWave w) = ⟨⟨false, w.getLsbD 0, false⟩, w, some w⟩ := by
  have hb : (List.range 16).flatMap (fun i => tunerBit (w.getLsbD (15 - i))) =
      ((List.range 16).map fun i => w.getLsbD (15 - i)).flatMap tunerBit := by
    rw [List.flatMap_map]
  have hw := shiftIn_word w
  unfold tunerTakes tunerWave
  rw [hb, List.foldl_append]
  simp only [List.range, List.range.loop, List.map_cons, List.map_nil] at hw ⊢
  rw [Tuner.sees_bits _ _ _ h, hw]
  simp [Tuner.sees]

end Sys2Proof.Machine
end

