-- ==== Sys2Proof/Tests/Slice0.lean ====
section
/-! SUPPORT. Tests: ill-formed commands refused, the manual's worked examples, and for each statement with
hypotheses a state that meets them, clause by clause. -/

namespace Sys2Proof.Tests
open Sys2Proof Sys2Proof.Machine

/-! ### Well-formedness and decoding -/

theorem test_registerWrite_offset_unaligned : (Instr.registerWrite 6 0 0xF).wellFormed = false := by decide
theorem test_registerWrite_offset_above_window : (Instr.registerWrite 32 0 0xF).wellFormed = false := by decide
theorem test_registerWrite_last_register : (Instr.registerWrite 28 0 0xF).wellFormed = true := by decide
theorem test_reset_seventeen_beats : (Instr.reset 17).wellFormed = false := by decide
theorem test_transferTimeout_seventeen_beats : (Instr.transferTimeout 17).wellFormed = false := by decide
theorem test_busError_beat_sixteen : (Instr.busError 16).wellFormed = false := by decide
theorem test_busGrant_store_outside_memory : (Instr.busGrant [(4294967296, 1)]).wellFormed = false := by decide
theorem test_busGrant_last_byte : (Instr.busGrant [(4294967295, 1)]).wellFormed = true := by decide

/-- The table gives its rows no bits. -/
theorem test_no_word_spells_a_command : decodeTableWord 16 1 = none := by decide

/-! ### States -/

/-- What a command leads to. -/
def after (c : Instr) (s : State) : State :=
  match exec c s with
  | .next t => t
  | _ => s

/-- Commands in turn. -/
def afterAll (cs : List Instr) (s : State) : State := cs.foldl (fun s c => after c s) s

/-- A part in RUNNING whose window 0 is the first 16 MiB. -/
def running : State :=
  { State.reset with
    run := .running
    runBit := true
    latch := ⟨12, 0x3000, 0x2000, 16, some 0x10000⟩
    windows := Vector.replicate 4 ⟨0, 16777216, .readWrite⟩ }

/-- A line's state at a state. -/
def withLine (k : Fin 4) (f : Line → Line) (s : State) : State := s.onLine k f

/-- An Air Set entry of a class-2 microphone, watched, with AUTO_SWAP. -/
def entry (id stage code : Nat) (rack : Option Rack) : AirEntry :=
  ⟨id, stage, code, 7, .mic, false, true, true, 1000, 1400, 1, rack, .onAir, .unconfirmed, none⟩

/-- Carrier 0:03 at 1200 on line 0, rack 5, slot 3. -/
def onAir : State := { running with air := [entry 3 0 1200 (some ⟨0, 5, 3⟩)] }

/-- The body of an order with nothing in it but its kind. -/
def body (kind : Nat) : OrderBody := ⟨0, kind, 0, 0, 0, 0, 0, 0, 0, 0, 0, 0, 0⟩

/-- The engine holding an order at a boundary. -/
def atBoundary (o : EngineOrder) (s : State) : State :=
  { s with engine := { s.engine with order := some o, pos := .boundary } }

/-- A burst of a transfer, granted. -/
def granted (x : Transfer) (s : State) : State := { s with port := ⟨[x], .granted x.owner.source, .status⟩ }

/-- A sweep order for points 5000, 5003, ..., 5012. -/
def sweepOrder : SweepOrder := ⟨2, 0x2080, 5000, 5012, 3, 2, 2, 10, 60, 0x7000, 5⟩

/-- The counters at point `index` of the five. -/
def point (index : Nat) : SweepCount := { SweepCount.reset with points := 5, index := index }

/-- The Sweep Unit at a position. -/
def sweeping (n : SweepCount) (p : SweepPos) (s : State) : State :=
  { s with sweep := { s.sweep with order := some sweepOrder, count := n, pos := p } }

/-- The samples of a clean character. -/
def samples (b : Byte) (mark : Bool) : BitVec 33 :=
  BitVec.ofNat 33 ((charBits b mark).mapIdx fun i x => if x then 7 * 8 ^ i else 0).sum

/-- A TUNE of carrier 0:03 to 1200. -/
def tune (live : Bool) : Tune := ⟨live, 5, 3, 3, 1200⟩

/-- Line 0 awaiting the reply to a TUNE. -/
def tuning (a : Assembler) (live : Bool) (n : Nat) : State :=
  withLine 0 (fun l => { l with phase := .awaiting a, txn := some (.tune (tune live) n) }) onAir

/-- A watch record. -/
def watched (state : WatchState) (run : Nat) : WatchRec := ⟨3, state, run, 0, 0, none, none⟩

/-- Carrier 0:03 watched, in a state. -/
def watching (state : WatchState) (run : Nat) (s : State) : State :=
  { s with watch := { s.watch with records := [watched state run] } }

/-- The anchor of 11.1: layout 3, six stages, eight slots, window 0 of 1 MiB. -/
def anchorBytes : List Byte :=
  [3, 0, 6, 8, 0, 0x20, 0, 0, 0, 0x30, 0, 0, 0, 0, 1, 0, 0, 0, 0, 0, 0, 0, 0x10, 0, 2, 0, 0, 0] ++ List.replicate 36 0

/-! ### The manual's worked examples -/

/-- R13: products are not reduced to the grid. -/
theorem test_products_are_exact :
    t3Product ⟨1, 8959, 0, 2⟩ ⟨2, 0, 0, 2⟩ = 17918 ∧ t5Product ⟨1, 0, 0, 2⟩ ⟨2, 8959, 0, 2⟩ = -17918 := by decide

/-- 1.6: carriers A, B and V with the isolation of stages 0 and 1 at 15 give the two conflicts of its table, and none
at V with an isolation of 17. -/
theorem test_worked_case :
    let site := fun (i : Nat) => { running with
      coupling := [(1, i), (12, i)]
      air := [{ entry 263 1 1185 none with power := 4 }, { entry 3 0 1200 none with power := 10 },
        { entry 4 0 1216 none with power := 4 }] }
    let found := fun (s : State) => s.air.flatMap fun e => s.entryConflicts e (s.occupied e.code)
    found (site 15) = [⟨.t3, 263, 1, 3, 4, 65535, 1184, -21⟩, ⟨.t3, 4, 0, 3, 263, 65535, 1215, 9⟩] ∧
    (found (site 17)).all (fun c => decide (c.victim ≠ 263)) = true := by decide +kernel

/-- 2.2, a coupling list of 144 bytes: clamped cells stored as 63, the diagonal ignored. -/
def couplingList : List Byte :=
  (List.range 144).map fun i =>
    if i = 0 then 5 else if i = 43 then 80 else if i = 87 then 63 else if i = 65 then 200 else 0

theorem test_coupling_counts : cellsClamped 0 couplingList = 3 ∧ cellsWritten 144 = 132 ∧ cellsWritten 30 = 27 := by
  decide +kernel

/-- 11.4 and 5: two hits make a bin MARKED at 4. -/
theorem test_two_hits_mark :
    (((running.measure 1252 61).measure 1252 61).bin 1252).state = .marked ∧
    ((running.measure 1252 61).bin 1252).state = .clear := by decide

/-- 6, a short sweep: with carrier 4:20 on air at 5004, bin 5003 is masked; at 5009 a level of 72 is a hit. -/
theorem test_masked_measurement :
    let s := { running with air := [entry 1044 4 5004 none] }
    ((s.measure 5003 130).bin 5003).counter = 0 ∧ ((s.measure 5009 72).bin 5009).counter = 2 := by decide

/-- 6: a SWEEP of 100..50 fails check 2; 2000..2999 on step 2 does not fit 256 bytes, on step 4 it does. -/
theorem test_sweep_checks :
    let take := fun (p0 p1 cap : Nat) => (running.sweepTake 2 { body 11 with p0 := p0, p1 := p1, capacity := cap }).sweep.pos
    take (100 + 50 * 65536) 1 100 = .idle ∧ take (2000 + 2999 * 65536) 2 256 = .idle ∧
    take (2000 + 2999 * 65536) 4 256 = .tuning ∧ take (4500 + 4500 * 65536) 9 1 = .tuning := by decide

/-- 11.5: with 2:10 at 1250 and 5:14 at 4530 on air, 1262 fails test 4 and 1268 passes every test; 1264 fails test 2
from bin 1265. -/
theorem test_retune_points :
    let s := ({ running with
      air := [entry 522 2 1250 none, entry 1294 5 4530 none]
      coupling := [(29, 50), (62, 50)] }).watchMark 1265
    let examined := fun x : Nat => s.firstFailing ⟨523, x, 2, 7⟩ (s.others 523) none (s.occupied x)
    examined 1264 = some 2 ∧ examined 1262 = some 4 ∧ examined 1268 = none := by decide

/-- 11.2: the candidates of a walk from 1250 over 1200..1300: 1250, 1251, 1249, 1252, 1248, 1253. -/
theorem test_walk_sixth_point : (List.range 6).map (startWalk 1250 1200 1300 1 none 1000).point =
    [1250, 1251, 1249, 1252, 1248, 1253] := by decide

/-- A character survives its sampling, and one sample that disagrees makes it noisy. -/
theorem test_character_samples :
    readChar (samples 0x84 true) = some ⟨0x84, true, false, false⟩ ∧
    readChar (samples 0x84 true ^^^ 8) = some ⟨0x84, true, true, false⟩ := by decide

/-- R127: the bytes of a frame sum to 0. -/
theorem test_tune_frame_sums_to_zero : byteSum (tuneFrame 5 3 1200) % 256 = 0 ∧ (tuneFrame 5 3 1200).length = 7 := by decide

/-- R136: a full report of eight moves the cursor on; one of four returns it to 0. -/
theorem test_slot_cursor : nextCursor 0 8 = 8 ∧ nextCursor 8 4 = 0 ∧ nextCursor 24 8 = 0 := by decide

/-- R133, the queue under pressure: six plan-class entries refuse a plan offer and accept a live one. -/
theorem test_queue_limits :
    let l : Line := { running.line 0 with plan := List.replicate 6 (tune false) }
    l.accepts false = false ∧ l.accepts true = true ∧ { l with live := List.replicate 2 (tune true) }.accepts true = false := by
  decide

/-- 11.1: the anchor marks 650 records and moves the base addresses in. -/
theorem test_anchor_latched :
    let a := readAnchor anchorBytes
    a.bad = false ∧ a.stages = 6 ∧ a.slots = 8 ∧ a.boardAddr = 0x2000 ∧ (a.windows.get 0).size = 0x100000 ∧
      (a.windows.get 0).access = .readWrite ∧ (a.windows.get 3).size = 0 := by decide

/-- R183: 64 bytes at an aligned address are one burst of 32-bit beats and two of 16-bit beats. -/
theorem test_bursts : burstLength 4 0x1000 64 = 64 ∧ burstLength 2 0x1000 64 = 32 ∧ burstLength 4 0x1002 64 = 62 := by decide

/-- R191: the shipped block passes its check. -/
theorem test_shipped_settings : settingsPass Settings.shipped = true ∧ readSettings Settings.shipped = WorkingCopy.factory := by
  decide

theorem test_reset_runs : after (.reset 0) running = State.resetWith Settings.shipped WorkingCopy.factory 0 [] none [] 0 := by decide +kernel
theorem test_runStart : (after (.runStart false) State.reset).port.phase = .requesting .board := by decide
theorem test_halt_runs : (after (.halt false) running).run = .halting := by decide
theorem test_anchor_write : (after (.registerWrite 0x10 0x1234 0xF) State.reset).anchor = 0x1234 := by decide
theorem test_anchor_partial_write : (after (.registerWrite 0x10 0x1234 0x3) State.reset).anchor = 0 := by decide
theorem test_interrupt :
    (after (.registerWrite 0x0C 0x1000 0xF) (running.setCause .halted)).intAsserted = true ∧
    (after (.clearCause 0x1000) (after (.registerWrite 0x0C 0x1000 0xF) (running.setCause .halted))).intAsserted = false := by
  decide

/-- R183, R184: the start's read is carried in one burst of 16 beats, and its answer is a bad anchor of zeros. -/
theorem test_start_with_empty_memory :
    let s := afterAll [.runStart false, .busGrant [], .burstComplete, .anchorReadDone] State.reset
    s.run = .stopped ∧ s.hasCause .anchorBad = true ∧ s.runBit = false := by decide +kernel

/-- R112, R113, R114: one point from its word to its byte. -/
theorem test_sweep_point :
    let s := afterAll [.tuningWordSent, .lockComes, .dwellEnd true, .conversionComplete 288] (sweeping (point 3) .tuning running)
    s.tuner = some 5009 ∧ s.port.transfers = [⟨.sweep, true, 0x7003, 1, [72]⟩] := by decide

/-- 11.2: the third bad-foreign report in a row marks the bin and requests a swap, which the idle engine answers:
no spare. -/
theorem test_third_report_requests_swap :
    let s := withLine 0 (fun l => { l with reports := [⟨5, 3, 50, false, 0⟩] }) (watching .suspect 2 onAir)
    let t := after (.reportEntry 0) s
    t.swapAnswers = [⟨3, false⟩] ∧ (t.bin 1200).counter = 7 := by decide +kernel

/-! ### Witnesses: states and operands that meet the hypotheses of each statement -/

theorem witness_StepRunsFrontCommand :
    let b : Band := ⟨1, 0, 5, 3, 4, 1⟩
    let r : BinRead := ⟨[6], false⟩
    let s := { running with band := some b, engine := { running.engine with reading := some r } }
    { running with pending := [.nudge true] }.pending = Instr.nudge true :: [] ∧ running.pending = [] ∧
    (s.pending = [] ∧ s.band = some b ∧ b.left ≠ 0 ∧ s.engine.reading = some r ∧ r.left ≠ []) := by decide

/-- A write burst in progress, and one that has not been granted. -/
theorem witness_ResetGivesResetValues :
    let x : Transfer := ⟨.engine, true, 0x401, 5, [1, 2, 3, 4, 5]⟩
    let s := granted x running
    s.port.phase = .granted .engine ∧ s.inProgress = some x ∧ x.write = true ∧ x.data.length = x.left ∧
    x.addr + x.left ≤ 2 ^ 32 ∧ 1 < burstBeatCount s.beatBytes x.addr (burstLength s.beatBytes x.addr x.left) ∧
    (running.inProgress = none ∧ running.port.phase = .free) := by decide

theorem witness_RunStartReadsAnchor :
    let busy := { State.reset with port := ⟨[], .requesting .status, .status⟩ }
    State.reset.run = .stopped ∧ State.reset.port.phase = .free ∧ State.reset.port.transfers = [] ∧
    busy.run = .stopped ∧ busy.port.phase ≠ .free := by decide

/-- A watched part in RUNNING. -/
theorem watching_ok (w : WatchState) (n : Nat) (s : State) : (watching w n s).watchOk := by
  simp [State.watchOk, watching]

theorem witness_RunZeroReachesTheBlocks :
    let s := watching .swapWait 3 { onAir with run := .starting }
    ((watching .confirmed 3 onAir).run = .running ∧ (watching .confirmed 3 onAir).watchOk) ∧
    s.run = .starting ∧ s.runBit = true ∧ s.watchOk :=
  ⟨⟨by decide, watching_ok _ _ _⟩, by decide, by decide, watching_ok _ _ _⟩

theorem witness_NudgeTriggersSurveyWhileRunning :
    let busy := { running with board := { running.board with pos := .begun } }
    (running.run = .running ∧ running.board.pos = .idle ∧ running.board.completions = []) ∧
    (busy.run = .running ∧ (busy.board.pos ≠ .idle ∨ busy.board.completions ≠ [])) ∧
    State.reset.run = .stopped ∧ { running with run := .starting }.run = .starting ∧
    { running with run := .halting }.run = .halting := by decide

theorem witness_RegisterWriteEffects : (0x7 : BitVec 4) ≠ 0xF#4 ∧ 0x1C ∈ [0x00, 0x14, 0x18, 0x1C] := by decide

theorem witness_RegistersReadTheirLayout : { running with fault := ⟨0, none, none, 255⟩ }.fault.count ≤ 255 := by decide

/-- The anchor read answered. -/
def anchored (a : Answer) : State :=
  { State.reset with run := .starting, runBit := true, mail := { Mail.empty with anchor := some a } }

theorem witness_BadAnchorReturnsToStopped :
    (anchored .fault).run = .starting ∧ (anchored .fault).mail.anchor = some .fault ∧
    (let bs := anchorBytes.set 0 2; (anchored (.ok bs)).mail.anchor = some (.ok bs) ∧ half bs 0 ≠ 3) ∧
    (let bs := anchorBytes.set 2 0; (anchored (.ok bs)).mail.anchor = some (.ok bs) ∧ byteAt bs 2 = 0) ∧
    (let bs := anchorBytes.set 3 0; (anchored (.ok bs)).mail.anchor = some (.ok bs) ∧ byteAt bs 3 = 0) ∧
    (anchored .fault).runBit = true ∧ { anchored .fault with runBit := false }.runBit = false ∧
    (anchored .fault).engine.service = none ∧
    (let s := { anchored .fault with engine := { State.reset.engine with service := some (.search 3 0) } }
     s.engine.service = some (.search 3 0) ∧ s.mail.anchor = some .fault) := by decide

/-- A carrier in CONFIRMED when a bad anchor, or the end of a start that RUN 0 has ended, brings the fall of RUN. -/
theorem witness_BadAnchorReturnsToStopped_watched :
    let s := watching .confirmed 2 (anchored .fault)
    s.watchOk ∧ s.run = .starting ∧ s.mail.anchor = some .fault ∧ s.runBit = true ∧
    (after .anchorReadDone s).watchRec 3 = some (watched .alerted 0) := ⟨watching_ok _ _ _, by decide⟩

theorem witness_GoodAnchorIsLatched :
    (anchored (.ok anchorBytes)).run = .starting ∧ (anchored (.ok anchorBytes)).mail.anchor = some (.ok anchorBytes) ∧
    half anchorBytes 0 = 3 ∧ byteAt anchorBytes 2 ≠ 0 ∧ byteAt anchorBytes 3 ≠ 0 ∧
    0 < min (byteAt anchorBytes 2) 12 := by decide

theorem witness_StartAndHaltComplete :
    let starting := { running with run := .starting, rewrite := some [] }
    let halting := { running with run := .halting }
    (starting.run = .starting ∧ starting.rewrite = some [] ∧ starting.runBit = true ∧ starting.board.pos = .idle ∧
      starting.board.completions = []) ∧
    { starting with runBit := false }.runBit = false ∧
    (halting.run = .halting ∧ halting.board.pos = .idle ∧ halting.board.completions = [] ∧ halting.engine.order = none ∧
      halting.engine.service = none ∧ halting.sweep.order = none ∧ halting.settings.job = .idle) ∧
    (let s := { halting with engine := { halting.engine with service := some (.writing 3 []) } }
     s.engine.service.isSome = true ∧ s.working = false) ∧
    { halting with board := { halting.board with pos := .begun } }.board.pos ≠ .idle ∧ halting.working = false := by
  decide

/-- R189: a start with one record of its rewrite still to be written waits. -/
theorem witness_StartAndHaltComplete_not_due :
    let s := watching .confirmed 2 { running with run := .starting, runBit := false, rewrite := some [] }
    s.watchOk ∧ s.run = .starting ∧ s.rewrite = some [] ∧ s.runBit = false ∧
    { s with rewrite := some [.line 0] }.rewrite ≠ some [] := ⟨watching_ok _ _ _, by decide⟩

theorem witness_BurstsBeginStoreAndAnswer_grant :
    { running with port := ⟨[], .requesting .board, .status⟩ }.port.phase = .requesting .board ∧
    ∀ w ∈ [(4294967295, (7 : Byte)), (0, 1)], w.1 < 2 ^ 32 := by decide

theorem witness_BurstsBeginStoreAndAnswer_store :
    let x : Transfer := ⟨.sweep, true, 4294967294, 2, [1, 2]⟩
    let s := granted x running
    s.port.phase = .granted .sweep ∧ s.inProgress = some x ∧ x.write = true ∧ x.data.length = x.left ∧
    x.addr + x.left ≤ 2 ^ 32 := by decide

theorem witness_BurstsBeginStoreAndAnswer_answer :
    let x : Transfer := ⟨.anchor, false, 0x1000, 64, []⟩
    let y : Transfer := ⟨.sweep, true, 0x7000, 1, [9]⟩
    let ok := fun (s : State) (x : Transfer) (src : Source) => s.port.phase = .granted src ∧ s.port.transfers = [x] ∧
      x.owner.source = src ∧ (x.owner = .anchor ∨ x.owner = .sweep) ∧ x.left ≤ burstLength s.beatBytes x.addr x.left
    ok (granted x running) x .board ∧ ok (granted y running) y .sweep := by decide

/-- A free port with a transfer of three sources, and a read of 200 bytes whose first burst is granted. -/
theorem witness_BurstsBeginStoreAndAnswer_rotation :
    let ts : List Transfer := [⟨.board, false, 0x2000, 8, []⟩, ⟨.cache, false, 0x3000, 8, []⟩, ⟨.status, true, 0x10000, 8, []⟩]
    let s := { running with port := ⟨ts, .free, .cache⟩ }
    s.port.phase = .free ∧ (⟨.status, true, 0x10000, 8, []⟩ : Transfer) ∈ s.port.transfers ∧
    (∀ z ∈ ts, turnsBefore .cache (sourceOf .status) ≤ turnsBefore .cache (sourceOf z.owner)) ∧
    s.serveBus.port.phase = .requesting .status := by decide

theorem witness_BurstsBeginStoreAndAnswer_next_burst :
    let x : Transfer := ⟨.sweep, false, 0x4000, 200, []⟩
    let y : Transfer := ⟨.engine, false, 0x4000, 400, []⟩
    let s := { running with port := ⟨[x, y], .granted .sweep, .status⟩ }
    s.port.phase = .granted .sweep ∧ s.inProgress = some x ∧ burstLength s.beatBytes x.addr x.left < x.left ∧
    (granted y running).inProgress = some y ∧ burstLength running.beatBytes y.addr y.left < y.left ∧
    (granted y running).engineMicro.isNone = true := by decide

/-- R183: after 64 of its 200 bytes the read goes on at the next address, behind the source whose turn it is. -/
theorem test_next_burst :
    let t := after .burstComplete
      { running with port := ⟨[⟨.sweep, false, 0x4000, 200, []⟩, ⟨.engine, false, 0x4000, 400, []⟩], .granted .sweep, .status⟩ }
    t.port.transfers.map Transfer.addr = [0x4040, 0x4000] ∧ t.port.transfers.map Transfer.left = [136, 400] ∧
    t.port.phase = .requesting .engine := by decide

theorem witness_BurstFaultsFillRecord :
    let x : Transfer := ⟨.anchor, false, 0x1000, 64, []⟩
    let y : Transfer := ⟨.sweep, true, 4294967294, 2, [9, 8]⟩
    let ok := fun (s : State) (x : Transfer) (src : Source) (k : Nat) => s.port.phase = .granted src ∧
      s.inProgress = some x ∧ (x.data.length = x.left ∨ x.write = false) ∧ x.addr + x.left ≤ 2 ^ 32 ∧
      k < burstBeatCount s.beatBytes x.addr (burstLength s.beatBytes x.addr x.left) ∧ s.hasCause .memoryFault = false
    let r := { running with port := ⟨[x], .requesting .board, .status⟩ }
    ok (granted x running) x .board 15 ∧ ok (granted x running) x .board 0 ∧ ok (granted y running) y .sweep 0 ∧
    r.port.phase = .requesting .board ∧ r.inProgress = some x ∧ (r.setCause .memoryFault).hasCause .memoryFault = true := by
  decide

theorem witness_WindowTestGuardsEveryTransfer :
    Owner.sweep ≠ .anchor ∧ running.allowed true 16777215 2 = false ∧ running.allowed true 16777215 1 = true := by decide

theorem witness_SettingsWriteReplacesBlock :
    { running with settings := { running.settings with job := .writing 2 Settings.shipped } }.settings.job =
      .writing 2 Settings.shipped := by decide

/-- A block of 24 bytes being read, and one outside the windows. -/
theorem witness_SettingsWriteReplacesBlock_read :
    let x : Transfer := ⟨.settings, false, 0x4000, 24, []⟩
    let s := granted x { running with settings := { running.settings with job := .reading 2 } }
    (s.settings.job = .reading 2 ∧ s.port.phase = .granted .board ∧ s.port.transfers = [x] ∧ x.owner = .settings ∧
      x.write = false ∧ x.left ≤ burstLength s.beatBytes x.addr x.left) ∧
    running.allowed false { body 12 with listA := 0xFFFFFFFC }.listA 24 = false := by decide

theorem witness_SurveysBeginAndReadStateWords_timer :
    let s := { running with board := { running.board with timerOn := true } }
    let b := { s with board := { s.board with pos := .begun } }
    let a := { s with board := { s.board with again := true } }
    (s.run = .running ∧ s.board.timerOn = true ∧ s.board.pos = .idle ∧ s.board.completions = []) ∧
    (b.run = .running ∧ b.board.timerOn = true ∧ b.board.pos ≠ .idle) ∧ running.board.timerOn = false ∧
    (a.run = .running ∧ a.board.pos = .idle ∧ a.board.again = true ∧ a.board.completions = []) ∧
    running.board.again = false ∧ running.working = false := by decide

theorem witness_SurveysBeginAndReadStateWords_read :
    let s := { running with board := { running.board with pos := .begun, heldEngine := some 0 } }
    let u := { s with windows := Vector.replicate 4 ⟨0, 16777216, .read⟩ }
    s.board.pos = .begun ∧ s.board.ending = false ∧ s.mail.board = none ∧ s.latch.boardSlots ≤ 16 ∧
    1 < s.latch.boardSlots ∧ s.board.holds 1 = false ∧ (∀ j < 1, s.board.holds j = true) ∧
    s.allowed true (s.latch.boardAddr + 64 * 1) 2 = true ∧ u.allowed true (u.latch.boardAddr + 64 * 1) 2 = false ∧
    u.hasCause .memoryFault = false ∧ u.board = s.board ∧ u.latch = s.latch ∧ u.mail.board = none := by decide

/-- A running part with the Board Handler at a position and the answer of its transfer waiting. -/
def boardAt (p : BoardPos) (a : Option Answer) : State :=
  { running with board := { running.board with pos := p }, mail := { running.mail with board := a } }

theorem witness_SurveysBeginAndReadStateWords_going_on :
    let held := { running with board := { running.board with pos := .states 3 [1], heldEngine := some 3 } }
    (boardAt (.stateWait 15 []) (some (.ok [1, 0]))).board.pos = .stateWait 15 [] ∧ half [1, 0] 0 = 1 ∧ half [2, 0] 0 ≠ 1 ∧
    (boardAt (.stateWait 15 []) (some .fault)).mail.board = some .fault ∧
    running.board.ending = false ∧ running.latch.boardSlots = 16 ∧
    (held.board.ending = false ∧ 3 < held.latch.boardSlots ∧ held.board.holds 3 = true) ∧
    (running.board.holds 15 = false ∧ running.allowed true (running.latch.boardAddr + 64 * 15) 2 = true) ∧
    running.allowed true (running.latch.boardAddr + 64 * 15 + 2) 62 = true ∧
    { boardAt (.bodies [15] []) none with board := { running.board with ending := true } }.board.ending = true := by decide

/-- A body of 62 bytes whose kind byte is 14, WATCH_SETUP. -/
def setupBytes : List Byte := (List.replicate 62 0).set 2 14

theorem witness_ScreeningAnswersMalformedBodies_read :
    let s := boardAt (.bodyWait 2 [] []) (some (.ok setupBytes))
    s.board.pos = .bodyWait 2 [] [] ∧ s.mail.board = some (.ok setupBytes) ∧
    ((answerTaken s).screen (bodyAt setupBytes)).2 = .sound .watchSetup ∧
    ((answerTaken s).screen (bodyAt (setupBytes.set 0 1))).2 = .answered .stopped ∧
    s.allowed true (s.latch.boardAddr + 64 * 2 + 44) 6 = true ∧
    (boardAt (.bodyWait 2 [] []) (some .fault)).mail.board = some .fault := by decide

theorem witness_ScreeningAnswersMalformedBodies :
    let sound := { body 6 with listACount := 200, capacity := 800, p0 := 1 }
    { body 6 with stop := 1 }.stop ≠ 0 ∧ ((body 19).stop = 0 ∧ catalogue.lookup (body 19).kind = none) ∧
    catalogue.lookup 6 = some .airJoin ∧ ¬ bodySound .airJoin { sound with listACount := 201, capacity := 804 } ∧
    ¬ bodySound .airJoin { sound with capacity := 799 } ∧ ¬ bodySound .airJoin { sound with p0 := 2 } ∧
    bodySound .airJoin sound ∧ (∀ a ∈ areasUsed .airJoin sound, a.2.2 ≠ 0 → running.allowed a.1 a.2.1 a.2.2 = true) ∧
    (areasUsed .airJoin sound).find? (fun a => decide (a.2.2 ≠ 0 ∧ State.reset.allowed a.1 a.2.1 a.2.2 = false)) =
      some (false, 0, 400) := by
  intro sound
  refine ⟨by decide, by decide, by decide, ?_, ?_, ?_, ?_, by decide, by decide⟩ <;> unfold bodySound <;> decide

theorem witness_DispatchTakesHighestPriorityFromCursor :
    let c : Candidate := ⟨0, .check, { body 10 with priority := 1 }⟩
    let d : Candidate := ⟨3, .markBand, { body 13 with priority := 4 }⟩
    let e : Candidate := ⟨4, .rackTune, { body 18 with p2 := 3, priority := 9 }⟩
    let busy := withLine 3 (fun l => { l with plan := List.replicate 6 (tune false) }) running
    running.chooseCandidate [c, d] = some d ∧ running.chooseCandidate [] = none ∧
    running.chooseCandidate [c, d, e] = some d ∧ busy.chooseCandidate [e] = none ∧
    (∀ x ∈ [c, d, e], x.kind = .rackTune → parByte x.body.p2 0 ≤ 3) := by decide

/-- Orders of every kind of destination, at the last slot and at others. -/
theorem witness_DispatchTakesHighestPriorityFromCursor_take :
    let c : Candidate := ⟨15, .check, body 10⟩
    let e : Candidate := ⟨4, .rackTune, { body 18 with p2 := 0x103, p0 := 9 }⟩
    let done : Completion := ⟨4, false, .ok, 1, 0⟩
    let busy := withLine 3 (fun l => { l with live := [tune true], txn := some (.tune (tune true) 1) }) running
    let full := withLine 3 (fun l => { l with plan := List.replicate 6 (tune false) }) running
    let room := fun slot => running.allowed true (running.latch.boardAddr + 64 * slot + 44) 6
    (running.board.ending = false ∧ running.chooseCandidate [c] = some c ∧
      running.allowed true (running.latch.boardAddr + 64 * 15) 2 = true) ∧
    (busy.chooseCandidate [e] = some e ∧ (busy.rackTune 4 e.body).isSome = true ∧
      busy.allowed true (busy.latch.boardAddr + 64 * 4) 2 = true) ∧
    full.chooseCandidate [e] = none ∧
    (boardAt (.takenWait c [c]) (some .fault)).board.pos = .takenWait c [c] ∧
    ((boardAt (.tuneTakenWait done []) (some .fault)).mail.board = some .fault ∧ done.failed = false ∧ room 4 = true) ∧
    (boardAt (.rosterWait c []) (some (.ok [5]))).mail.board = some (.ok [5]) ∧ room 15 = true ∧
    running.mail.settings = none ∧ running.allowed false 0x100 24 = true ∧
    ({ body 17 with listA := 0x100, listACount := 8 }.listACount ≠ 0 ∧ running.allowed false 0x100 8 = true) ∧
    (body 17).listACount = 0 := by decide

theorem witness_CompletionIsWrittenAndReleasesSlot :
    let c : Completion := ⟨15, true, .halted, 65535, 2⟩
    let d : Completion := ⟨5, false, .ok, 1, 0⟩
    let x : Transfer := ⟨.board, true, 0x2140, 2, [3, 0]⟩
    let y : Transfer := ⟨.board, true, 0x216C, 6, [0, 0, 1, 0, 0, 0]⟩
    let s := { running with board := { running.board with completions := [c] } }
    let t := fun x p => granted x { running with board := { running.board with
      pos := p, completions := [d], heldEngine := some 5 } }
    let ok := fun (x : Transfer) (p : BoardPos) => (t x p).run = .running ∧ (t x p).port.phase = .granted .board ∧
      (t x p).port.transfers = [x] ∧ x.owner = .board ∧ x.write = true ∧
      x.left ≤ burstLength (t x p).beatBytes x.addr x.left ∧ (t x p).board.pos = p ∧ (t x p).board.completions = [d]
    (s.board.pos = .idle ∧ s.board.completions = c :: [] ∧ s.mail.board = none ∧
      s.allowed true (s.latch.boardAddr + 64 * c.slot + 44) 6 = true) ∧
    (ok y (.listResultWait d) ∧ running.allowed true (running.latch.boardAddr + 64 * d.slot) 2 = true) ∧
    ok x (.listStateWait d) ∧
    (boardAt (.immResultWait d []) (some (.ok []))).mail.board = some (.ok []) ∧
    (boardAt (.screenResultWait c [] []) (some .fault)).mail.board = some .fault ∧
    (boardAt (.screenStateWait c [] []) (some .fault)).mail.board.isSome = true := by decide

/-- A watch record in ALERTED, one in QUIET, lines between and in transactions, rosters with a LOST rack. -/
theorem witness_ImmediateOrdersActAtOnce :
    let s := watching .alerted 0 onAir
    let busy := withLine 3 (fun l => { l with txn := some (.poll 5 0 false), roster := [⟨5, .lost, 3, 0⟩] }) running
    let full := withLine 3 (fun l => { l with plan := List.replicate 6 (tune false) }) running
    running.onAirEntry 3 = none ∧ (onAir.onAirEntry 3 = some (entry 3 0 1200 (some ⟨0, 5, 3⟩)) ∧ onAir.watchRec 3 = none) ∧
    (s.onAirEntry 3 = some (entry 3 0 1200 (some ⟨0, 5, 3⟩)) ∧ s.watchRec 3 = some (watched .alerted 0)) ∧
    ((3 : Fin 4).val = 3 ∧ (busy.line 3).txn.isSome = true ∧ (running.line 3).txn = none ∧ [5, 7].length ≤ 8) ∧
    ((onAir.airEntry 3).isSome = true ∧ onAir.airEntry 65535 = none ∧ ¬ queueAccepts (full.line 3) false ∧
      queueAccepts (running.line 3) false) := by
  unfold queueAccepts
  decide

/-- A CHECK at the boundary of its 63rd step. -/
def checkOrder : EngineOrder :=
  { newOrder 1 .check { body 10 with p0 := 255 } false with phase := .victims, last := .victim, stepCounter := 62 }

/-- An AIR_LEAVE with its first item before it. -/
def leaveOrder (id : Nat) : EngineOrder :=
  { newOrder 1 .airLeave (body 7) false with phase := .items, last := .item, listA := [id], stepCounter := 62 }

theorem witness_CheckEvaluatesNextVictim_halted :
    let o := { checkOrder with haltMark := true }
    let s := atBoundary o onAir
    s.engine.pos = .boundary ∧ s.engine.service = none ∧ s.engine.reading = none ∧ s.engine.requests = [] ∧ s.engine.order = some o ∧
    o.kind = .check ∧ o.outcomes = [] ∧ o.last = .victim ∧ o.faultMark = false ∧ o.haltMark = true ∧
    o.stepCounter < 63 ∧ (s.nextVictim o).isSome = true := by decide

theorem witness_CheckEvaluatesNextVictim :
    let o := { checkOrder with stepCounter := 62 }
    let e := entry 3 0 1200 (some ⟨0, 5, 3⟩)
    let s := atBoundary o onAir
    let r := fun (l : List Nat) =>
      { s with engine := { s.engine with pos := .step, reading := some ⟨l, false⟩ } }
    (s.engine.pos = .boundary ∧ s.engine.service = none ∧ s.engine.reading = none ∧ s.engine.requests = [] ∧
      s.engine.order = some o ∧ o.kind = .check ∧ o.phase = .victims ∧ o.last = .victim ∧ o.faultMark = false ∧
      o.haltMark = false ∧ o.stopMark = false ∧ o.stepCounter < 63 ∧ s.nextVictim o = some e ∧ e.code ≤ 8959) ∧
    ((r [1198, 1199]).pending = [] ∧ (r [1198, 1199]).band = none ∧ [1199] ≠ ([] : List Nat)) ∧
    (r [1202]).engine.service = none ∧ (r [1202]).engine.order = some o ∧ (r [1202]).engine.pos = .step ∧
    (r [1202]).mail.engine = none ∧ o.phase = .victims ∧ (r [1202]).nextVictim o = some e ∧
    (((r [1202]).entryConflicts e true).take (min (o.body.capacity / 16) 65535 - o.written)).map conflictRecord = [] ∧
    (let p := { o with body := { o.body with capacity := 16, result := 0x7000 } }
     (((r [1202]).entryConflicts e true).take (min (p.body.capacity / 16) 65535 - p.written)).map conflictRecord ≠ [] ∧
       (r [1202]).allowed true (p.body.result + 16 * p.written) 16 = true ∧
       (r [1202]).allowed true (p.body.result + 16 * (p.written + 1)) 16 = true) := by decide

/-- A CHECK from its take: its first victim, a scope without one that passes to its spares, a spare's step, the change
of phase, and its last boundaries with and without spares. -/
theorem witness_CheckEvaluatesNextVictim_spares :
    let sp : Spare := ⟨1300, 8, .available, none⟩
    let s := { onAir with spares := [⟨1290, 0, .available, none⟩, sp] }
    let o := newOrder 1 .check { body 10 with p0 := 255, p1 := 1, capacity := 64, result := 0x7000 } false
    let p := { o with phase := .spares }
    let q := { o with victim := some (1200, 3), last := .victim }
    let scope := { o with body := { o.body with p0 := 7 } }
    let last := { p with last := .spare, spareAt := some 1, haltMark := true, ahead := .last }
    (s.nextVictim o = some (entry 3 0 1200 (some ⟨0, 5, 3⟩)) ∧ s.nextVictim q = none ∧ s.engine.reading = none) ∧
    (s.nextVictim scope = none ∧ scope.body.p1.testBit 0 = true ∧ s.nextSpare { scope with phase := .spares } = none) ∧
    (s.nextSpare p = some (sp, 1) ∧ p.spareStage sp = some 3 ∧ sp.code ≤ 8959 ∧ s.airEntry 65535 = none ∧
      (((s.spareConflicts sp 3 true).take (min (p.body.capacity / 16) 65535 - p.written)).map conflictRecord).length = 1 ∧
      s.spareConflicts sp 3 false = [] ∧ s.allowed true (p.body.result + 16 * p.written) 16 = true) ∧
    (let e := { entry 65535 3 1300 none with power := 0 }
     s.air = [entry 3 0 1200 (some ⟨0, 5, 3⟩)] ++ [] ∧ (∀ a ∈ [entry 3 0 1200 (some ⟨0, 5, 3⟩)], a.code ≤ e.code) ∧
       e.id = 65535 ∧ e.code = sp.code ∧ e.stage = 3) ∧
    (q.kind = .check ∧ q.faultMark = false ∧ q.haltMark = false ∧ q.stopMark = false ∧ (s.nextSpare q).isSome = true) ∧
    ((atBoundary last s).engine.order = some last ∧ last.last = .spare ∧ (atBoundary last s).nextSpare last = none ∧
      last.outcomes = []) := by decide

/-- The three ends of a CHECK: nothing found, everything written, and more found than there was room for. -/
theorem test_check_results :
    (checkEnd checkOrder).result = .ok ∧ (checkEnd { checkOrder with found := 2, written := 2 }).result = .conflicts ∧
    checkEnd { checkOrder with found := 70000, written := 2 } = ⟨1, false, .truncated, 65535, 2⟩ := by decide

theorem witness_AirLeaveHandlesNextItem :
    let ok := fun (o : EngineOrder) (id : Nat) (s : State) => s.engine.pos = .boundary ∧ s.engine.service = none ∧
      s.engine.reading = none ∧ s.engine.requests = [] ∧ s.engine.order = some o ∧ o.kind = .airLeave ∧ o.phase = .items ∧ o.last = .item ∧
      o.faultMark = false ∧ o.haltMark = false ∧ o.stopMark = false ∧ o.stepCounter < 63 ∧ o.listA[o.cursor]? = some id
    (ok (leaveOrder 3) 3 (atBoundary (leaveOrder 3) onAir) ∧ (onAir.onAirEntry 3).isSome = true ∧ idHasRecord 3 = true) ∧
    (ok (leaveOrder 65535) 65535 (atBoundary (leaveOrder 65535) onAir) ∧ onAir.onAirEntry 65535 = none) := by decide

/-- R67: the lists of an AIR_JOIN, an AIR_LEAVE and a CHANGEOVER at their take, inside the windows and outside. -/
theorem witness_AirLeaveHandlesNextItem_lists :
    let b := fun n m => { body 8 with listACount := n, listA := 0x4000, listBCount := m, listB := 0x5000 }
    let out := { b 2 1 with listA := 0x1000000 }
    let held := fun (p : EnginePos) (a : Option Answer) => { running with
      mail := { running.mail with engine := a }
      engine := { running.engine with order := some (newOrder 1 .changeover (b 2 1) false), pos := p } }
    ((b 2 1).listACount ≠ 0 ∧ running.allowed false (b 2 1).listA 4 = true ∧ (b 2 1).listBCount ≠ 0 ∧
      running.allowed false (b 2 1).listB 2 = true ∧ (b 0 1).listACount = 0 ∧ (b 0 0).listBCount = 0 ∧
      running.allowed false out.listA 4 = false) ∧
    ((held .taken none).engine.service = none ∧ (held .taken none).engine.reading = none ∧
      (held .listAWait (some .fault)).mail.engine = some .fault ∧ (held .step none).engine.pos = .step) := by decide

/-- R72, R194: a CHANGEOVER whose list_b was not received has the IDs of list_a alone in its outcome records. -/
theorem test_list_fault_outcomes :
    let o := { newOrder 1 .changeover { body 8 with listACount := 1, listBCount := 1, result := 0x7000 } false with listA := [3] }
    let t := State.listBRead running o .fault
    t.engine.pos = .outcomeWait true .memory 0 0 ∧ (t.port.transfers.map fun x => x.data.map BitVec.toNat) = [[3, 0, 12, 192, 255, 255, 12, 192]] := by
  decide

/-- A leaver of a CHANGEOVER, ON_AIR and not. -/
theorem witness_AirLeaveHandlesNextItem_leavers :
    let o := { newOrder 1 .changeover (body 8) false with listA := [3, 4] }
    o.kind = .changeover ∧ o.phase = .leave ∧ o.listA[o.cursor]? = some 3 ∧ (onAir.onAirEntry 3).isSome = true ∧
    { o with cursor := 1 }.listA[1]? = some 4 ∧ onAir.onAirEntry 4 = none := by decide

/-- Lists of one item each, a spare in use, and a mask that flags area 11. -/
theorem witness_EngineOrdersLoadTheTables :
    let b := { body 2 with listACount := 1, listA := 0x4000 }
    let used : Spare := ⟨1300, 1, .used, some 3⟩
    let s := { running with spares := [used, { used with state := .available, user := none }] }
    (b.listACount ≠ 0 ∧ running.allowed false b.listA b.listACount = true ∧
      running.allowed false b.listA (b.listACount * 4) = true) ∧ (body 2).listACount = 0 ∧
    ([7].length = b.listACount ∧ [7].length ≤ 144) ∧
    ([0, 0x23, 1, 0].length = 4 * b.listACount ∧ 8960 ≤ half [0, 0x23, 1, 0] 0 ∧ half [1, 0x22, 1, 0] 0 < 8960 ∧
      [1, 0x22, 1, 0, 1, 0x22, 2, 0].length = 4 * 2) ∧
    (s.spares[0]? = some used ∧ used.state ≠ .available ∧ s.spares[1]? = some { used with state := .available, user := none }) ∧
    (List.range 12).filter (fun k => Nat.testBit 0x1000 k) = [] ∧
    (List.range 12).filter (fun k => Nat.testBit 0x800 k) ≠ [] := by decide

/-- A microphone's record: range 1000..1400, assigned 1200. -/
def info : CarrierInfo := ⟨.mic, 2, false, true, true, 1000, 1400, 1, 65535, some ⟨0, 5, 3⟩, 1200, 1⟩

/-- A carrier in hand. -/
def inHand (p : Placing) (x : Nat) (test : Option Nat) (w : Option Walk) : Joiner := ⟨4, info, p, x, test, w⟩

theorem witness_AirJoinHandlesItem :
    let o := { newOrder 1 .airJoin (body 6) false with listA := [3] }
    let v := { o with joiner := some (inHand .assigned 1200 none none) }
    let r := { onAir with engine := { onAir.engine with reading := some ⟨[], true⟩ } }
    let fails := fun taken => running.firstFailing ⟨4, 1200, 0, powerOf 2⟩ (running.others 4) none taken
    (o.kind = .airJoin ∧ o.phase = .items ∧ o.joiner = none ∧ o.listA[o.cursor]? = some 3) ∧
    (onAir.airEntry 3).isSome = true ∧ (running.airEntry 3 = none ∧ running.air.length < 200) ∧
    (info.assigned ≠ 65535 ∧ info.tuneLow ≤ info.assigned ∧ info.assigned ≤ info.tuneHigh ∧ info.assigned ≤ 8959 ∧
      o.body.p0 = 0 ∧ { o.body with p0 := 1 }.p0 ≠ 0) ∧
    (v.phase = .items ∧ v.joiner = some (inHand .assigned 1200 none none) ∧ running.engine.reading = none ∧
      r.engine.reading = some ⟨[], true⟩ ∧ fails true ≠ none ∧ fails false = none) := by decide

theorem witness_AirJoinHandlesItem_full :
    200 ≤ { running with air := List.replicate 200 (entry 7 0 1200 none) }.air.length :=
  Nat.le_of_eq List.length_replicate.symm

theorem witness_SearchesBeginWithTheirTests :
    let o := { newOrder 1 .changeover (body 8) false with phase := .place, listB := [3] }
    let p := { newOrder 1 .retune { body 9 with p0 := 3, p1 := 65535 } false with
      joiner := some (inHand .walk 1200 none none) }
    let e := entry 3 0 1200 (some ⟨0, 5, 3⟩)
    (1 ≤ running.params.searchLimit ∧ o.kind = .changeover ∧ o.phase = .place ∧ o.joiner = none ∧
      o.listB[o.cursor]? = some 3) ∧ (onAir.airEntry 3).isSome = true ∧
    (running.airEntry 3 = none ∧ running.air.length < 200) ∧
    (¬ (info.tuneHigh < info.tuneLow ∨ 8959 < info.tuneLow) ∧ info.assigned ≠ 65535 ∧ info.locked = false) ∧
    (startWalk 1000 1000 1400 1 none 1000).next.1 = some 1000 ∧ (startWalk 1000 1400 1000 1 none 1000).next.1 = none ∧
    (p.kind = .retune ∧ 3 = p.body.p0 % 65536 ∧ p.body.p1 % 65536 = 65535 ∧ onAir.onAirEntry 3 = some e ∧
      e.locked = false ∧ { e with locked := true }.locked = true ∧ running.onAirEntry 3 = none) ∧
    (p.phase = .search ∧ p.joiner = some (inHand .walk 1200 none none) ∧
      test1 info.tuneLow info.tuneHigh info.tuneStep 1200 = true ∧
      test1 info.tuneLow info.tuneHigh info.tuneStep 1401 = false) := by decide +kernel

theorem onAir_airOk : onAir.airOk := by
  simp [State.airOk, onAir, entry]

theorem witness_ExaminedCodeIsTakenOrPassedOver :
    let w := startWalk 1000 1000 1400 1 none 1000
    let o := fun (k : OrderKind) (j : Joiner) => { newOrder 1 k (body 8) false with joiner := some j, last := .examined }
    let j := inHand .assigned 1200 none none
    let f := inHand .walk 1200 (some 4) (some w)
    ((o .changeover j).kind = .changeover ∧ (o .retune j).kind = .retune ∧ (o .changeover j).joiner = some j ∧
      (o .changeover j).last = .examined ∧ (o .changeover j).faultMark = false ∧ (o .changeover j).haltMark = false ∧
      (o .changeover j).stopMark = false) ∧ running.engine.airChanged = false ∧
    (f.failedTest = some 4 ∧ f.placing = .walk ∧ f.walk = some w ∧ w.examined < w.limit ∧
      w.next.1 = some 1000 ∧ { w with examined := 1000 }.limit ≤ { w with examined := 1000 }.examined) ∧
    (j.failedTest = none ∧ running.airEntry 4 = none ∧ running.air.length < 200) ∧
    onAir.airOk ∧ onAir.airEntry 3 = some (entry 3 0 1200 (some ⟨0, 5, 3⟩)) ∧
    (watching .swapWait 0 onAir).takeAnswers.watchRec 3 = some (watched .swapWait 0) :=
  ⟨by decide, by decide, by decide +kernel, by decide, onAir_airOk, by decide, by decide⟩

theorem witness_CommitsAndEndsWriteTheirOutcomes :
    let pending := { entry 3 0 1200 (some ⟨0, 5, 3⟩) with air := .pending, owner := some 1 }
    let o := { newOrder 1 .changeover { body 8 with result := 0x7000 } false with
      phase := .commit, listB := [3], outcomes := [⟨3, .placed, 1200⟩] }
    let a := { newOrder 1 .airLeave (body 7) false with ahead := .last, last := .item, listA := [3], cursor := 1 }
    let s := { running with air := [pending] }
    let full := withLine 0 (fun l => { l with plan := List.replicate 6 (tune false) }) onAir
    (o.phase = .commit ∧ pending.owner = some o.slot ∧ s.watchRec 3 = none) ∧
    (onAir.airEntry 3 = some (entry 3 0 1200 (some ⟨0, 5, 3⟩)) ∧ (entry 3 0 1200 none).rack = none ∧
      ¬ queueAccepts (full.line 0) false ∧ queueAccepts (onAir.line 0) false) ∧
    (a.phase = .items ∧ a.last = .item ∧ a.faultMark = false ∧ a.ahead = .last ∧ a.listA.length ≤ a.cursor) ∧
    o.outcomes ≠ [] ∧ s.allowed true o.body.result (o.outcomes.flatMap (outcomeRecord s)).length = true := by
  unfold queueAccepts
  decide

/-- Boundaries: a phase that changes, one that goes on below and at the 64th step, the last one; the stop word's answers;
and an order of each sort that a cause ends. -/
theorem witness_CommitsAndEndsWriteTheirOutcomes_boundary :
    let j : Joiner := ⟨3, carrierInfo (List.replicate 32 0), .target, 1300, none, none⟩
    let s := fun (o : EngineOrder) (p : EnginePos) => { onAir with engine := { onAir.engine with order := some o, pos := p } }
    let r := { newOrder 1 .retune (body 9) false with last := .examined, joiner := some j }
    let l := leaveOrder 3
    let done := { l with cursor := 1 }
    let cause := fun (o : EngineOrder) (c : ResultCode) => (o.faultMark = true ∧ c = .memory ∨
      o.faultMark = false ∧ o.ahead ≠ .last ∧ o.haltMark = true ∧ c = .halted ∨
      o.faultMark = false ∧ o.ahead ≠ .last ∧ o.haltMark = false ∧ o.stopMark = true ∧ c = .stopped)
    (phaseChanges (s r .serve) r ∧ ¬ lastBoundary (s r .serve) r) ∧
    (¬ phaseChanges (s l .serve) l ∧ ¬ lastBoundary (s l .serve) l ∧ l.stepCounter ≠ 63 ∧
      { l with stepCounter := 63 }.stepCounter = 63) ∧
    (lastBoundary (s done .serve) done ∧ ¬ phaseChanges (s done .serve) done) ∧
    ((s r .serve).engine.service = none ∧ (s r .serve).engine.reading = none ∧ (s r .serve).engine.requests = [] ∧
      (s r .serve).engine.order = some r ∧
      onAir.allowed false (onAir.latch.boardAddr + 64 * r.slot + 2) 2 = true ∧ half [0, 1] 0 ≠ 0) ∧
    (cause { l with faultMark := true } .memory ∧ cause { r with haltMark := true } .halted ∧
      cause { l with stopMark := true } .stopped ∧ l.kind = .airLeave ∧ r.kind = .retune ∧ checkOrder.kind = .check) := by
  unfold phaseChanges lastBoundary
  refine ⟨⟨Or.inr (Or.inr (Or.inl ⟨rfl, rfl, _, rfl, Or.inl ⟨rfl, Or.inl rfl⟩⟩)), by decide⟩, ?_, ?_, by decide, by decide⟩
  · exact ⟨by rintro (h | h | ⟨h, -⟩ | h) <;> revert h <;> decide, by decide, by decide, rfl⟩
  · exact ⟨by decide, by rintro (h | h | ⟨h, -⟩ | h) <;> revert h <;> decide⟩

/-- R91: a CHANGEOVER that a stop ends in PLACE removes its PENDING entry and keeps its leaver's outcome. -/
theorem test_stopped_changeover_withdraws :
    let pending := { entry 3 0 1200 none with air := .pending, owner := some 1 }
    let o := { newOrder 1 .changeover { body 8 with result := 0x7000 } false with
      phase := .place, last := .item, listA := [4], listB := [3, 5], cursor := 1, stopMark := true
      outcomes := [⟨4, .left, 1210⟩, ⟨3, .placed, 1200⟩] }
    let t := State.decideBoundary { running with air := [pending, entry 6 0 1250 none] } o
    t.air = [entry 6 0 1250 none] ∧ t.engine.pos = .outcomeWait true .stopped 0 0 ∧
    t.port.transfers.map Transfer.data = [[4, 0, 0xBA, 0x84, 3, 0, 0x0C, 0xC0, 5, 0, 0x0C, 0xC0]] := by decide

/-- A carrier with a request, and a spare that meets the first three conditions, its bins read. -/
theorem witness_SwapServiceMovesCarrierOrAnswersNoSpare :
    let e := entry 3 0 1200 (some ⟨0, 5, 3⟩)
    let sp : Spare := ⟨1300, 1, .available, none⟩
    let s := { onAir with spares := [sp], engine := { onAir.engine with requests := [3] } }
    let r := fun (taken : Bool) => { s with engine := { s.engine with reading := some ⟨[], taken⟩ } }
    let fits := fun (s : State) (taken : Bool) => s.firstFailing ⟨3, 1300, 0, 7⟩ (s.others 3) (some 1300) taken
    (s.engine.requests = 3 :: [] ∧ s.onAirEntry 3 = some e ∧ e.locked = false) ∧
    (({ s with air := [] } : State).onAirEntry 3).all (fun e => e.locked) = true ∧
    (s.nextTry e 1 = none ∧ 3 ∈ s.engine.requests ∧ 3 ∉ onAir.engine.requests) ∧
    (s.nextTry e 0 = some (sp, 0) ∧ s.engine.reading = none) ∧
    (s.airOk ∧ (r true).nextTry e 0 = some (sp, 0) ∧ fits (r true) true = some 2 ∧ fits (r false) false = none) ∧
    ∃ u, ({ s with
      engine := { s.engine with wb := some ⟨3, 1300, true, .writeWait⟩ }
      mail := { s.mail with cache := some (.ok []) } } : State).wbStep = .done .written u :=
  ⟨by decide, by decide, by decide, by decide, ⟨onAir_airOk, by decide, by decide, by decide⟩, ⟨_, rfl⟩⟩

/-- R82: after a swap the candidate that the engine holds is to be examined afresh. -/
theorem test_swap_changes_the_air :
    let s := { onAir with
      spares := [⟨1300, 1, .available, none⟩]
      engine := { onAir.engine with requests := [3], service := some (.search 3 0), reading := some ⟨[], false⟩ } }
    (s.serviceStep 3 0).engine.airChanged = true := by decide

/-- Lines of the carrier's rack: idle, busy, and full. -/
theorem witness_SwapServiceMovesCarrierOrAnswersNoSpare_tune :
    let busy := withLine 0 (fun l => { l with txn := some (.poll 5 0 false) }) onAir
    let full := withLine 0 (fun l => { l with live := List.replicate 8 (tune true) }) onAir
    (entry 3 0 1200 (some ⟨0, 5, 3⟩)).rack = some ⟨0, 5, 3⟩ ∧ (entry 3 0 1200 none).rack = none ∧
    (queueAccepts (onAir.line 0) true ∧ (onAir.line 0).txn = none ∧ (onAir.line 0).values.divisor ≠ 0 ∧
      (onAir.line 0).live = [] ∧ (onAir.line 0).plan = [] ∧ (onAir.line 0).phase = .quiet) ∧
    (queueAccepts (busy.line 0) true ∧ (busy.line 0).txn.isSome = true) ∧ ¬ queueAccepts (full.line 0) true := by
  unfold queueAccepts
  decide

theorem witness_TuneOutcomeIsRecorded :
    let s := fun (m : OutcomeMsg) => withLine 0 (fun l => { l with outcomes := [m] }) onAir
    (∀ m, (s m).airOk) ∧ ((s ⟨3, 1200, .applied⟩).line 0).outcomes = [⟨3, 1200, .applied⟩] ∧
    (s ⟨3, 1200, .applied⟩).airEntry 3 = some (entry 3 0 1200 (some ⟨0, 5, 3⟩)) ∧ idHasRecord 3 = true ∧
    (s ⟨4, 1200, .refused⟩).airEntry 4 = none ∧ (entry 3 0 1200 (some ⟨0, 5, 3⟩)).code ≠ 1201 :=
  ⟨fun _ => onAir_airOk, by decide⟩

theorem witness_RoomNoticeOffersHeldTune :
    let s := withLine 0 (fun l => { l with roomNotices := 1 }) onAir
    let h := { s with watch := { s.watch with heldTunes := [⟨0, tune true⟩, ⟨1, { tune true with id := 4 }⟩] } }
    let o := newOrder 1 .airJoin (body 6) false
    let w := { s with engine := { s.engine with order := some o, pos := .tuneHeld [3, 4] } }
    ((s.line 0).roomNotices ≠ 0 ∧ (∀ left, s.engine.pos ≠ .tuneHeld left)) ∧
    ((∀ x ∈ h.watch.heldTunes, x.tune.live = true) ∧ (h.watch.heldTunes.map fun x => x.tune.id).Nodup) ∧
    (w.engine.pos = .tuneHeld (3 :: [4]) ∧ w.engine.order = some o ∧ w.engine.service = none ∧ w.engine.reading = none ∧
      w.engine.requests = [] ∧ w.airEntry 3 = some (entry 3 0 1200 (some ⟨0, 5, 3⟩)) ∧ queueAccepts (w.line 0) false) ∧
    ¬ queueAccepts ((withLine 0 (fun l => { l with plan := List.replicate 6 (tune false) }) w).line 0) false ∧
    ({ w with engine := { w.engine with pos := .tune [4] false } } : State).engine.pos = .tune [4] false := by
  unfold queueAccepts
  exact ⟨⟨by decide, fun _ => nofun⟩, by decide, by decide, by decide, rfl⟩

/-- R133, R135, R139: an idle line sends the first of the TUNEs offered and queues the next, an off line ends both, and a
busy one with seven entries takes one. -/
theorem test_offers_taken :
    let two := [tune true, { tune true with id := 4 }]
    let l := running.line 0
    let idle := offersTaken l two
    let off := offersTaken { l with values := ⟨0, 20, 10⟩ } two
    let busy := offersTaken { l with txn := some (.poll 5 0 false), live := List.replicate 7 (tune true) } two
    (idle.1.phase = .sending (tuneBytes (tune true)) ∧ idle.1.live = [{ tune true with id := 4 }] ∧ idle.2 = 2) ∧
    (off.1.outcomes.map OutcomeMsg.outcome = [.noReply, .noReply] ∧ off.2 = 2) ∧
    (busy.1.live.length = 8 ∧ busy.2 = 1) := by decide

theorem witness_WalkGivesNextLatticePoint :
    let w := startWalk 1250 1200 1300 1 none 1000
    let up := { startWalk 1202 1200 1203 1 (some 1201) 1000 with index := 2 }
    let none' := { startWalk 1203 1200 1203 3 none 1000 with index := 3 }
    0 ≤ w.low ∧ w.next = (some 1250, { w with index := 1 }) ∧
    (0 ≤ up.low ∧ up.next = (some 1200, { up with index := 5, upDone := true })) ∧
    1 ≤ none'.step ∧ 0 ≤ none'.low ∧ none'.high ≤ 8959 ∧
    none'.next = (none, { none' with index := 5, upDone := true, downDone := true }) := by decide +kernel

theorem witness_TestOneIsGridRangeAndStep : (1199 < 1200) ∧ byteAt (List.replicate 32 0) 8 = 0 := by decide

/-- R95: SPACING before OCCUPIED, and within SPACING the Air Set order of codes and IDs. -/
theorem test_conflicts_in_order :
    let e := entry 3 0 1200 none
    let s := { onAir with air := [entry 9 0 1199 none, e, entry 4 0 1200 none, entry 7 0 1201 none] }
    ((s.entryConflicts e true).filter fun c => decide (c.kind = .spacing ∨ c.kind = .occupied)).map (fun c => (c.kind, c.c1)) =
      [(.spacing, 9), (.spacing, 4), (.spacing, 7), (.occupied, 65535)] := by decide +kernel

theorem witness_ConflictsAreTheFiveKinds : onAir.airOk ∧ entry 3 0 1200 (some ⟨0, 5, 3⟩) ∈ onAir.air :=
  ⟨onAir_airOk, .head _⟩

theorem witness_TestsTwoToSixDecideInOrder :
    ([⟨3, 1200, 0, 7⟩, ⟨4, 1210, 0, 7⟩].map Tx.id).Nodup ∧ 5 ∉ [⟨3, 1200, 0, 7⟩, ⟨4, 1210, 0, 7⟩].map Tx.id := by decide

/-- A carrier record that passes its check. -/
def goodRecord : List Byte := List.replicate 32 0

theorem witness_LookupAnswersAndFills :
    let ask := fun (l : LookupStage) (a : Option Answer) => { running with
      engine := { running.engine with lookup := some l }, mail := { running.mail with cache := a } }
    let hit := { ask .ask none with cache := [(6, some ⟨0, carrierInfo goodRecord⟩)] }
    (running.cacheOk ∧ hit.cacheOk) ∧ (ask .ask none).engine.lookup = some .ask ∧ ¬ 12 < 12 ∧
    (hit.params.cacheOff = false ∧ hit.way 3 false = some ⟨0, carrierInfo goodRecord⟩ ∧
      holdsCarrier 3 ⟨0, carrierInfo goodRecord⟩) ∧
    (¬ dirNames [0, 96, 0, 0, 0, 0, 0, 0] 3 ∧ dirNames [1, 4, 0, 0, 0, 0, 0, 0] 3 ∧
      (ask .dirWait (some (.ok [1, 4]))).mail.cache = some (.ok [1, 4])) ∧
    byteSum (goodRecord.take 24) % 256 = 0 ∧ byteSum ((goodRecord.set 0 1).take 24) % 256 ≠ 0 ∧
    (ask (.rereadWait 64) (some .fault)).engine.lookup = some (.rereadWait 64) := by
  intro ask hit
  refine ⟨⟨fun n a b h => (by cases h), fun n a b ha hb => ?_⟩, rfl, by decide, ?_, ?_, by decide, by decide, rfl⟩
  · simp [hit, State.way, sparseGet] at hb
    omega
  · exact ⟨by decide, by decide, by unfold holdsCarrier; decide⟩
  · unfold dirNames; decide

theorem witness_WriteBackKeepsCacheAndRecordAgreed :
    let w : WriteBack := ⟨3, 1300, true, .ask⟩
    let s := fun (w : WriteBack) (a : Option Answer) => { running with
      engine := { running.engine with wb := some w }, mail := { running.mail with cache := a } }
    (s w none).cacheOk ∧ (s w none).engine.wb = some w ∧ w.id / 256 < (s w none).latch.stages ∧
    ({ w with id := 3075 } : WriteBack).id / 256 ≥ (s w none).latch.stages ∧
    dirNames [1, 4, 0, 0, 0, 0, 0, 0] w.id ∧ (s w (some .fault)).mail.cache = some .fault :=
  ⟨fun n a b h => (by cases h), rfl, by decide, by decide, by unfold dirNames; decide, rfl⟩

theorem witness_MarkBandChangesBandAlone :
    let b := { body 13 with p0 := 8950, p1 := 8949, p2 := 2 }
    let s := { running with board := { running.board with pos := .bandWait [] } }
    b.p0 % 65536 = 8950 ∧ b.p1 % 65536 = 8949 ∧ b.p2 ≤ 2 ∧
    0 < ((List.range 8960).filter fun x => decide (8949 ≤ x ∧ x ≤ min 8950 8959)).length ∧ s.pending = [] ∧
    s.engine.reading = none ∧ s.board.pos = .bandWait [] ∧ s.mail.board = none ∧
    s.allowed true (s.latch.boardAddr + 64 * 2 + 44) 6 = true := by
  refine ⟨by decide, by decide, by decide, ?_, by decide, by decide, by decide, by decide, by decide⟩
  exact List.length_pos_of_mem (a := 8950) (by simp)

/-- Five points on step 3 fit a buffer of 5 bytes and not one of 4. -/
theorem witness_SweepTakeChecksFields :
    let b := { body 11 with p0 := 5000 + 5012 * 65536, p1 := 3 }
    b.p0 % 65536 = 5000 ∧ b.p0 / 65536 % 65536 = 5012 ∧ (5012 - 5000) / 3 + 1 ≤ 5 ∧ ¬ (5012 - 5000) / 3 + 1 ≤ 4 := by decide

theorem witness_SweepPointFollowsItsStates :
    let s := sweeping (point 4) .lockWait running
    (sweeping (point 4) .tuning running).sweep.pos = .tuning ∧ s.sweep.order = some sweepOrder ∧
    s.allowed true (sweepOrder.buffer + s.sweep.count.index) 1 = true ∧ s.sweep.pos = .lockWait ∧
    (sweeping (point 4) .dwell running).sweep.pos = .dwell ∧
    (sweeping (point 4) .converting running).sweep.pos = .converting := by decide

/-- The answer of the Sweep Unit's transfer has come. -/
def answered (a : Answer) (s : State) : State := { s with mail := { s.mail with sweep := some a } }

theorem witness_StoredPointFeedsTheMap :
    let s := fun (n : SweepCount) => answered (.ok []) (sweeping n .bufferWait onAir)
    let f := { point 3 with lockFailed := true, failRun := 7, level := 255 }
    (s (point 3)).sweep.order = some sweepOrder ∧ (s (point 3)).sweep.pos = .bufferWait ∧
    (s (point 3)).mail.sweep = some (.ok []) ∧ (point 3).index + 1 < (point 3).points ∧ f.lockFailed = true ∧
    7 ≤ f.failRun ∧ { point 3 with haltMark := true }.lockFailed = false ∧ (point 3).haltMark = false ∧
    (s (point 3)).allowed false (sweepOrder.slotAddr + 2) 2 = true := by decide

theorem witness_PassEndAndStopWordDecide_pass :
    let s := answered (.ok []) (sweeping (point 4) .bufferWait running)
    let p := fun (fails : Nat) => answered (.ok []) (sweeping { point 4 with failRun := fails } .progressWait running)
    let f := answered .fault (sweeping (point 4) .progressWait running)
    (s.sweep.order = some sweepOrder ∧ s.sweep.pos = .bufferWait ∧ s.mail.sweep = some (.ok []) ∧
      s.sweep.count.points ≤ s.sweep.count.index + 1 ∧ s.allowed true (sweepOrder.slotAddr + 50) 2 = true) ∧
    ((p 7).sweep.order = some sweepOrder ∧ (p 7).sweep.pos = .progressWait ∧ (p 7).mail.sweep = some (.ok []) ∧
      (p 7).sweep.count.failRun < 8 ∧ (p 7).sweep.count.haltMark = false ∧ 8 ≤ (p 8).sweep.count.failRun ∧
      (p 7).allowed false (sweepOrder.slotAddr + 2) 2 = true) ∧
    f.sweep.order = some sweepOrder ∧ f.mail.sweep = some .fault ∧ f.sweep.pos = .progressWait ∧
    (answered .fault (sweeping (point 4) .bufferWait running)).sweep.pos = .bufferWait := by decide

/-- R117: the index returns to 0 once the progress write has succeeded, and not before. -/
theorem test_index_returns_after_progress_write :
    let s := answered (.ok []) (sweeping (point 4) .bufferWait running)
    let t := after .bufferWriteDone s
    (t.sweep.pos = .progressWait ∧ t.sweep.count.index = 4) ∧
    (after .progressWriteDone (answered (.ok []) t)).sweep.count.index = 0 := by decide

theorem witness_PassEndAndStopWordDecide_stop :
    let n := { point 0 with passEnded := true, passCount := 2 }
    let s := fun (a : Answer) => answered a (sweeping n .stopWait running)
    (∀ a, (s a).sweep.order = some sweepOrder ∧ (s a).sweep.pos = .stopWait ∧ (s a).mail.sweep = some a) ∧
    half [1, 0] 0 ≠ 0 ∧ half [0, 0] 0 = 0 ∧ n.passEnded = true ∧ sweepOrder.passes ≠ 0 ∧
    n.passCount = sweepOrder.passes ∧ (point 0).passEnded = false := ⟨fun _ => ⟨rfl, rfl, rfl⟩, by decide⟩

theorem witness_LinesPollAndSendFrames_phases :
    let s := fun (p : LinePhase) => withLine 3 (fun l => { l with phase := p }) running
    let x := withLine 3 (fun l => { l with txn := some (.poll 5 0 false), phase := .failedWait }) running
    ((s (.sending [5])).line 3).phase = .sending [5] ∧ ((s .failedWait).line 3).phase = .failedWait ∧
    ((s .goodWait).line 3).phase = .goodWait ∧ ((s .goodWait).line 3).txn = none ∧
    (x.line 3).phase = .failedWait ∧ (x.line 3).txn = some (.poll 5 0 false) := by decide

theorem witness_CharactersFillTheAwaitedFrame :
    let s := fun (p : LinePhase) => withLine 0 (fun l => { l with phase := p }) running
    let a : Assembler := ⟨[], false, false, none⟩
    ((s (.sending [5])).line 0).dir = true ∧ readChar (samples 0x85 true ||| 7) = none ∧
    (((s (.awaiting a)).line 0).dir = false ∧ ((s (.awaiting a)).line 0).values.divisor ≠ 0 ∧
      readChar (samples 0x85 true) = some ⟨0x85, true, false, false⟩ ∧
      ((s (.awaiting a)).line 0).phase = .awaiting a ∧ a.ended = none ∧ a.bytes = []) ∧
    ((running.line 0).phase = .quiet ∧ (running.line 0).dir = false) ∧
    readChar (samples 0x85 false) = some ⟨0x85, false, false, false⟩ ∧
    ((s (.awaiting ⟨[0x85], false, false, none⟩)).line 0).phase = .awaiting ⟨[0x85], false, false, none⟩ ∧
    byteAt ([0x85] ++ [37]) 1 = 37 ∧ byteAt ([0x85, 3, 4, 3, 1] ++ [0x70]) 1 = 3 := by decide

theorem witness_FailedExchangeCounts_tune :
    let ok := fun (a : Assembler) (n : Nat) => ((tuning a false n).line 0).phase = .awaiting a ∧
      ((tuning a false n).line 0).txn = some (.tune (tune false) n) ∧
      [Counter.noise, .framing, .check, .gap, .timeout, .unsolicited].all
        (fun d => decide (((tuning a false n).line 0).count d ≤ 65535)) = true
    let bad : Assembler := ⟨[0x85, 3, 4, 3, 1], false, false, some .complete⟩
    ok ⟨[0x85], false, false, none⟩ 1 ∧ ok ⟨[], false, false, none⟩ 3 ∧ ok bad 3 ∧ bad.ended = some .complete ∧
    ¬ contentGood (.tune (tune false) 3) bad.bytes ∧ ((tuning bad false 3).line 0).rosterOk := by
  unfold Line.rosterOk contentGood
  decide

/-- R122, R134, R135: the last attempt of a TUNE fails with a TUNE of each class queued, a poll due and values that wait:
the values are taken and the live TUNE is next, its frame after the wait. -/
theorem test_failed_tune_goes_on :
    let live := { tune true with id := 4 }
    let l := (after (.replyTimeout 0) (withLine 0 (fun l => { l with
      live := [live], plan := [tune false], pollDue := true, roster := [⟨5, .silent, 1, 8⟩], pendingSetup := some ⟨9, 20, 10⟩ })
      (tuning ⟨[], false, false, none⟩ false 3))).line 0
    l.txn = some (.tune live 1) ∧ l.phase = .failedWait ∧ l.values = ⟨9, 20, 10⟩ ∧ l.pendingSetup = none ∧
    l.plan = [tune false] ∧ l.pollDue = true ∧ l.roomNotices = 1 := by decide

theorem witness_FailedExchangeCounts_poll :
    let s := fun (a : Assembler) (reloaded : Bool) => withLine 0 (fun l => { l with
      phase := .awaiting a, txn := some (.poll 5 8 reloaded), roster := [⟨5, .silent, 1, 8⟩] }) onAir
    let ok := fun (a : Assembler) => ((s a true).line 0).phase = .awaiting a ∧
      ((s a true).line 0).txn = some (.poll 5 8 true) ∧ ((s a false).line 0).txn = some (.poll 5 8 false) ∧
      [Counter.noise, .framing, .check, .gap, .timeout, .unsolicited].all
        (fun d => decide (((s a false).line 0).count d ≤ 65535)) = true
    let bad : Assembler := ⟨[0x85, 3, 4, 3, 1], false, false, some .complete⟩
    ok ⟨[0x85], false, false, none⟩ ∧ ok ⟨[], false, false, none⟩ ∧ ok bad ∧
    ¬ contentGood (.poll 5 8 false) bad.bytes ∧ ((s bad false).line 0).rosterOk := by
  unfold Line.rosterOk contentGood
  decide

/-- A TUNE_ACK with an outcome code. -/
def ack (code : Byte) : Assembler := ⟨makeFrame 0x85 4 [3, code], false, false, some .complete⟩

theorem witness_GoodReplyEndsTransaction_ack (code : Byte) (r : TuneOutcome)
    (h : code = 1 ∧ r = .applied ∨ code = 2 ∧ r = .refused ∨ code = 3 ∧ r = .outOfRange) :
    let a := ack code
    let s := tuning a true 2
    ((s.line 0).phase = .awaiting a ∧ (s.line 0).txn = some (.tune (tune true) 2) ∧ a.ended = some .complete ∧
      a.framed = false ∧ a.noisy = false) ∧
    (byteSum a.bytes % 256 = 0 ∧ byteAt a.bytes 0 = 128 + (tune true).addr ∧ byteAt a.bytes 2 = 4 ∧
      byteAt a.bytes 1 = 3 ∧ byteAt a.bytes 3 = (tune true).slot) ∧
    (byteAt a.bytes 4 = 1 ∧ r = .applied ∨ byteAt a.bytes 4 = 2 ∧ r = .refused ∨
      byteAt a.bytes 4 = 3 ∧ r = .outOfRange) ∧ (s.line 0).rosterOk := by
  obtain ⟨rfl, rfl⟩ | ⟨rfl, rfl⟩ | ⟨rfl, rfl⟩ := h <;>
    exact ⟨⟨rfl, rfl, rfl, rfl, rfl⟩, by decide, by decide, by unfold Line.rosterOk; decide⟩

/-- A REPORT of one entry from rack 5. -/
def oneReport : Assembler := ⟨makeFrame 0x85 3 [3, 61, 1, 0], false, false, some .complete⟩

theorem witness_GoodReplyEndsTransaction_report :
    let a := oneReport
    let s := withLine 0 (fun l => { l with
      phase := .awaiting a, txn := some (.poll 5 8 false), roster := [⟨5, .silent, 1, 8⟩] }) onAir
    s.rostersOk ∧ ((s.line 0).phase = .awaiting a ∧ (s.line 0).txn = some (.poll 5 8 false) ∧
      a.ended = some .complete ∧ a.framed = false ∧ a.noisy = false ∧ byteSum a.bytes % 256 = 0 ∧
      byteAt a.bytes 0 = 128 + 5 ∧ byteAt a.bytes 2 = 3 ∧ byteAt a.bytes 1 % 4 = 1 ∧ byteAt a.bytes 1 ≤ 33 ∧
      rackEntry (s.line 0) 5 = some ⟨5, .silent, 1, 8⟩) :=
  ⟨by unfold State.rostersOk Line.rosterOk; decide, by decide⟩

/-- Line 0 awaiting the reply to a TUNE of rack 5, with a roster. -/
def exchanging (a : Assembler) (r : List RosterEntry) : State := withLine 0 (fun l => { l with roster := r }) (tuning a true 1)

theorem witness_ExchangeChangesRosterEntry :
    let s := withLine 1 (fun l => { l with roster := [⟨4, .silent, 2, 0⟩, ⟨30, .unknown, 0, 0⟩] }) running
    s.rostersOk ∧ (s.line 1).roster.find? (fun r => r.addr == 4) = some ⟨4, .silent, 2, 0⟩ :=
  ⟨by unfold State.rostersOk Line.rosterOk; decide, by decide⟩

/-- Each of the three commands, with an entry of the rack and with none. -/
theorem witness_ExchangeChangesRosterEntry_commands :
    let x : Transaction := .tune (tune true) 1
    let known : List RosterEntry := [⟨5, .silent, 2, 8⟩]
    let asked := [⟨[0x85], false, false, none⟩, ⟨[], false, false, none⟩, ack 1, { ack 1 with noisy := true }]
    (∀ a ∈ asked, (exchanging a known).rostersOk ∧ (exchanging a []).rostersOk ∧
      rackEntry ((exchanging a known).line 0) (rackOf x) = some ⟨5, .silent, 2, 8⟩ ∧
      rackEntry ((exchanging a []).line 0) (rackOf x) = none) ∧
    ∀ r, judgesExchange (.gapTimeout 0) 0 x false (exchanging ⟨[0x85], false, false, none⟩ r) ∧
      judgesExchange (.replyTimeout 0) 0 x false (exchanging ⟨[], false, false, none⟩ r) ∧
      judgesExchange (.replyFrame 0) 0 x true (exchanging (ack 1) r) ∧
      judgesExchange (.replyFrame 0) 0 x false (exchanging { ack 1 with noisy := true } r) :=
  ⟨by unfold State.rostersOk Line.rosterOk; decide,
    fun r => ⟨⟨rfl, _, rfl, .inl ⟨rfl, by decide, rfl, rfl⟩⟩, ⟨rfl, _, rfl, .inr (.inl ⟨rfl, rfl, rfl, rfl⟩)⟩,
      ⟨rfl, _, rfl, .inr (.inr ⟨rfl, .complete, rfl, by unfold contentGood; decide⟩)⟩,
      ⟨rfl, _, rfl, .inr (.inr ⟨rfl, .complete, rfl, by unfold contentGood; decide⟩)⟩⟩⟩

/-- R132: the third failure in a row makes the rack LOST, with ALERT and a BLIND notice. -/
theorem test_third_failure_loses_rack :
    let t := after (.replyTimeout 0) (exchanging ⟨[], false, false, none⟩ [⟨5, .silent, 2, 8⟩])
    (t.line 0).roster = [⟨5, .lost, 3, 8⟩] ∧ (t.line 0).notices = [⟨true, 5⟩] ∧ t.hasCause .alert = true ∧
    t.status.marks = [.line 0, .stage 0] := by decide

theorem witness_LinesPollAndSendFrames_timer :
    let off := withLine 0 (fun l => { l with values := ⟨0, 20, 10⟩ }) running
    let busy := withLine 0 (fun l => { l with txn := some (.poll 5 0 false) }) running
    let s := withLine 0 (fun l => { l with roster := [⟨5, .answering, 0, 31⟩] }) running
    (off.line 0).values.divisor = 0 ∧ ((busy.line 0).values.divisor ≠ 0 ∧ (busy.line 0).txn.isSome = true) ∧
    ((s.line 0).values.divisor ≠ 0 ∧ (s.line 0).txn = none ∧ (s.line 0).live = [] ∧ (s.line 0).plan = [] ∧
      (s.line 0).roster[(s.line 0).rotation]? = some ⟨5, .answering, 0, 31⟩ ∧ (s.line 0).phase = .quiet) := by decide

/-- Carriers 0:03 and 0:04 on one rack slot of line 0, which has a report entry. -/
def twoWatched (r : Report) (w v : WatchState) (s : State) : State :=
  withLine 0 (fun l => { l with reports := [r] }) { s with
    air := [entry 3 0 1200 (some ⟨0, 5, 3⟩), entry 4 0 1210 (some ⟨0, 5, 3⟩)]
    watch := { s.watch with records := [⟨3, w, 2, 1, 0, none, none⟩, ⟨4, v, 2, 2, 0, none, none⟩] } }

/-- R73, R74: a carrier confirmed anew, with an old NO_SPARE still to come, is listed and stays in SWAP_WAIT. -/
theorem test_decision_takes_old_answers :
    let r : Report := ⟨5, 3, 40, false, 0⟩
    let s := twoWatched r .suspect .blind { atBoundary checkOrder onAir with swapAnswers := [⟨3, false⟩] }
    let t := after (.reportEntry 0) s
    t.engine.requests = [3] ∧ t.swapAnswers = [] ∧ (t.watchRec 3).map WatchRec.state = some .swapWait := by decide

/-- The `Nodup` clause on the records is `State.watchOk`. The engine is idle with nothing added or one carrier, or stands
at a boundary with seven requests listed and room for one; the settle counts are 1 and 2. -/
theorem witness_ReportCountsTowardsConfirmation :
    let r : Report := ⟨5, 3, 40, false, 0⟩
    let site := atBoundary checkOrder { onAir with engine := { onAir.engine with requests := List.replicate 7 9 } }
    let ok := fun (s : State) (added : List Nat) =>
      let matched := s.air.filter fun x => x.isWatched && x.atSlot 0 r.addr r.slot
      let u := if matched.any fun e => (s.watchRec e.id).any (decides s.watch.params r) then s.takeAnswers else s
      (s.line 0).reports = r :: [] ∧ s.engine.service = none ∧ s.engine.reading = none ∧
      (s.engine.order = none ∧ s.engine.requests = [] ∧ s.engine.pos = .idle ∨
        s.engine.order.isSome = true ∧ s.engine.pos = .boundary) ∧
      (s.watch.records.map WatchRec.id).Nodup ∧ (matched.map AirEntry.id).Nodup ∧
      ((matched.filter (asksSwap u r)).take (8 - s.engine.requests.length)).map AirEntry.id = added
    ok (twoWatched r .settling .settling onAir) [] ∧ ok (twoWatched r .held .blind onAir) [] ∧
    ok (twoWatched r .confirmed .blind onAir) [3] ∧
    ok (twoWatched r .suspect .confirmed { site with swapAnswers := [⟨3, false⟩] }) [3] ∧ ok (twoWatched r .settling .confirmed site) [4] := by
  decide

/-- An addition at an idle engine, with a spare and without one. -/
theorem witness_ReportCountsTowardsConfirmation_idle :
    let r : Report := ⟨5, 3, 40, false, 0⟩
    let e := entry 3 0 1200 (some ⟨0, 5, 3⟩)
    let sp : Spare := ⟨1300, 1, .available, none⟩
    let s := twoWatched r .confirmed .blind onAir
    s.engine.order = none ∧ s.onAirEntry 3 = some e ∧ e.locked = false ∧ s.nextTry e 0 = none ∧
    ({ s with spares := [sp] } : State).nextTry e 0 = some (sp, 0) := by decide

/-- R73, R77: an addition at an idle engine is served at once; with no spare the carrier's answer waits, NO_SPARE. -/
theorem test_idle_addition_is_served :
    let t := after (.reportEntry 0) (twoWatched ⟨5, 3, 40, false, 0⟩ .confirmed .blind onAir)
    t.engine.requests = [] ∧ t.swapAnswers = [⟨3, false⟩] ∧ (t.watchRec 3).map WatchRec.state = some .swapWait := by decide

/-- A settle count of 1 ends in QUIET and one of 2 goes on (R153); an entry for both carriers is applied to both. -/
theorem test_settle_counts :
    let t := after (.reportEntry 0) (twoWatched ⟨5, 3, 40, false, 0⟩ .settling .settling onAir)
    t.watchRec 3 = some ⟨3, .quiet, 0, 0, 0, some 40, some 0⟩ ∧
    t.watchRec 4 = some ⟨4, .settling, 2, 1, 0, some 40, some 0⟩ := by decide

theorem witness_SwapAnswerActsByState :
    let s := fun (id : Nat) => { watching .swapWait 3 onAir with swapAnswers := [⟨id, false⟩] }
    (s 3).swapAnswers = ⟨3, false⟩ :: [] ∧ (s 3).watchOk ∧ (s 4).watchRec 4 = none ∧
    (s 3).watchRec 3 = some (watched .swapWait 3) := ⟨by decide, watching_ok _ _ _, by decide, by decide⟩

theorem witness_LiveOutcomeEndsRetuning :
    let s := fun (m : OutcomeMsg) => withLine 0 (fun l => { l with liveOutcomes := [m] }) (watching .retuning 0 onAir)
    (∀ m, (s m).watchOk ∧ (s m).swapAnswers = []) ∧ ((s ⟨3, 1200, .applied⟩).line 0).liveOutcomes = [⟨3, 1200, .applied⟩] ∧
    (s ⟨3, 1200, .applied⟩).watchRec 3 = some (watched .retuning 0) ∧
    (s ⟨3, 1200, .applied⟩).airEntry 3 = some (entry 3 0 1200 (some ⟨0, 5, 3⟩)) ∧
    (∀ w e, (s ⟨4, 1200, .applied⟩).watchRec 4 = some w → (s ⟨4, 1200, .applied⟩).airEntry 4 = some e →
      w.state ≠ .retuning ∨ e.code ≠ 1200) :=
  ⟨fun _ => ⟨by simp [State.watchOk, withLine, watching, State.onLine, State.setLine], rfl⟩, by decide, by decide, by decide,
    fun w e h => by
      have : (withLine 0 (fun l => { l with liveOutcomes := [⟨4, 1200, .applied⟩] })
        (watching .retuning 0 onAir)).watchRec 4 = none := by decide
      rw [this] at h
      cases h⟩

theorem witness_BlindNoticesMoveTheRacksCarriers :
    let s := fun (b : Bool) => withLine 0 (fun l => { l with notices := [⟨b, 5⟩] }) (watching .swapWait 3 onAir)
    let e := entry 3 0 1200 (some ⟨0, 5, 3⟩)
    (∀ b, (s b).watchOk) ∧ ((s true).line 0).notices = [⟨true, 5⟩] ∧ ((s false).line 0).notices = [⟨false, 5⟩] ∧
    e ∈ (s true).air ∧ e.isWatched = true ∧ e.atRack 0 5 = true ∧ (s true).watchRec 3 = some (watched .swapWait 3) :=
  ⟨fun _ => by simp [State.watchOk, withLine, watching, State.onLine, State.setLine], by decide⟩

theorem witness_StatusWriteTakesOldestMark :
    let ok := fun (r : RecId) (a n : Nat) =>
      let s := { running with status := { running.status with marks := [r] } }
      s.status.job = .idle ∧ s.status.marks = r :: [] ∧ s.latch.statusAddr = some 0x10000 ∧ s.mail.status = none ∧
      s.allowed true (0x10000 + a) n = true
    ok (.stage 11) 88 8 ∧ ok (.line 3) 224 32 ∧ ok (.spare 63) 760 8 ∧ ok (.carrier 2911) 19440 16 := by decide

theorem witness_WrittenRecordMovesEpoch :
    let x : Transfer := ⟨.status, true, 0x10080, 32, List.replicate 32 0⟩
    let s := granted x { running with status := { running.status with job := .recordWait (.line 0) false } }
    let c := granted x { running with status := { running.status with job := .recordWait (.carrier 2911) false } }
    let g := granted x { running with status := { running.status with job := .stageWait (.carrier 2911) false } }
    (c.status.job = .recordWait (.carrier 2911) false ∧ g.status.job = .stageWait (.carrier 2911) false) ∧ s.status.job = .recordWait (.line 0) false ∧ s.latch.statusAddr = some 0x10000 ∧ (∀ id, RecId.line 0 ≠ .carrier id) ∧
    s.allowed true (0x10000 + (8 * (2911 / 256) + 6)) 2 = true ∧
    s.port.phase = .granted .status ∧ s.port.transfers = [x] ∧ x.owner = .status ∧ x.write = true ∧
    x.left ≤ burstLength s.beatBytes x.addr x.left :=
  ⟨by decide, by decide, by decide, fun _ => nofun, by decide, by decide, by decide, by decide, by decide, by decide⟩

/-- A record of the rewrite whose write counts for it, and what is left of the rewrite after it. -/
theorem witness_WrittenRecordMovesEpoch_rewrite :
    let x : Transfer := ⟨.status, true, 0x10080, 32, List.replicate 32 0⟩
    let s := granted x { running with
      status := { running.status with job := .recordWait (.line 0) true }, rewrite := some [.line 0, .line 1] }
    s.status.job = .recordWait (.line 0) true ∧ s.port.transfers = [x] ∧ s.rewrite = some [.line 0, .line 1] ∧
    (after .burstComplete s).rewrite = some [.line 1] ∧ (after (.busError 0) s).rewrite = some [.line 1] := by decide

/-- A status area outside the windows. -/
theorem witness_WrittenRecordMovesEpoch_window :
    let s := { running with
      status := { running.status with marks := [.line 3] }, latch := { running.latch with statusAddr := some 0x1000000 } }
    s.status.job = .idle ∧ s.status.marks = .line 3 :: [] ∧ s.latch.statusAddr = some 0x1000000 ∧
    s.allowed true (0x1000000 + (recordPlace (.line 3)).1) (recordPlace (.line 3)).2 = false ∧
    s.allowed true (0x1000000 + (8 * (2911 / 256) + 6)) 2 = false := by decide

/-- A step that answers a next state, for the invariants' second hypothesis. -/
theorem witness_step : ∃ t, step { onAir with pending := [.nudge true] } = .next t := ⟨_, rfl⟩

theorem witness_StepsKeepMemoryCanonical : { onAir with pending := [.nudge true], mem := [(5, 1)] }.memOk := by
  unfold State.memOk
  decide

theorem witness_ResetEstablishesInvariants : { onAir with mem := [(5, 1)] }.memOk := by
  unfold State.memOk
  decide

theorem witness_StepsKeepAirSetOrdered : { onAir with pending := [.nudge true] }.airOk := onAir_airOk

theorem witness_StepsKeepCacheTagsDistinct : { onAir with pending := [.nudge true] }.cacheOk := by
  intro set a b h
  cases h

theorem witness_StepsKeepQueuesAndRostersBounded :
    { onAir with pending := [.nudge true] }.queuesOk ∧ { onAir with pending := [.nudge true] }.rostersOk := by
  unfold State.queuesOk Line.queueOk State.rostersOk Line.rosterOk
  decide

theorem witness_StepsKeepRequestsWatchesSparesAndMarks :
    let s := { onAir with
      pending := [.nudge true], mem := [(5, 1)], spares := [⟨1300, 1, .available, none⟩]
      status := { onAir.status with marks := [.spare 0, .stage 11] } }
    s.requestsOk ∧ s.watchOk ∧ s.sparesOk ∧ s.marksOk ∧ s.memOk := by
  unfold State.requestsOk State.watchOk State.sparesOk State.marksOk State.memOk
  decide

theorem witness_StepsKeepCountersInRange : { onAir with pending := [.nudge true], bins := [(9, ⟨7, true⟩)] }.binsOk := by
  refine ⟨by decide, fun b => ?_⟩
  simp only [State.bin, sparseGet]
  split <;> decide

theorem witness_StepsKeepCouplingAndParameters :
    let s := { onAir with pending := [.nudge true] }
    s.couplingOk ∧ s.paramsOk :=
  ⟨⟨by decide, fun _ _ => Nat.zero_le _, fun _ _ => rfl⟩, by
    unfold State.paramsOk PlanParams.ok WatchParams.ok
    decide⟩

end Sys2Proof.Tests
end

section
/-! The tests of the frequency grid (R18, R47, R48). -/

namespace Sys2Proof.Machine

/-- Whether a code lies in a tuning range (R48), the grid's last code being 8959. -/
@[simp] theorem inRange_iff (low high c : Nat) : inRange low high c = true ↔ c ≤ 8959 ∧ low ≤ c ∧ c ≤ high := by
  have codes_eq : Config.codes = 8960 := rfl
  simp only [inRange, codes_eq, Bool.and_eq_true, decide_eq_true_eq]
  omega

/-- No code lies in a range whose ends are crossed (R48). -/
theorem inRange_of_high_lt_low {low high : Nat} (h : high < low) (c : Nat) : inRange low high c = false := by
  rw [Bool.eq_false_iff, ne_eq, inRange_iff]
  omega

/-- A tuning step of 0 is read as 1 (R47). -/
@[simp] theorem readStep_zero : readStep 0 = 1 := rfl

/-- From `low` on, the remainder of the distance tells the codes reached in whole steps; a step of 0 reaches `low`
alone. -/
theorem sub_mod_eq_zero_iff_steps {low x : Nat} (h : low ≤ x) (step : Nat) :
    (x - low) % step = 0 ↔ ∃ n, x = low + n * step := by
  rw [← Nat.dvd_iff_mod_eq_zero, dvd_iff_exists_eq_mul_left]
  exact exists_congr fun n => by rw [Nat.sub_eq_iff_eq_add' h]

/-- Test 1 (R18): within the range, and whole steps above its low end. -/
theorem test1_iff (low high step x : Nat) :
    test1 low high step x = true ↔ x ≤ 8959 ∧ low ≤ x ∧ x ≤ high ∧ ∃ n, x = low + n * step := by
  simp only [test1, Bool.and_eq_true, beq_iff_eq, inRange_iff, and_assoc]
  refine and_congr_right fun _ => and_congr_right fun hlow => and_congr_right fun _ => ?_
  exact sub_mod_eq_zero_iff_steps hlow step

/-- A step of 1 admits every code of the range (R18). -/
theorem test1_step_one (low high x : Nat) : test1 low high 1 x = inRange low high x := by
  simp [test1, Nat.mod_one]

/-- An empty range fails every candidate (R18). -/
theorem test1_of_high_lt_low {low high : Nat} (h : high < low) (step x : Nat) : test1 low high step x = false := by
  rw [test1, inRange_of_high_lt_low h, Bool.false_and]

/-- Settles O32: test 1's remainder is read as a number of steps once the range gives `low ≤ x`. -/
theorem testOneIsGridRangeAndStep : Obligations.TestOneIsGridRangeAndStep := by
  refine ⟨test1_iff, fun low high x => ?step_one, fun _ _ step x h => test1_of_high_lt_low h step x,
    fun bs hzero => ?zero_step⟩
  case step_one => rw [test1_step_one, inRange_iff]
  case zero_step =>
    calc (carrierInfo bs).tuneStep = readStep (byteAt bs 8) := rfl
      _ = readStep 0 := by rw [hzero]
      _ = 1 := readStep_zero

end Sys2Proof.Machine
end

section
/-! The invariant of the Carrier Cache's sets (R53), as a closed property of the tables. -/

namespace Sys2Proof.Machine

/-- A closed property that every reset establishes is kept by every step: by a tick of an empty queue, by RESET, and by
each other command, which changes the tables only in the admissible ways. -/
theorem Closed.step {P : State → Prop} (hP : Closed P) (hreset : ∀ (s : State) (beats : Nat), P (s.afterReset beats))
    {s t : State} (h : P s) (ht : step s = .next t) : P t := by
  cases hq : s.pending with
  | nil =>
    rw [step_nil s hq] at ht
    cases ht
    exact hP.tick h
  | cons c rest =>
    rw [step_cons s hq] at ht
    by_cases hc : ∃ beats, c = .reset beats
    · obtain ⟨beats, rfl⟩ := hc
      cases ht
      exact hreset _ beats
    · have hrest : P { s with pending := rest } := hP.same h rfl
      exact hP.exec hrest (not_exists.1 hc) ht

/-- The tags of a state's sets are read off its ways alone. -/
theorem State.cacheOk_of_cache_eq {s t : State} (hs : s.cacheOk) (h : t.cache = s.cache) : t.cacheOk := by
  have way_eq : ∀ set b, t.way set b = s.way set b := fun set b => by rw [State.way, State.way, h]
  intro set a b ha hb
  rw [way_eq] at ha hb
  exact hs set a b ha hb

/-- An empty cache has no valid way. -/
theorem State.cacheOk_of_cache_nil {s : State} (h : s.cache = []) : s.cacheOk := by
  intro set a b ha _
  rw [State.way, h, sparseGet_nil] at ha
  cases ha

/-- A reset empties the cache, whichever settings it reads (R193). -/
@[simp] theorem State.afterReset_cache (s : State) (beats : Nat) : (s.afterReset beats).cache = [] := by
  unfold State.afterReset
  dsimp only
  split <;> rfl

/-- R53 speaks of the cache's ways only: a change of another table leaves them as they are, and a change of the ways is
admissible only when it keeps the tags distinct. -/
theorem closed_cacheOk : Closed State.cacheOk where
  same hs ht := by
    simp only [State.tables, Prod.mk.injEq] at ht
    obtain ⟨-, -, -, -, -, -, hcache, -⟩ := ht
    exact State.cacheOk_of_cache_eq hs hcache
  changeCache _ keeps hs := keeps hs
  changeMem _ _ hs := State.cacheOk_of_cache_eq hs rfl
  changeBin _ _ _ hs := State.cacheOk_of_cache_eq hs rfl
  changeCoupling _ _ hs := State.cacheOk_of_cache_eq hs rfl
  changeParams _ hs := State.cacheOk_of_cache_eq hs rfl
  changeWatchParams _ _ _ _ _ _ hs := State.cacheOk_of_cache_eq hs rfl
  changeThreshold _ _ hs := State.cacheOk_of_cache_eq hs rfl
  changeAir _ _ hs := State.cacheOk_of_cache_eq hs rfl
  changeRequests _ _ hs := State.cacheOk_of_cache_eq hs rfl
  changeRecords _ _ hs := State.cacheOk_of_cache_eq hs rfl
  changeSpares _ _ hs := State.cacheOk_of_cache_eq hs rfl
  changeLine _ _ _ _ hs := State.cacheOk_of_cache_eq hs rfl
  changeMarks _ _ hs := State.cacheOk_of_cache_eq hs rfl

/-- Settles O56: the cache is empty at every reset, and a step changes its ways only by fills made on a miss, updates
that keep the tag, and invalidations (`Closed.fillWay`, `Closed.updateWay`, `Closed.dropWay`, `Closed.flush`). -/
theorem stepsKeepCacheTagsDistinct : Obligations.StepsKeepCacheTagsDistinct := by
  refine ⟨State.cacheOk_of_cache_nil rfl, fun s t hs ht => ?_⟩
  exact closed_cacheOk.step (fun u beats => State.cacheOk_of_cache_nil (u.afterReset_cache beats)) hs ht

end Sys2Proof.Machine
end

section
/-! The invariants of Safety as closed properties of the tables, and the reset that establishes them. -/

namespace Sys2Proof.Machine

/-! ### The tables one by one -/

theorem State.tables_eq_iff {s t : State} : t.tables = s.tables ↔
    t.mem = s.mem ∧ t.bins = s.bins ∧ t.coupling = s.coupling ∧ t.params = s.params ∧
    t.watch.params = s.watch.params ∧ t.occThreshold = s.occThreshold ∧ t.cache = s.cache ∧ t.air = s.air ∧
    t.engine.requests = s.engine.requests ∧ t.watch.records = s.watch.records ∧ t.spares = s.spares ∧
    t.lines = s.lines ∧ t.status.marks = s.status.marks := by
  simp only [State.tables, Prod.mk.injEq]

theorem State.line_setLine (s : State) (k j : Fin 4) (l : Line) :
    (s.setLine k l).line j = if j = k then l else s.line j := by
  unfold State.line State.setLine
  simp only [Vector.get_eq_getElem, Vector.getElem_set]
  by_cases h : j = k
  · subst h; simp
  · have hv : k.val ≠ j.val := fun e => h (Fin.ext e.symm)
    simp [h, hv]

theorem State.line_onLine (s : State) (k j : Fin 4) (f : Line → Line) :
    (s.onLine k f).line j = if j = k then f (s.line k) else s.line j :=
  s.line_setLine k j _

@[simp] theorem State.line_onLine_same (s : State) (k : Fin 4) (f : Line → Line) :
    (s.onLine k f).line k = f (s.line k) := by
  rw [State.line_onLine, if_pos rfl]

/-- What holds of every line holds still after a change of one line that keeps it there. -/
theorem State.forall_line_onLine {s : State} {Q : Line → Prop} {k : Fin 4} {f : Line → Line}
    (hf : Q (s.line k) → Q (f (s.line k))) (hs : ∀ j, Q (s.line j)) (j : Fin 4) : Q ((s.onLine k f).line j) := by
  rw [State.line_onLine]
  split
  · exact hf (hs k)
  · exact hs j

/-! ### Values as orders load them -/

theorem isolation_of_onDiagonal {k row : Nat} (hrow : row < 12) (h : k = row * 12 + row) : onDiagonal k = true := by
  simp only [onDiagonal, beq_iff_eq]
  omega

/-- A coupling list keeps each cell within 0..63 and leaves the diagonal (R40). -/
theorem loadCells_keeps (k : Nat) (bs : List Byte) (t : Sparse Nat)
    (hwf : sparseWf 0 t = true) (hcells : ∀ j, sparseGet 0 t j ≤ 63) :
    sparseWf 0 (loadCells k bs t) = true ∧ (∀ j, sparseGet 0 (loadCells k bs t) j ≤ 63) ∧
      ∀ j, onDiagonal j = true → sparseGet 0 (loadCells k bs t) j = sparseGet 0 t j := by
  induction bs generalizing k t with
  | nil => exact ⟨hwf, hcells, fun _ _ => rfl⟩
  | cons b bs ih =>
    rw [loadCells]
    by_cases hk : onDiagonal k = true
    · rw [if_pos hk]
      exact ih (k + 1) t hwf hcells
    · rw [if_neg hk]
      have hset : ∀ j, sparseGet 0 (sparseSet 0 t k (min b.toNat 63)) j ≤ 63 := fun j => by
        rw [sparseGet_set]
        split
        · exact min_le_right _ _
        · exact hcells j
      obtain ⟨hwf', hcells', hdiag⟩ := ih (k + 1) _ (sparseWf_set k _ hwf) hset
      refine ⟨hwf', hcells', fun j hj => ?_⟩
      have hne : j ≠ k := by
        rintro rfl
        exact hk hj
      rw [hdiag j hj, sparseGet_set_other _ _ _ _ _ hne]

/-- A signed byte lies within −128..127. -/
theorem signed8_bounds (n : Nat) : -128 ≤ signed8 n ∧ signed8 n ≤ 127 := by
  have hlow := BitVec.le_toInt (BitVec.ofNat 8 n)
  have hhigh := BitVec.toInt_le (x := BitVec.ofNat 8 n)
  unfold signed8
  omega

/-- SET_PARAMS clamps each Plan Parameter into its range (R43). -/
theorem readParams_ok (b : OrderBody) : (readParams b).ok := by
  have h3 := signed8_bounds (paramByte b.p1 1)
  have h5 := signed8_bounds (paramByte b.p1 2)
  simp only [PlanParams.ok, readParams]
  omega

/-- WATCH_SETUP clamps each Watch Parameter into its range (R145). -/
theorem readWatch_ok {f e c t l : Nat} (he : e ≤ 255) : (readWatch f e c t l).ok := by
  simp only [WatchParams.ok, readWatch]
  omega

/-! ### Each invariant is a closed property

An invariant reads one table. The admissible changes of that table keep it, and a change of any other table leaves the
invariant word for word as it was. -/

theorem closed_memOk : Closed State.memOk := by
  constructor
  case same =>
    intro s t hs ht
    obtain ⟨hmem, -⟩ := State.tables_eq_iff.1 ht
    unfold State.memOk
    rwa [hmem]
  case changeMem => exact fun _ keeps hs => keeps hs
  all_goals (intros; assumption)

theorem closed_binsOk : Closed State.binsOk := by
  constructor
  case same =>
    intro s t hs ht
    obtain ⟨-, hbins, -⟩ := State.tables_eq_iff.1 ht
    unfold State.binsOk State.bin
    rwa [hbins]
  case changeBin =>
    intro s b v hv hs
    obtain ⟨hwf, hcount⟩ := hs
    refine ⟨sparseWf_set b v hwf, fun j => ?_⟩
    unfold State.bin State.setBin
    rw [sparseGet_set]
    split
    · exact hv (hcount b)
    · exact hcount j
  all_goals (intros; assumption)

theorem closed_couplingOk : Closed State.couplingOk := by
  constructor
  case same =>
    intro s t hs ht
    obtain ⟨-, -, hcoupling, -⟩ := State.tables_eq_iff.1 ht
    unfold State.couplingOk State.isolation
    rwa [hcoupling]
  case changeCoupling =>
    intro s k bs hs
    obtain ⟨hwf, hcells, hdiag⟩ := hs
    have hall : ∀ j, sparseGet 0 s.coupling j ≤ 63 := fun j => by
      have hj := hcells (j / 12) (j % 12)
      rwa [State.isolation, Nat.div_add_mod' j 12] at hj
    obtain ⟨hwf', hcells', hdiag'⟩ := loadCells_keeps k bs s.coupling hwf hall
    refine ⟨hwf', fun row col => hcells' _, fun row hrow => ?_⟩
    exact (hdiag' _ (isolation_of_onDiagonal hrow rfl)).trans (hdiag row hrow)
  all_goals (intros; assumption)

theorem closed_paramsOk : Closed State.paramsOk := by
  constructor
  case same =>
    intro s t hs ht
    obtain ⟨-, -, -, hparams, hwatch, hocc, -⟩ := State.tables_eq_iff.1 ht
    unfold State.paramsOk
    rwa [hparams, hwatch, hocc]
  case changeParams => exact fun b hs => ⟨readParams_ok b, hs.2⟩
  case changeWatchParams => exact fun _ _ _ _ _ he hs => ⟨hs.1, readWatch_ok he, hs.2.2⟩
  case changeThreshold => exact fun _ hn hs => ⟨hs.1, hs.2.1, hn⟩
  all_goals (intros; assumption)

theorem closed_airOk : Closed State.airOk := by
  constructor
  case same =>
    intro s t hs ht
    obtain ⟨-, -, -, -, -, -, -, hair, -⟩ := State.tables_eq_iff.1 ht
    unfold State.airOk
    rwa [hair]
  case changeAir => exact fun _ keeps hs => keeps hs
  all_goals (intros; assumption)

theorem closed_requestsOk : Closed State.requestsOk := by
  constructor
  case same =>
    intro s t hs ht
    obtain ⟨-, -, -, -, -, -, -, -, hrequests, -⟩ := State.tables_eq_iff.1 ht
    unfold State.requestsOk
    rwa [hrequests]
  case changeRequests => exact fun _ keeps hs => keeps hs
  all_goals (intros; assumption)

theorem closed_watchOk : Closed State.watchOk := by
  constructor
  case same =>
    intro s t hs ht
    obtain ⟨-, -, -, -, -, -, -, -, -, hrecords, -⟩ := State.tables_eq_iff.1 ht
    unfold State.watchOk
    rwa [hrecords]
  case changeRecords => exact fun _ keeps hs => keeps hs
  all_goals (intros; assumption)

theorem closed_sparesOk : Closed State.sparesOk := by
  constructor
  case same =>
    intro s t hs ht
    obtain ⟨-, -, -, -, -, -, -, -, -, -, hspares, -⟩ := State.tables_eq_iff.1 ht
    unfold State.sparesOk
    rwa [hspares]
  case changeSpares => exact fun _ keeps hs => keeps hs
  all_goals (intros; assumption)

theorem closed_marksOk : Closed State.marksOk := by
  constructor
  case same =>
    intro s t hs ht
    obtain ⟨-, -, -, -, -, -, -, -, -, -, -, -, hmarks⟩ := State.tables_eq_iff.1 ht
    unfold State.marksOk
    rwa [hmarks]
  case changeMarks => exact fun _ keeps hs => keeps hs
  all_goals (intros; assumption)

theorem closed_queuesOk : Closed State.queuesOk := by
  constructor
  case same =>
    intro s t hs ht
    obtain ⟨-, -, -, -, -, -, -, -, -, -, -, hlines, -⟩ := State.tables_eq_iff.1 ht
    unfold State.queuesOk State.line
    rwa [hlines]
  case changeLine => exact fun _ _ keepsQueue _ hs => State.forall_line_onLine keepsQueue hs
  all_goals (intros; assumption)

theorem closed_rostersOk : Closed State.rostersOk := by
  constructor
  case same =>
    intro s t hs ht
    obtain ⟨-, -, -, -, -, -, -, -, -, -, -, hlines, -⟩ := State.tables_eq_iff.1 ht
    unfold State.rostersOk State.line
    rwa [hlines]
  case changeLine => exact fun _ _ _ keepsRoster hs => State.forall_line_onLine keepsRoster hs
  all_goals (intros; assumption)

/-! ### Reset -/

/-- All that a reset can do: it gives the reset values, with the working copy of a block that passes its check, or with
the factory defaults and SETTINGS_DEFAULTED (R191, R193). -/
theorem State.afterReset_cases (s : State) (beats : Nat) :
    (settingsPass s.settings.block = true ∧
      s.afterReset beats = State.resetWith s.settings.block (readSettings s.settings.block) 0 (s.memAtReset beats) s.tuner
        s.pending s.paces) ∨
    (settingsPass s.settings.block = false ∧
      s.afterReset beats = State.resetWith s.settings.block WorkingCopy.factory (causeBit .settingsDefaulted)
        (s.memAtReset beats) s.tuner s.pending s.paces) := by
  unfold State.afterReset
  cases hpass : settingsPass s.settings.block <;> simp [hpass]

/-- Every reset is a `State.resetWith`. -/
theorem State.afterReset_eq_resetWith (s : State) (beats : Nat) : ∃ copy causes,
    s.afterReset beats = State.resetWith s.settings.block copy causes (s.memAtReset beats) s.tuner s.pending s.paces := by
  rcases s.afterReset_cases beats with ⟨-, h⟩ | ⟨-, h⟩ <;> exact ⟨_, _, h⟩

/-- At a reset shared memory keeps its form: it stands, or takes the completed beats of a write. -/
theorem State.memWf_memAtReset {s : State} (beats : Nat) (h : s.memOk) : Memory.wf (s.memAtReset beats) = true := by
  unfold State.memAtReset
  split
  · exact memWf_store _ _ h
  · exact h

section
variable (block : List Byte) (copy : WorkingCopy) (causes : BitVec 7) (mem : Sparse Byte) (tuner : Option (BitVec 16))
  (pending : List Instr) (paces : Nat)

/-- A line after a reset has its values from the working copy (R121). -/
@[simp] theorem State.resetWith_line (k : Fin 4) :
    (State.resetWith block copy causes mem tuner pending paces).line k = Line.reset (copy.lines.get k) := by
  fin_cases k <;> rfl

theorem State.resetWith_binsOk : (State.resetWith block copy causes mem tuner pending paces).binsOk :=
  ⟨rfl, fun _ => Nat.zero_le 7⟩

theorem State.resetWith_couplingOk : (State.resetWith block copy causes mem tuner pending paces).couplingOk :=
  ⟨rfl, fun _ _ => Nat.zero_le 63, fun _ _ => rfl⟩

theorem State.resetWith_paramsOk : (State.resetWith block copy causes mem tuner pending paces).paramsOk := by
  have hplan : PlanParams.reset.ok := by unfold PlanParams.ok; decide
  have hwatch : WatchParams.reset.ok := by unfold WatchParams.ok; decide
  exact ⟨hplan, hwatch, (by decide : 60 ≤ 200)⟩

theorem State.resetWith_airOk : (State.resetWith block copy causes mem tuner pending paces).airOk :=
  ⟨Nat.zero_le 200, List.nodup_nil, List.Pairwise.nil, fun _ he => nomatch he⟩

theorem State.resetWith_requestsOk : (State.resetWith block copy causes mem tuner pending paces).requestsOk :=
  ⟨Nat.zero_le 8, List.nodup_nil⟩

theorem State.resetWith_sparesOk : (State.resetWith block copy causes mem tuner pending paces).sparesOk :=
  ⟨List.nodup_nil, List.nodup_nil⟩

theorem State.resetWith_watchOk : (State.resetWith block copy causes mem tuner pending paces).watchOk :=
  List.nodup_nil

theorem State.resetWith_marksOk : (State.resetWith block copy causes mem tuner pending paces).marksOk :=
  ⟨List.nodup_nil, fun _ hr => nomatch hr⟩

theorem State.resetWith_queuesOk : (State.resetWith block copy causes mem tuner pending paces).queuesOk := fun k => by
  rw [State.resetWith_line]
  exact ⟨Nat.zero_le 8, Nat.zero_le 6⟩

theorem State.resetWith_rostersOk : (State.resetWith block copy causes mem tuner pending paces).rostersOk := fun k => by
  rw [State.resetWith_line]
  exact ⟨Nat.zero_le 8, List.nodup_nil, fun _ he => nomatch he⟩

end

/-- What holds of every state right after a reset holds after RESET. -/
theorem State.afterReset_of_resetWith {P : State → Prop}
    (hP : ∀ block copy causes mem tuner pending paces, P (State.resetWith block copy causes mem tuner pending paces))
    (s : State) (beats : Nat) : P (s.afterReset beats) := by
  obtain ⟨copy, causes, h⟩ := s.afterReset_eq_resetWith beats
  rw [h]
  exact hP _ _ _ _ _ _ _

/-- A closed property that holds right after every reset is kept by every step. -/
theorem Closed.step_of_resetWith {P : State → Prop} (hP : Closed P)
    (hreset : ∀ block copy causes mem tuner pending paces, P (State.resetWith block copy causes mem tuner pending paces))
    {s t : State} (hs : P s) (ht : Machine.step s = .next t) : P t :=
  hP.step (State.afterReset_of_resetWith hreset) hs ht

/-- Shared memory after a reset keeps its form. -/
theorem State.afterReset_memOk {s : State} (beats : Nat) (h : s.memOk) : (s.afterReset beats).memOk := by
  obtain ⟨copy, causes, hr⟩ := s.afterReset_eq_resetWith beats
  rw [hr]
  exact s.memWf_memAtReset beats h

/-! ### The statements -/

/-- Settles O53. RESET alone needs the form before it: the completed beats of a write in progress are stored. -/
theorem stepsKeepMemoryCanonical : Obligations.StepsKeepMemoryCanonical := by
  intro s t hs ht
  cases hq : s.pending with
  | nil =>
    rw [step_nil s hq] at ht
    cases ht
    exact closed_memOk.tick hs
  | cons c rest =>
    rw [step_cons s hq] at ht
    have hrest : State.memOk { s with pending := rest } := hs
    by_cases hc : ∃ beats, c = .reset beats
    · obtain ⟨beats, rfl⟩ := hc
      cases ht
      exact State.afterReset_memOk beats hrest
    · exact closed_memOk.exec hrest (not_exists.1 hc) ht

/-- Settles O54: a bin changes only through `State.setBin` with a counter within 0..7 (`closed_binsOk`). -/
theorem stepsKeepCountersInRange : Obligations.StepsKeepCountersInRange :=
  fun _ _ hs ht => closed_binsOk.step_of_resetWith State.resetWith_binsOk hs ht

/-- Settles O55: LOAD_COUPLING, SET_PARAMS, WATCH_SETUP and a SWEEP's threshold clamp what they load. -/
theorem stepsKeepCouplingAndParameters : Obligations.StepsKeepCouplingAndParameters :=
  fun _ _ hc hp ht => ⟨closed_couplingOk.step_of_resetWith State.resetWith_couplingOk hc ht,
    closed_paramsOk.step_of_resetWith State.resetWith_paramsOk hp ht⟩

/-- Settles O57: every change of the Air Set is an insertion in its place, a removal, or a change in place. -/
theorem stepsKeepAirSetOrdered : Obligations.StepsKeepAirSetOrdered :=
  fun _ _ hs ht => closed_airOk.step_of_resetWith State.resetWith_airOk hs ht

/-- Settles O58: four closed properties, one for each list. -/
theorem stepsKeepRequestsWatchesSparesAndMarks : Obligations.StepsKeepRequestsWatchesSparesAndMarks :=
  fun _ _ hr hw hs hm ht => ⟨closed_requestsOk.step_of_resetWith State.resetWith_requestsOk hr ht,
    closed_watchOk.step_of_resetWith State.resetWith_watchOk hw ht,
    closed_sparesOk.step_of_resetWith State.resetWith_sparesOk hs ht,
    closed_marksOk.step_of_resetWith State.resetWith_marksOk hm ht⟩

/-- Settles O59: a line changes only where an accepted offer or a new roster keeps its bounds. -/
theorem stepsKeepQueuesAndRostersBounded : Obligations.StepsKeepQueuesAndRostersBounded :=
  fun _ _ hq hr ht => ⟨closed_queuesOk.step_of_resetWith State.resetWith_queuesOk hq ht,
    closed_rostersOk.step_of_resetWith State.resetWith_rostersOk hr ht⟩

/-- The invariants of every table but shared memory. -/
def State.tablesOk (t : State) : Prop :=
  t.binsOk ∧ t.couplingOk ∧ t.paramsOk ∧ t.cacheOk ∧ t.airOk ∧ t.requestsOk ∧ t.sparesOk ∧ t.queuesOk ∧ t.rostersOk ∧
    t.watchOk ∧ t.marksOk

theorem State.resetWith_tablesOk (block : List Byte) (copy : WorkingCopy) (causes : BitVec 7) (mem : Sparse Byte)
    (tuner : Option (BitVec 16)) (pending : List Instr) (paces : Nat) :
    (State.resetWith block copy causes mem tuner pending paces).tablesOk :=
  ⟨State.resetWith_binsOk .., State.resetWith_couplingOk .., State.resetWith_paramsOk .., State.cacheOk_of_cache_nil rfl,
    State.resetWith_airOk .., State.resetWith_requestsOk .., State.resetWith_sparesOk .., State.resetWith_queuesOk _ _ _ _ _ _ _,
    State.resetWith_rostersOk _ _ _ _ _ _ _, State.resetWith_watchOk .., State.resetWith_marksOk ..⟩

/-- Settles O60: every reset, power-on too, is a `State.resetWith`. -/
theorem resetEstablishesInvariants : Obligations.ResetEstablishesInvariants :=
  ⟨rfl, State.resetWith_tablesOk .., fun beats s =>
    ⟨s.afterReset beats, rfl, State.afterReset_of_resetWith State.resetWith_tablesOk s beats,
      State.afterReset_memOk beats⟩⟩

end Sys2Proof.Machine
end

section
/-! Facts about the shared operations: states by their fields, the cause flags, memory after a store, and the bus. -/

namespace Sys2Proof.Machine

/-! ### States by their fields -/

/-- Two states with the same fields are one. -/
theorem State.eq_of_fields {s t : State} (h : s.pending = t.pending ∧ s.run = t.run ∧ s.runBit = t.runBit ∧
    s.anchor = t.anchor ∧ s.intEnable = t.intEnable ∧ s.causes = t.causes ∧ s.fault = t.fault ∧ s.latch = t.latch ∧
    s.windows = t.windows ∧ s.rewrite = t.rewrite ∧ s.mem = t.mem ∧ s.port = t.port ∧ s.mail = t.mail ∧
    s.settings = t.settings ∧ s.board = t.board ∧ s.engine = t.engine ∧ s.air = t.air ∧ s.coupling = t.coupling ∧
    s.params = t.params ∧ s.spares = t.spares ∧ s.cache = t.cache ∧ s.alt = t.alt ∧ s.bins = t.bins ∧ s.band = t.band ∧
    s.occThreshold = t.occThreshold ∧ s.sweep = t.sweep ∧ s.tuner = t.tuner ∧ s.lines = t.lines ∧ s.watch = t.watch ∧
    s.swapAnswers = t.swapAnswers ∧ s.status = t.status ∧ s.paces = t.paces) : s = t := by
  cases s
  cases t
  simpa only [State.mk.injEq] using h

/-! ### The cause flags (R188) -/

/-- A setting event sets its own flag and leaves every other. -/
@[simp] theorem State.hasCause_setCause (s : State) (c d : Cause) :
    (s.setCause c).hasCause d = (s.hasCause d || decide (d = c)) := by
  simp only [State.hasCause, State.setCause, BitVec.getLsbD_or]
  congr 1
  cases c <;> cases d <;> decide

/-- The bit of STATUS at which a flag stands names its cause. -/
theorem causeAt_iff (i : Nat) (c : Cause) : causeAt i = some c ↔ i = 8 + causeIndex c := by
  constructor
  · intro h
    unfold causeAt at h
    split at h <;> cases h <;> rfl
  · rintro rfl
    cases c <;> rfl

theorem causeIndex_lt (c : Cause) : causeIndex c < 7 := by
  cases c <;> decide

/-- Each of the seven flags belongs to a cause. -/
theorem exists_causeIndex_eq {i : Nat} (h : i < 7) : ∃ c, causeIndex c = i := by
  have names : ∀ j : Fin 7, ∃ c ∈ [Cause.orderEnded, .statusChanged, .alert, .memoryFault, .halted, .anchorBad,
      .settingsDefaulted], causeIndex c = j.val := by decide
  obtain ⟨c, -, hc⟩ := names ⟨i, h⟩
  exact ⟨c, hc⟩

/-- A host write of STATUS clears the flags written 1. -/
theorem State.hasCause_clearCauses (s : State) (v : Word) (c : Cause) :
    (s.clearCauses v).hasCause c = (s.hasCause c && !v.getLsbD (8 + causeIndex c)) := by
  have hlt := causeIndex_lt c
  simp [State.hasCause, State.clearCauses, hlt]

/-- A vector of bits differs from 0 when some bit is set. -/
theorem bitVec_ne_zero_iff {w : Nat} (x : BitVec w) : x ≠ 0 ↔ ∃ i < w, x.getLsbD i = true := by
  refine ⟨fun h => ?_, fun ⟨i, _, hi⟩ hx => by simp [hx] at hi⟩
  by_contra hnone
  refine h (BitVec.eq_of_getLsbD_eq fun i hi => ?_)
  rw [Bool.eq_false_iff.2 fun hb => hnone ⟨i, hi, hb⟩]
  simp

/-- INT is asserted while some cause is set with its enable (R188). -/
theorem State.intAsserted_iff (s : State) :
    s.intAsserted = true ↔ ∃ c, s.hasCause c = true ∧ s.intEnable.getLsbD (causeIndex c) = true := by
  unfold State.intAsserted
  rw [bne_iff_ne, bitVec_ne_zero_iff]
  constructor
  · rintro ⟨i, hi, hb⟩
    obtain ⟨c, rfl⟩ := exists_causeIndex_eq hi
    exact ⟨c, by simpa [State.hasCause] using hb⟩
  · rintro ⟨c, hc⟩
    exact ⟨causeIndex c, causeIndex_lt c, by simpa [State.hasCause] using hc⟩

/-! ### The fault record (R185) -/

@[simp] theorem State.recordFault_hasCause (s : State) (a : Nat) (kind : FaultKind) (q : Requester) (c : Cause) :
    (s.recordFault a kind q).hasCause c = (s.hasCause c || decide (c = .memoryFault)) := by
  unfold State.recordFault
  split
  · rename_i h
    change s.hasCause c = (s.hasCause c || decide (c = .memoryFault))
    by_cases hc : c = .memoryFault
    · rw [hc, h, Bool.true_or]
    · simp [hc]
  · exact State.hasCause_setCause _ _ _

/-- What a fault leaves in the record: the first is taken whole, and of a later one the count alone. -/
theorem State.recordFault_fault (s : State) (a : Nat) (kind : FaultKind) (q : Requester) :
    (s.recordFault a kind q).fault =
      if s.hasCause .memoryFault then { s.fault with count := min 255 (s.fault.count + 1) }
      else ⟨BitVec.ofNat 32 a, some kind, some q, 1⟩ := by
  unfold State.recordFault
  split <;> rfl

/-! ### Addresses and bursts (R183) -/

theorem align4_eq (a : Nat) : align4 a = a / 4 * 4 := by
  unfold align4
  omega

theorem burstLength_le (beat addr left : Nat) : burstLength beat addr left ≤ left := min_le_left _ _

theorem beatsMoved_le (beat addr len k : Nat) : beatsMoved beat addr len k ≤ len := by
  unfold beatsMoved
  split
  · exact Nat.zero_le _
  · exact min_le_left _ _

/-- A byte after the first bytes of a write have moved: those are in memory, and every other byte is as before. -/
theorem Transfer.sparseGet_store {x : Transfer} {n a : Nat} (m : Sparse Byte) (hw : x.write = true)
    (hlen : x.data.length = x.left) (hn : n ≤ x.left) (htop : x.addr + x.left ≤ 2 ^ 32) :
    sparseGet unwritten (x.store m n) a =
      if x.addr ≤ a ∧ a < x.addr + n then x.data.getD (a - x.addr) 0 else sparseGet unwritten m a := by
  have htake : (x.data.take n).length = n := by rw [List.length_take, hlen, min_eq_left hn]
  have haddr : Config.addresses = 2 ^ 32 := rfl
  rw [Transfer.store, if_pos hw, sparseGet_memWrite _ _ _ _ (by rw [htake, haddr]; omega), htake]
  by_cases ha : x.addr ≤ a ∧ a < x.addr + n
  · rw [if_pos ha, if_pos ha, List.getD_eq_getElem?_getD, List.getD_eq_getElem?_getD,
      List.getElem?_take_of_lt (by omega)]
  · rw [if_neg ha, if_neg ha]

theorem Transfer.store_read {x : Transfer} (m : Sparse Byte) (n : Nat) (h : x.write = false) : x.store m n = m := by
  rw [Transfer.store, h, if_neg Bool.false_ne_true]

/-- A byte of the 32-bit space is read at its own address. -/
theorem State.byte_of_lt (s : State) {a : Nat} (h : a < 2 ^ 32) : s.byte a = sparseGet unwritten s.mem a := by
  rw [State.byte, Nat.mod_eq_of_lt (show a < Config.addresses from h)]

end Sys2Proof.Machine
end

section
/-! Steps and the queue, the registers and run control (chapter 10, 10.4, 10.5 and 10.7). -/

namespace Sys2Proof.Machine

/-! ### Work over the map -/

theorem State.bandRuns_iff (s : State) : s.bandRuns = true ↔ ∃ b, s.band = some b ∧ b.left ≠ 0 := by
  simp [State.bandRuns, Option.any_eq_true]

theorem State.readsBins_iff (s : State) : s.readsBins = true ↔ ∃ r, s.engine.reading = some r ∧ r.left ≠ [] := by
  simp [State.readsBins, Option.any_eq_true]

theorem State.working_eq_false_iff (s : State) : s.working = false ↔
    (∀ b, s.band = some b → b.left = 0) ∧ ∀ r, s.engine.reading = some r → r.left = [] := by
  rw [State.working, Bool.or_eq_false_iff, ← Bool.not_eq_true, ← Bool.not_eq_true, State.bandRuns_iff,
    State.readsBins_iff]
  simp only [not_exists, not_and, not_not]

/-- Settles O1: `State.tick_cases` says what a tick on an empty queue can do. -/
theorem stepRunsFrontCommand : Obligations.StepRunsFrontCommand := by
  refine ⟨fun _ _ s h => step_cons s h, fun s h => step_nil s h, fun s h hband hreading => ?idle,
    fun b r s h hb hleft hr hbins => ?both⟩
  case idle =>
    rw [step_nil s h, s.tick_of_idle ((State.working_eq_false_iff s).2 ⟨hband, hreading⟩)]
  case both =>
    have hruns : s.bandRuns = true := s.bandRuns_iff.2 ⟨b, hb, hleft⟩
    have hreads : s.readsBins = true := s.readsBins_iff.2 ⟨r, hr, hbins⟩
    dsimp only
    rw [step_nil s h]
    rcases s.tick_cases with ⟨h0, -, -⟩ | ⟨-, h0, -⟩ | ⟨h0, -, -⟩ | ⟨-, -, htick | htick⟩
    · rw [hruns] at h0; cases h0
    · rw [hreads] at h0; cases h0
    · rw [hruns] at h0; cases h0
    · exact .inl (congrArg _ htick)
    · exact .inr (congrArg _ htick)

/-! ### The registers -/

/-- Settles O6: a flag is cleared where the value written holds a 1 at its bit of STATUS. -/
theorem clearCauseClearsNamedFlags : Obligations.ClearCauseClearsNamedFlags := by
  intro v s
  refine ⟨s.clearCauses v, rfl, fun i c hi => ?flag, ?int, rfl⟩
  case flag =>
    rw [State.hasCause_clearCauses, (causeAt_iff i c).1 hi]
  case int =>
    have henable : ∀ c, (s.readRegister 0x0C).getLsbD (8 + causeIndex c) = s.intEnable.getLsbD (causeIndex c) :=
      fun c => by cases c <;> simp [State.readRegister, causeIndex]
    rw [State.intAsserted_iff]
    constructor
    · rintro ⟨c, hflag, hen⟩
      exact ⟨8 + causeIndex c, c, (causeAt_iff _ c).2 rfl, hflag, (henable c).trans hen⟩
    · rintro ⟨i, c, hi, hflag, hen⟩
      rw [(causeAt_iff i c).1 hi, henable] at hen
      exact ⟨c, hflag, hen⟩

/-- Settles O7: a register write with all four bytes enabled is the command of its register; CONTROL acts by its two
bits. -/
theorem registerWriteEffects : Obligations.RegisterWriteEffects := by
  intro v s
  refine ⟨fun offset enables hpartial => ?_, fun offset hoffset => ?_,
    ⟨{ s with intEnable := v.extractLsb' 8 7 }, rfl, fun i hi => ?_, rfl⟩, rfl, rfl, ?_⟩
  · exact congrArg Host.Outcome.next (if_neg hpartial)
  · simp only [List.mem_cons, List.not_mem_nil, or_false] at hoffset
    rcases hoffset with rfl | rfl | rfl | rfl <;> rfl
  · simp [hi]
  · have hcontrol : exec (.registerWrite 0x04 v 0xF) s = .next (s.controlWrite (v.getLsbD 0) (v.getLsbD 1)) := rfl
    rw [hcontrol]
    cases v.getLsbD 1 <;> cases v.getLsbD 0 <;> rfl

/-- The engine stands in a state other than IDLE while it holds an order or serves a swap request (R66). -/
theorem Engine.state_ne_idle_iff (e : Engine) :
    decide (e.state ≠ .idle) = (e.order.isSome || e.service.isSome) := by
  unfold Engine.state
  cases e.service with
  | some v => simp
  | none =>
    cases e.order with
    | none => simp
    | some o => cases e.pos with
      | tune left waited => cases waited <;> simp
      | _ => simp

/-- Bit `i` of a word that holds a flag at bit `k` alone. -/
theorem flagBit_getLsbD (b : Bool) {k i : Nat} (hk : k < 32) :
    (if b then BitVec.twoPow 32 k else (0 : Word)).getLsbD i = (b && decide (i = k)) := by
  cases b
  · simp
  · simp only [if_true, Bool.true_and, BitVec.getLsbD_twoPow, hk, decide_true]
    exact decide_eq_decide.2 eq_comm

/-- STATUS bit by bit (R187, R188, R194). -/
theorem State.statusWord_getLsbD (s : State) {i : Nat} (hi : i < 32) : s.statusWord.getLsbD i =
    if i = 0 then decide (s.run = .starting ∨ s.run = .running)
    else if i = 1 then decide (s.run = .halting)
    else if i = 2 then s.engine.order.isSome || s.engine.service.isSome
    else if i = 3 then decide (s.sweep.pos ≠ .idle)
    else (causeAt i).any s.hasCause := by
  have hcauses : ∀ j < 32, (s.causes.setWidth 32 <<< 8).getLsbD j = (causeAt j).any s.hasCause := by
    intro j hj
    interval_cases j <;> simp [causeAt, State.hasCause, causeIndex]
  unfold State.statusWord
  simp only [BitVec.getLsbD_or, hcauses i hi]
  rw [flagBit_getLsbD _ (by decide), flagBit_getLsbD _ (by decide), flagBit_getLsbD _ (by decide),
    flagBit_getLsbD _ (by decide), Engine.state_ne_idle_iff]
  by_cases h4 : i < 4
  · interval_cases i <;> simp [causeAt]
  · have : i ≠ 0 ∧ i ≠ 1 ∧ i ≠ 2 ∧ i ≠ 3 := by omega
    simp [this]

/-- FAULT_INFO bit by bit: two fields of four bits below a count of eight (R185, R194). -/
theorem faultWord_getLsbD {kind requester count i : Nat} (hk : kind < 4) (hr : requester < 8) (hc : count ≤ 255)
    (hi : i < 32) : (BitVec.ofNat 32 (kind + 16 * requester + 256 * count)).getLsbD i =
      if i < 2 then kind.testBit i
      else if 4 ≤ i ∧ i < 7 then requester.testBit (i - 4)
      else decide (8 ≤ i ∧ i < 16) && count.testBit (i - 8) := by
  have hsplit : kind + 16 * requester + 256 * count = 2 ^ 8 * count + (2 ^ 4 * requester + kind) := by omega
  rw [BitVec.getLsbD_ofNat, decide_eq_true hi, Bool.true_and, hsplit, Nat.testBit_two_pow_mul_add count (by omega) i,
    Nat.testBit_two_pow_mul_add requester (by omega) i]
  rcases lt_or_ge i 8 with h8 | h8
  · have kind_high : ∀ j, 2 ≤ j → kind.testBit j = false := fun j hj =>
      Nat.testBit_lt_two_pow (hk.trans_le (Nat.pow_le_pow_right (by decide) hj : 2 ^ 2 ≤ 2 ^ j))
    have requester_high : requester.testBit 3 = false := Nat.testBit_lt_two_pow hr
    interval_cases i <;> simp [kind_high, requester_high]
  · have count_high : 16 ≤ i → count.testBit (i - 8) = false := fun h16 =>
      Nat.testBit_lt_two_pow ((show count < 2 ^ 8 by omega).trans_le (Nat.pow_le_pow_right (by decide) (by omega)))
    rw [if_neg (by omega), if_neg (by omega), if_neg (by omega)]
    by_cases h16 : i < 16
    · simp [h8, h16]
    · rw [count_high (by omega), Bool.and_false]

/-- Settles O8, register by register. -/
theorem registersReadTheirLayout : Obligations.RegistersReadTheirLayout := by
  intro s
  refine ⟨rfl, fun i _ => ?control, fun i hi => s.statusWord_getLsbD hi, fun i hi => ?enable, rfl, rfl, rfl,
    fun hcount i hi => ?fault, fun offset enables => ⟨?length, fun i hi => ?byte⟩⟩
  case control =>
    have h := flagBit_getLsbD s.runBit (k := 0) (i := i) (by decide)
    rw [Bool.and_comm]
    exact h
  case enable =>
    change (s.intEnable.setWidth 32 <<< 8).getLsbD i = _
    by_cases h15 : i < 15
    · have h8 : (!decide (i < 8)) = decide (8 ≤ i) := by
        rw [← decide_not]
        exact decide_eq_decide.2 not_lt
      simp [hi, h15, h8]
    · simp [hi, h15, BitVec.getLsbD_of_ge s.intEnable (i - 8) (by omega)]
  case fault =>
    have hk : faultKindCode s.fault.kind < 4 := by
      rcases s.fault.kind with _ | k
      · decide
      · cases k <;> decide
    have hr : requesterCode s.fault.requester < 8 := by
      rcases s.fault.requester with _ | q
      · decide
      · cases q <;> decide
    exact faultWord_getLsbD hk hr hcount hi
  case length => simp [State.hostRead]
  case byte => simp [State.hostRead, hi]

end Sys2Proof.Machine
end

section
/-! The marks of the Status Writer, and what a change of watch state brings about (chapter 8). -/

open Sys2Proof Sys2Proof.Machine

/-! ### Marks (R174, R175) -/

theorem recordExists_eq (r : RecId) : recordExists r = r.exists := by
  cases r with
  | carrier id => exact Bool.decide_and _ _
  | _ => rfl

theorem marksAdded_iff {s t : State} {named : RecId → Prop} : marksAdded s t named ↔
    (∀ r, r ∈ t.status.marks ↔ r ∈ s.status.marks ∨ r.exists = true ∧ named r) ∧
      { t.status with marks := s.status.marks } = s.status := by
  simp only [marksAdded, marksJoined, recordExists_eq]

theorem marksAdded.of_status_eq {s t : State} (h : t.status = s.status) : marksAdded s t fun _ => False :=
  marksAdded_iff.2 ⟨fun r => by simp [h], by rw [h]⟩

theorem marksAdded.congr {s t : State} {p q : RecId → Prop} (h : marksAdded s t p) (hpq : ∀ r, p r ↔ q r) :
    marksAdded s t q := by
  rwa [show q = p from funext fun r => propext (hpq r).symm]

/-- Marks added one after another are added together. -/
theorem marksAdded.trans {s t u : State} {p q : RecId → Prop} (h : marksAdded s t p) (g : marksAdded t u q) :
    marksAdded s u fun r => p r ∨ q r := by
  obtain ⟨hmem, hrest⟩ := marksAdded_iff.1 h
  obtain ⟨gmem, grest⟩ := marksAdded_iff.1 g
  refine marksAdded_iff.2 ⟨fun r => by rw [gmem, hmem]; tauto, ?_⟩
  calc { u.status with marks := s.status.marks }
      = { ({ u.status with marks := t.status.marks } : StatusWriter) with marks := s.status.marks } := rfl
    _ = { t.status with marks := s.status.marks } := by rw [grest]
    _ = s.status := hrest

/-- Marks rest on the Status Writer alone. -/
theorem marksAdded.of_eq {s s' t t' : State} {p : RecId → Prop} (h : marksAdded s t p) (hs : s'.status = s.status)
    (ht : t'.status = t.status) : marksAdded s' t' p := by
  rw [marksAdded_iff] at h ⊢
  rwa [hs, ht]

namespace Sys2Proof.Machine

/-! ### Marks of the operations -/

theorem State.mark_marksAdded (s : State) (r : RecId) : marksAdded s (s.mark r) (· = r) := by
  refine marksAdded_iff.2 ⟨fun x => ?_, ?_⟩
  · unfold State.mark
    split
    · rename_i h
      simp only [List.mem_append, List.mem_singleton]
      constructor
      · rintro (hx | rfl)
        · exact .inl hx
        · exact .inr ⟨h.1, rfl⟩
      · exact Or.imp_right And.right
    · rename_i h
      refine ⟨.inl, ?_⟩
      rintro (hx | ⟨hx, rfl⟩)
      · exact hx
      · by_contra hn
        exact h ⟨hx, hn⟩
  · unfold State.mark
    split <;> rfl

theorem State.markAll_marksAdded (s : State) (rs : List RecId) : marksAdded s (s.markAll rs) (· ∈ rs) := by
  induction rs generalizing s with
  | nil => exact (marksAdded.of_status_eq rfl).congr fun r => by simp
  | cons r rs ih => exact ((s.mark_marksAdded r).trans (ih (s.mark r))).congr fun x => by simp

/-- A mark changes the Status Writer alone. -/
theorem State.mark_eq (s : State) (r : RecId) : s.mark r = { s with status := (s.mark r).status } := by
  unfold State.mark
  split <;> rfl

theorem State.markAll_eq (s : State) (rs : List RecId) : s.markAll rs = { s with status := (s.markAll rs).status } :=
  State.eq_of_fields (by simp)

/-- Marks of records that exist, no two alike: those already on the list keep their places, and the others join behind
them. -/
theorem State.markAll_status (s : State) {rs : List RecId} (hnodup : rs.Nodup) (hex : ∀ r ∈ rs, r.exists = true) :
    (s.markAll rs).status = { s.status with
      marks := s.status.marks ++ rs.filter fun r => decide (r ∉ s.status.marks) } := by
  induction rs generalizing s with
  | nil => simp [State.markAll]
  | cons r rs ih =>
    obtain ⟨hr, hnodup⟩ := List.nodup_cons.1 hnodup
    have hr_ex : r.exists = true := hex r (.head _)
    have ih := ih (s.mark r) hnodup fun x hx => hex x (.tail _ hx)
    change ((s.mark r).markAll rs).status = _
    rw [ih]
    by_cases hm : r ∈ s.status.marks
    · have hmark : s.mark r = s := if_neg fun h => h.2 hm
      rw [hmark, List.filter_cons_of_neg (by simpa using hm)]
    · have hmark : (s.mark r).status = { s.status with marks := s.status.marks ++ [r] } := by
        rw [State.mark, if_pos ⟨hr_ex, hm⟩]
      have hrest : (rs.filter fun x => decide (x ∉ s.status.marks ++ [r])) =
          rs.filter fun x => decide (x ∉ s.status.marks) :=
        List.filter_congr fun x hx => by
          have hne : x ≠ r := fun e => hr (e ▸ hx)
          simp [hne]
      rw [hmark, List.filter_cons_of_pos (by simpa using hm)]
      simp only [hrest, List.append_assoc, List.singleton_append]

/-! ### Watch records -/

theorem State.watchRec_congr {s t : State} (h : t.watch = s.watch) (id : Nat) : t.watchRec id = s.watchRec id := by
  rw [State.watchRec, State.watchRec, h]

theorem State.watchRec_id {s : State} {id : Nat} {w : WatchRec} (h : s.watchRec id = some w) : w.id = id := by
  simpa using List.find?_some h

theorem State.watchRec_mem {s : State} {id : Nat} {w : WatchRec} (h : s.watchRec id = some w) : w ∈ s.watch.records :=
  List.mem_of_find?_eq_some h

/-- With one record for each carrier, a record of the list is its carrier's. -/
theorem State.watchRec_of_mem {s : State} (hs : s.watchOk) {w : WatchRec} (h : w ∈ s.watch.records) :
    s.watchRec w.id = some w := by
  unfold State.watchOk at hs
  unfold State.watchRec
  revert hs h
  generalize s.watch.records = l
  intro hs h
  induction l with
  | nil => cases h
  | cons r l ih =>
    rw [List.map_cons, List.nodup_cons] at hs
    rcases List.mem_cons.1 h with rfl | h
    · simp
    · have hne : r.id ≠ w.id := fun e => hs.1 (e ▸ List.mem_map_of_mem h)
      simpa [hne] using ih hs.2 h

/-- A carrier's record after a change of one carrier's. -/
theorem State.watchRec_onRec (s : State) (id : Nat) (f : WatchRec → WatchRec) (hf : ∀ w, (f w).id = w.id) (j : Nat) :
    (s.onRec id f).watchRec j = (s.watchRec j).map fun w => if j = id then f w else w := by
  unfold State.watchRec State.onRec
  dsimp only
  generalize s.watch.records = l
  induction l with
  | nil => rfl
  | cons r l ih =>
    have hid : (if r.id = id then f r else r).id = r.id := by
      split
      · exact hf r
      · rfl
    rw [List.map_cons, List.find?_cons, List.find?_cons, hid]
    by_cases h : r.id = j
    · simp [h]
    · rw [beq_false_of_ne h]
      exact ih

/-! ### What the Watch Unit's changes bring about -/

/-- All that a change of the Watch Unit's records brings about: what becomes of each record, the records marked, and
whether ALERT is set. -/
structure WatchMoves (s t : State) (g : Nat → WatchRec → WatchRec) (named : RecId → Prop) (alerts : Prop) : Prop where
  records : ∀ id, t.watchRec id = (s.watchRec id).map (g id)
  rest : { t.watch with records := s.watch.records } = s.watch
  marks : marksAdded s t named
  causes : ∀ c, t.hasCause c = true ↔ s.hasCause c = true ∨ c = .alert ∧ alerts
  frame : t = { s with watch := t.watch, status := t.status, causes := t.causes }

namespace WatchMoves

variable {s t u : State} {g h : Nat → WatchRec → WatchRec} {p q : RecId → Prop} {a b : Prop}

theorem refl (s : State) : WatchMoves s s (fun _ w => w) (fun _ => False) False where
  records _ := by simp
  rest := rfl
  marks := .of_status_eq rfl
  causes _ := by simp
  frame := rfl

theorem trans (hst : WatchMoves s t g p a) (htu : WatchMoves t u h q b) :
    WatchMoves s u (fun id w => h id (g id w)) (fun r => p r ∨ q r) (a ∨ b) where
  records id := by rw [htu.records, hst.records, Option.map_map]; rfl
  rest := by
    calc { u.watch with records := s.watch.records }
        = { ({ u.watch with records := t.watch.records } : Watch) with records := s.watch.records } := rfl
      _ = { t.watch with records := s.watch.records } := by rw [htu.rest]
      _ = s.watch := hst.rest
  marks := hst.marks.trans htu.marks
  causes c := by rw [htu.causes, hst.causes]; tauto
  frame := by
    rw [htu.frame, hst.frame]

theorem congr {g' : Nat → WatchRec → WatchRec} {p' : RecId → Prop} {a' : Prop} (hst : WatchMoves s t g p a)
    (hg : ∀ id w, s.watchRec id = some w → g id w = g' id w) (hp : ∀ r, p r ↔ p' r) (ha : a ↔ a') :
    WatchMoves s t g' p' a' where
  records id := by
    rw [hst.records]
    cases hw : s.watchRec id with
    | none => rfl
    | some w => exact congrArg some (hg id w hw)
  rest := hst.rest
  marks := hst.marks.congr hp
  causes c := by rw [hst.causes, ha]
  frame := hst.frame

/-- A cause other than ALERT stands as it was. -/
theorem causes_eq (hst : WatchMoves s t g p a) [Decidable a] (c : Cause) :
    t.hasCause c = (s.hasCause c || decide (c = .alert ∧ a)) := by
  rw [Bool.eq_iff_iff, hst.causes]
  simp

end WatchMoves

theorem State.mark_moves (s : State) (r : RecId) : WatchMoves s (s.mark r) (fun _ w => w) (· = r) False where
  records id := by simp [State.watchRec_congr (s.mark_watch r)]
  rest := by simp
  marks := s.mark_marksAdded r
  causes c := by simp [State.hasCause]
  frame := State.eq_of_fields (by simp)

theorem State.onRec_moves (s : State) (id : Nat) (f : WatchRec → WatchRec) (hf : ∀ w, (f w).id = w.id) :
    WatchMoves s (s.onRec id f) (fun j w => if j = id then f w else w) (fun _ => False) False where
  records := s.watchRec_onRec id f hf
  rest := rfl
  marks := .of_status_eq rfl
  causes c := by simp [State.hasCause]
  frame := rfl

theorem State.setAlert_moves (s : State) : WatchMoves s (s.setCause .alert) (fun _ w => w) (fun _ => False) True where
  records _ := by simp [State.watchRec]
  rest := rfl
  marks := .of_status_eq rfl
  causes c := by simp
  frame := rfl

/-- The marks and the alert of a change of watch state (R154, R161). -/
theorem State.watchMarks_moves (s : State) (id : Nat) (old new : WatchState) :
    WatchMoves s (s.watchMarks id old new) (fun _ w => w)
      (fun r => r = .carrier id ∨ r = .stage (id / 256) ∧ (old.isAlert = true ∨ new.isAlert = true))
      (new.isAlert = true) := by
  have hcarrier := s.mark_moves (.carrier id)
  have hstage := hcarrier.trans ((s.mark (.carrier id)).mark_moves (.stage (id / 256)))
  unfold State.watchMarks
  cases hnew : new.isAlert <;> cases hold : old.isAlert <;> simp only [Bool.or_self, Bool.or_true, Bool.true_or,
    Bool.false_eq_true, if_true, if_false]
  · exact hcarrier.congr (fun _ _ _ => rfl) (by simp) (by simp)
  · exact hstage.congr (fun _ _ _ => rfl) (by simp) (by simp)
  · exact (hstage.trans (State.setAlert_moves _)).congr (fun _ _ _ => rfl) (by simp) (by simp)
  · exact (hstage.trans (State.setAlert_moves _)).congr (fun _ _ _ => rfl) (by simp) (by simp)

/-- A watched carrier goes to a state other than SUSPECT: its record, and the marks and the alert when that is a change
of state. -/
theorem State.watchTo_moves (s : State) (id : Nat) (new : WatchState) (n : Nat) :
    WatchMoves s (s.watchTo id new n)
      (fun j w => if j = id then { w with state := new, run := 0, settle := n } else w)
      (fun r => ∃ w, s.watchRec id = some w ∧ w.state ≠ new ∧
        (r = .carrier id ∨ r = .stage (id / 256) ∧ (w.state.isAlert = true ∨ new.isAlert = true)))
      (∃ w, s.watchRec id = some w ∧ w.state ≠ new ∧ new.isAlert = true) := by
  have hrec := s.onRec_moves id (fun r => { r with state := new, run := 0, settle := n }) fun _ => rfl
  unfold State.watchTo
  cases hw : s.watchRec id with
  | none =>
    refine (WatchMoves.refl s).congr (fun j w hj => ?_) (by simp) (by simp)
    rw [if_neg]
    rintro rfl
    rw [hw] at hj
    cases hj
  | some w =>
    dsimp only
    by_cases hsame : w.state = new
    · rw [if_pos hsame]
      exact hrec.congr (fun _ _ _ => rfl) (by simp [hsame]) (by simp [hsame])
    · rw [if_neg hsame]
      exact (hrec.trans (State.watchMarks_moves _ id w.state new)).congr (fun _ _ _ => rfl) (by simp [hsame])
        (by simp [hsame])

/-- Changes at distinct carriers, one after another, each as at the first: what they bring about together. -/
theorem WatchMoves.foldl {α : Type} {step : State → α → State} {key : α → Nat} {g : α → WatchRec → WatchRec}
    {named : α → Option WatchRec → RecId → Prop} {alerts : α → Option WatchRec → Prop}
    (hstep : ∀ s a, WatchMoves s (step s a) (fun id w => if id = key a then g a w else w) (named a (s.watchRec (key a)))
      (alerts a (s.watchRec (key a)))) {l : List α} (hl : (l.map key).Nodup) (s : State) :
    WatchMoves s (l.foldl step s)
      (fun id w => ((l.find? fun a => decide (key a = id)).map fun a => g a w).getD w)
      (fun r => ∃ a ∈ l, named a (s.watchRec (key a)) r) (∃ a ∈ l, alerts a (s.watchRec (key a))) := by
  induction l generalizing s with
  | nil => exact (WatchMoves.refl s).congr (fun _ _ _ => rfl) (by simp) (by simp)
  | cons a l ih =>
    rw [List.map_cons, List.nodup_cons] at hl
    have hfirst := hstep s a
    have hother : ∀ x ∈ l, (step s a).watchRec (key x) = s.watchRec (key x) := fun x hx => by
      have hne : key x ≠ key a := fun e => hl.1 (e ▸ List.mem_map_of_mem hx)
      simp [hfirst.records, hne]
    refine (hfirst.trans (ih hl.2 (step s a))).congr (fun id w _ => ?_) (fun r => ?_) ?_
    · by_cases hid : key a = id
      · subst hid
        have hnone : l.find? (fun x => decide (key x = key a)) = none := by
          simpa using fun x hx (e : key x = key a) => hl.1 (e ▸ List.mem_map_of_mem hx)
        simp [hnone]
      · simp [hid, Ne.symm hid]
    · rw [List.exists_mem_cons_iff]
      exact or_congr_right (exists_congr fun x => and_congr_right fun hx => by rw [hother x hx])
    · rw [List.exists_mem_cons_iff]
      exact or_congr_right (exists_congr fun x => and_congr_right fun hx => by rw [hother x hx])

end Sys2Proof.Machine
end

section
/-! The answers of the engine at the Watch Unit (R151), and the fall of RUN there (R158). -/

namespace Sys2Proof.Machine

/-- An answer of the engine at the Watch Unit: the swaps counted, and what becomes of a carrier in SWAP_WAIT (R151). -/
def answeredRec (swapped : Bool) (w : WatchRec) : WatchRec :=
  if w.state = .swapWait then
    (if swapped then { w with state := .retuning, run := 0, settle := 0, swaps := min 7 (w.swaps + 1) }
    else { w with state := .held, run := 0, settle := 0 })
  else if swapped then { w with swaps := min 7 (w.swaps + 1) } else w

/-- What an answer brings about (R151). -/
theorem State.takeAnswer_moves (s : State) (a : SwapAnswer) :
    WatchMoves s (s.takeAnswer a) (fun id w => if id = a.id then answeredRec a.swapped w else w)
      (fun r => ∃ w, s.watchRec a.id = some w ∧ (r = .carrier a.id ∧ (a.swapped = true ∨ w.state = .swapWait) ∨
        r = .stage (a.id / 256) ∧ w.state = .swapWait ∧ a.swapped = false))
      (∃ w, s.watchRec a.id = some w ∧ w.state = .swapWait ∧ a.swapped = false) := by
  unfold State.takeAnswer
  cases hw : s.watchRec a.id with
  | none =>
    refine (WatchMoves.refl s).congr (fun id w hid => ?_) (by simp) (by simp)
    rw [if_neg]
    rintro rfl
    rw [hw] at hid
    cases hid
  | some w =>
    have hsame : ∀ id v, s.watchRec id = some v → id = a.id → v = w := by
      rintro id v hv rfl
      rw [hw] at hv
      exact (Option.some.inj hv).symm
    dsimp only
    by_cases hsw : a.swapped = true
    · rw [if_pos hsw]
      have hcount := (s.onRec_moves a.id (fun r => { r with swaps := min 7 (r.swaps + 1) }) fun _ => rfl).trans
        (State.mark_moves _ (.carrier a.id))
      split
      · rename_i hwait
        refine (hcount.trans (State.watchTo_moves _ a.id .retuning 0)).congr (fun id v hv => ?_) (fun r => ?_) ?_
        · by_cases hid : id = a.id
          · obtain rfl := hsame id v hv hid
            simp [hid, answeredRec, hwait, hsw]
          · simp [hid]
        · simp [hcount.records, hw, hwait, hsw, WatchState.isAlert]
        · simp [hcount.records, hw, hsw, WatchState.isAlert]
      · rename_i hwait
        refine hcount.congr (fun id v hv => ?_) (by simp [hsw]) (by simp [hsw])
        by_cases hid : id = a.id
        · obtain rfl := hsame id v hv hid
          simp [hid, answeredRec, hwait, hsw]
        · simp [hid]
    · rw [if_neg hsw]
      split
      · rename_i hwait
        refine (State.watchTo_moves s a.id .held 0).congr (fun id v hv => ?_) (fun r => ?_) ?_
        · by_cases hid : id = a.id
          · obtain rfl := hsame id v hv hid
            simp [hid, answeredRec, hwait, hsw]
          · simp [hid]
        · simp [hw, hwait, hsw, WatchState.isAlert]
        · simp [hw, hwait, hsw, WatchState.isAlert]
      · rename_i hwait
        refine (WatchMoves.refl s).congr (fun id v hv => ?_) (by simp [hsw, hwait]) (by simp [hwait])
        by_cases hid : id = a.id
        · obtain rfl := hsame id v hv hid
          simp [hid, answeredRec, hwait, hsw]
        · simp [hid]

/-- Taking every answer is a change of the Watch Unit's records, its marks and ALERT, and of the answers. -/
theorem State.takeAnswers_moves (s : State) :
    ∃ g named alerts, WatchMoves { s with swapAnswers := [] } s.takeAnswers g named alerts := by
  unfold State.takeAnswers
  refine foldl_inv (fun t => ∃ g named alerts, WatchMoves { s with swapAnswers := [] } t g named alerts)
    (fun t a ht => ?_) _ _ ⟨_, _, _, WatchMoves.refl _⟩
  obtain ⟨g, named, alerts, ht⟩ := ht
  exact ⟨_, _, _, ht.trans (t.takeAnswer_moves a)⟩

theorem State.takeAnswers_frame (s : State) :
    s.takeAnswers = { s with
      swapAnswers := [], watch := s.takeAnswers.watch, status := s.takeAnswers.status, causes := s.takeAnswers.causes } :=
  let ⟨_, _, _, h⟩ := s.takeAnswers_moves
  h.frame

theorem State.takeAnswers_watch_rest (s : State) : { s.takeAnswers.watch with records := s.watch.records } = s.watch :=
  let ⟨_, _, _, h⟩ := s.takeAnswers_moves
  h.rest

/-- With no answer given there is none to take. -/
theorem State.takeAnswers_of_nil {s : State} (h : s.swapAnswers = []) : s.takeAnswers = s := by
  unfold State.takeAnswers
  rw [h]
  exact State.eq_of_fields (by simp [h])

theorem State.watchOk_takeAnswers {s : State} (h : s.watchOk) : s.takeAnswers.watchOk := by
  unfold State.watchOk
  rwa [State.takeAnswers_ids]

/-! ### What the Watch Unit's changes rest on -/

/-- The fields that a change of the Watch Unit's records reads and writes. -/
def State.watchView (s : State) := (s.watch, s.status, s.causes)

theorem State.watchView_eq_iff {s t : State} :
    s.watchView = t.watchView ↔ s.watch = t.watch ∧ s.status = t.status ∧ s.causes = t.causes := by
  simp only [State.watchView, Prod.mk.injEq]

theorem State.watchRec_of_watchView {s t : State} (h : s.watchView = t.watchView) (id : Nat) :
    s.watchRec id = t.watchRec id :=
  State.watchRec_congr (State.watchView_eq_iff.1 h).1 id

theorem State.mark_watchView {s t : State} (h : s.watchView = t.watchView) (r : RecId) :
    (s.mark r).watchView = (t.mark r).watchView := by
  obtain ⟨hw, hs, hc⟩ := State.watchView_eq_iff.1 h
  unfold State.mark State.watchView
  rw [hs]
  split <;> simp [hw, hs, hc]

theorem State.onRec_watchView {s t : State} (h : s.watchView = t.watchView) (id : Nat) (f : WatchRec → WatchRec) :
    (s.onRec id f).watchView = (t.onRec id f).watchView := by
  obtain ⟨hw, hs, hc⟩ := State.watchView_eq_iff.1 h
  simp [State.watchView, State.onRec, hw, hs, hc]

theorem State.setCause_watchView {s t : State} (h : s.watchView = t.watchView) (c : Cause) :
    (s.setCause c).watchView = (t.setCause c).watchView := by
  obtain ⟨hw, hs, hc⟩ := State.watchView_eq_iff.1 h
  simp [State.watchView, hw, hs, hc]

theorem State.watchMarks_watchView {s t : State} (h : s.watchView = t.watchView) (id : Nat) (old new : WatchState) :
    (s.watchMarks id old new).watchView = (t.watchMarks id old new).watchView := by
  have hcarrier := State.mark_watchView h (.carrier id)
  have hstage := State.mark_watchView hcarrier (.stage (id / 256))
  unfold State.watchMarks
  dsimp only
  split <;> split
  · exact State.setCause_watchView hstage _
  · exact State.setCause_watchView hcarrier _
  · exact hstage
  · exact hcarrier

theorem State.watchTo_watchView {s t : State} (h : s.watchView = t.watchView) (id : Nat) (new : WatchState) (n : Nat) :
    (s.watchTo id new n).watchView = (t.watchTo id new n).watchView := by
  unfold State.watchTo
  rw [State.watchRec_of_watchView h]
  split
  · exact h
  · dsimp only
    split
    · exact State.onRec_watchView h _ _
    · exact State.watchMarks_watchView (State.onRec_watchView h _ _) _ _ _

theorem State.takeAnswer_watchView {s t : State} (h : s.watchView = t.watchView) (a : SwapAnswer) :
    (s.takeAnswer a).watchView = (t.takeAnswer a).watchView := by
  unfold State.takeAnswer
  rw [State.watchRec_of_watchView h]
  split
  · exact h
  · have hcount := State.mark_watchView
      (State.onRec_watchView h a.id fun r => { r with swaps := min 7 (r.swaps + 1) }) (.carrier a.id)
    split
    · dsimp only
      split
      · exact State.watchTo_watchView hcount _ _ _
      · exact hcount
    · split
      · exact State.watchTo_watchView h _ _ _
      · exact h

/-- What taking every answer makes of the Watch Unit, the marks and ALERT rests on them and on the answers alone. -/
theorem State.takeAnswers_watchView {s t : State} (h : s.watchView = t.watchView) (g : s.swapAnswers = t.swapAnswers) :
    s.takeAnswers.watchView = t.takeAnswers.watchView := by
  unfold State.takeAnswers
  rw [g]
  have hstart : State.watchView { s with swapAnswers := [] } = State.watchView { t with swapAnswers := [] } := h
  generalize State.mk .. = u at hstart ⊢
  generalize State.mk .. = v at hstart ⊢
  induction t.swapAnswers generalizing u v with
  | nil => exact hstart
  | cons a l ih => exact ih _ _ (State.takeAnswer_watchView hstart a)

/-! ### The fall of RUN (R158) -/

/-- The carriers that the fall of RUN takes to ALERTED: those in CONFIRMED or SWAP_WAIT. -/
def State.fallsAtHalt (s : State) (id : Nat) : Prop :=
  ∃ w, s.watchRec id = some w ∧ (w.state = .confirmed ∨ w.state = .swapWait)

theorem State.haltRec_moves (s : State) (r : WatchRec) :
    WatchMoves s (s.haltRec r) (fun id w => if id = r.id then
        (if r.state = .confirmed ∨ r.state = .swapWait then { w with state := .alerted, run := 0, settle := 0 } else w)
      else w)
      (fun q => (r.state = .confirmed ∨ r.state = .swapWait) ∧ ∃ w, s.watchRec r.id = some w ∧ w.state ≠ .alerted ∧
        (q = .carrier r.id ∨ q = .stage (r.id / 256)))
      ((r.state = .confirmed ∨ r.state = .swapWait) ∧ ∃ w, s.watchRec r.id = some w ∧ w.state ≠ .alerted) := by
  unfold State.haltRec
  by_cases h : r.state = .confirmed ∨ r.state = .swapWait
  · simp only [if_pos h]
    exact (s.watchTo_moves r.id .alerted 0).congr (fun _ _ _ => rfl) (by simp [h, WatchState.isAlert])
      (by simp [h, WatchState.isAlert])
  · simp only [if_neg h]
    exact (WatchMoves.refl s).congr (fun _ _ _ => (ite_self _).symm) (by simp [h]) (by simp [h])

/-- What the fall of RUN brings about at the Watch Unit, once it has taken the answers already given (R158; log 7). -/
theorem State.watchHalt_moves {s : State} (hs : s.watchOk) :
    WatchMoves s.takeAnswers s.watchHalt (fun _ => alertedByHalt)
      (fun r => ∃ id, s.takeAnswers.fallsAtHalt id ∧ (r = .carrier id ∨ r = .stage (id / 256)))
      (∃ id, s.takeAnswers.fallsAtHalt id) := by
  have hok := State.watchOk_takeAnswers hs
  unfold State.watchHalt
  dsimp only
  generalize s.takeAnswers = u at hok ⊢
  have hcur : ∀ r ∈ u.watch.records, u.watchRec r.id = some r := fun r hr => State.watchRec_of_mem hok hr
  have hfalls : ∀ id, u.fallsAtHalt id ↔
      ∃ r ∈ u.watch.records, r.id = id ∧ (r.state = .confirmed ∨ r.state = .swapWait) := fun id =>
    ⟨fun ⟨w, hw, h⟩ => ⟨w, State.watchRec_mem hw, State.watchRec_id hw, h⟩,
      fun ⟨r, hr, hid, h⟩ => ⟨r, hid ▸ hcur r hr, h⟩⟩
  have halert : ∀ r : WatchRec, r.state = .confirmed ∨ r.state = .swapWait → r.state ≠ .alerted := by
    rintro r (h | h) <;> simp [h]
  refine (WatchMoves.foldl (key := WatchRec.id)
    (g := fun r w => if r.state = .confirmed ∨ r.state = .swapWait then { w with state := .alerted, run := 0, settle := 0 }
      else w)
    (named := fun r o q => (r.state = .confirmed ∨ r.state = .swapWait) ∧ ∃ w, o = some w ∧ w.state ≠ .alerted ∧
      (q = .carrier r.id ∨ q = .stage (r.id / 256)))
    (alerts := fun r o => (r.state = .confirmed ∨ r.state = .swapWait) ∧ ∃ w, o = some w ∧ w.state ≠ .alerted)
    State.haltRec_moves hok u).congr (fun id w hw => ?_) (fun q => ?_) ?_
  · have hfind : u.watch.records.find? (fun a => decide (a.id = id)) = some w := by
      rw [← hw]
      rfl
    simp only [hfind, Option.map_some, Option.getD_some, alertedByHalt]
  · constructor
    · rintro ⟨r, hr, hst, w, -, -, hq⟩
      exact ⟨r.id, (hfalls r.id).2 ⟨r, hr, rfl, hst⟩, hq⟩
    · rintro ⟨id, hid, hq⟩
      obtain ⟨r, hr, rfl, hst⟩ := (hfalls id).1 hid
      exact ⟨r, hr, hst, r, hcur r hr, halert r hst, hq⟩
  · constructor
    · rintro ⟨r, hr, hst, -⟩
      exact ⟨r.id, (hfalls r.id).2 ⟨r, hr, rfl, hst⟩⟩
    · rintro ⟨id, hid⟩
      obtain ⟨r, hr, rfl, hst⟩ := (hfalls id).1 hid
      exact ⟨r, hr, hst, r, hcur r hr, halert r hst⟩

/-- The engine when RUN falls: its requests go, and an order that it holds is marked (R70). -/
def Engine.halted (e : Engine) : Engine :=
  { e with requests := [], order := e.order.map fun o => { o with haltMark := true } }

/-- The fall of RUN at the Watch Unit is a change of its records, its marks and ALERT. -/
theorem State.fallOfRun_moves (s : State) : ∃ g named alerts,
    WatchMoves { s with runBit := false, engine := s.engine.halted, swapAnswers := [] } s.fallOfRun g named alerts := by
  obtain ⟨_, _, _, htaken⟩ := State.takeAnswers_moves { s with runBit := false, engine := s.engine.halted }
  exact foldl_inv (fun t => ∃ g named alerts,
      WatchMoves { s with runBit := false, engine := s.engine.halted, swapAnswers := [] } t g named alerts)
    (fun t r ⟨_, _, _, ht⟩ => ⟨_, _, _, ht.trans (t.haltRec_moves r)⟩) _ _ ⟨_, _, _, htaken⟩

/-- The fall of RUN changes RUN, the engine, the Watch Unit with its answers, the marks and the causes. -/
theorem State.fallOfRun_frame (s : State) :
    s.fallOfRun = { s with
      runBit := false, engine := s.engine.halted, swapAnswers := [], watch := s.fallOfRun.watch
      status := s.fallOfRun.status, causes := s.fallOfRun.causes } :=
  let ⟨_, _, _, h⟩ := s.fallOfRun_moves
  h.frame

/-- Of the causes the fall of RUN sets ALERT alone. -/
theorem State.fallOfRun_hasCause (s : State) {c : Cause} (h : c ≠ .alert) : s.fallOfRun.hasCause c = s.hasCause c := by
  obtain ⟨_, _, _, hmoves⟩ := s.fallOfRun_moves
  rw [Bool.eq_iff_iff, hmoves.causes]
  simp only [h, false_and, or_false]
  rfl

theorem State.fallOfRun_watchHalted {s : State} (hs : s.watchOk) : watchHalted s s.fallOfRun [] := by
  have hmoves := State.watchHalt_moves (s := { s with runBit := false, engine := s.engine.halted }) hs
  have hview := State.takeAnswers_watchView (s := { s with runBit := false, engine := s.engine.halted }) (t := s) rfl rfl
  obtain ⟨hwatch, hstatus, hcauses⟩ := State.watchView_eq_iff.1 hview
  have hrec := State.watchRec_of_watchView hview
  have hfalls : ∀ id, State.fallsAtHalt (State.takeAnswers { s with runBit := false, engine := s.engine.halted }) id ↔
      s.takeAnswers.fallsAtHalt id := fun id => by rw [State.fallsAtHalt, State.fallsAtHalt, hrec]
  refine ⟨fun id => ?_, ?_, ?_, ?_, fun c => ?_⟩
  · rw [← hrec]
    exact hmoves.records id
  · rw [State.fallOfRun_frame]
  · have h := hmoves.rest
    rw [hwatch] at h
    calc { s.fallOfRun.watch with records := s.watch.records }
        = { ({ s.fallOfRun.watch with records := s.takeAnswers.watch.records } : Watch) with
            records := s.watch.records } := rfl
      _ = { s.takeAnswers.watch with records := s.watch.records } := by rw [← h]; rfl
      _ = s.watch := s.takeAnswers_watch_rest
  · refine (hmoves.marks.of_eq hstatus.symm rfl).congr fun r => ?_
    exact exists_congr fun id => and_congr_left fun _ => hfalls id
  · have h := hmoves.causes c
    have hc : ∀ d, State.hasCause (State.takeAnswers { s with runBit := false, engine := s.engine.halted }) d =
        s.takeAnswers.hasCause d := fun d => by rw [State.hasCause, State.hasCause, hcauses]
    rw [hc, exists_congr hfalls] at h
    refine h.trans ?_
    simp [State.fallsAtHalt]

end Sys2Proof.Machine

open Sys2Proof Sys2Proof.Machine

/-- What the fall of RUN has brought about rests on the Watch Unit, the answers, the marks and the causes alone. -/
theorem watchHalted.of_eq {s t t' : State} {more : List Cause} (h : watchHalted s t more) (hw : t'.watch = t.watch)
    (ha : t'.swapAnswers = t.swapAnswers) (hs : t'.status = t.status) (hc : t'.causes = t.causes) :
    watchHalted s t' more := by
  obtain ⟨hrec, hans, hrest, hmarks, hcauses⟩ := h
  refine ⟨fun id => (State.watchRec_congr hw id).trans (hrec id), ha.trans hans, hw ▸ hrest, hmarks.of_eq rfl hs,
    fun c => ?_⟩
  rw [State.hasCause, hc]
  exact hcauses c

theorem watchHalted.setCause {s t : State} (h : watchHalted s t []) (c : Cause) : watchHalted s (t.setCause c) [c] := by
  obtain ⟨hrec, hans, hrest, hmarks, hcauses⟩ := h
  refine ⟨hrec, hans, hrest, hmarks, fun d => ?_⟩
  rw [State.hasCause_setCause, Bool.or_eq_true, hcauses]
  simp only [decide_eq_true_eq, List.not_mem_nil, false_or, List.mem_singleton]
  rw [or_assoc]
  exact or_congr_right or_comm

/-- What the fall of RUN brings about rests on the state before it through the Watch Unit, the answers, the marks and the
causes alone. -/
theorem watchHalted.of_base {s s' t : State} {more : List Cause} (h : watchHalted s t more)
    (hview : s'.watchView = s.watchView) (ha : s'.swapAnswers = s.swapAnswers) : watchHalted s' t more := by
  have htaken := State.takeAnswers_watchView hview ha
  have hrec := State.watchRec_of_watchView htaken
  obtain ⟨-, hstatus, hcauses⟩ := State.watchView_eq_iff.1 htaken
  obtain ⟨hw, -, -⟩ := State.watchView_eq_iff.1 hview
  have hcause : ∀ c, s'.takeAnswers.hasCause c = s.takeAnswers.hasCause c := fun c => by
    rw [State.hasCause, State.hasCause, hcauses]
  unfold watchHalted at h ⊢
  simp only [hrec, hcause, hw] at h ⊢
  obtain ⟨hrecords, hans, hrest, hmarks, hall⟩ := h
  exact ⟨hrecords, hans, hrest, hmarks.of_eq hstatus rfl, hall⟩

end

section
/-! Run control (chapter 10, 10.4, 10.5 and 10.7): reset, the start, the halt, and NUDGE. -/

namespace Sys2Proof.Machine

/-! ### Reset -/

/-- The working copy that a reset reads from a block, at the offsets of R194. -/
theorem readSettings_eq (bs : List Byte) : readSettings bs = settingsRead bs := by
  have hlines : (readSettings bs).lines = (settingsRead bs).lines := by
    refine Vector.ext fun i hi => ?_
    interval_cases i <;> simp [readSettings, settingsRead, readLineValues, max_comm]
  have hwide : (readSettings bs).wide = (settingsRead bs).wide := by
    change (byteAt bs 0 != 1) = decide (byteAt bs 0 ≠ 1)
    rw [decide_not, ← beq_eq_decide]
    rfl
  have hmonitor : (readSettings bs).monitorPeriod = (settingsRead bs).monitorPeriod := max_comm _ _
  have hsurvey : (readSettings bs).surveyInterval = (settingsRead bs).surveyInterval := max_comm _ _
  cases h : readSettings bs
  cases g : settingsRead bs
  simp_all

theorem settingsPass_iff (bs : List Byte) : settingsPass bs = true ↔ byteSum bs % 256 = 0xA5 := by
  simp [settingsPass, Config.settingsSum]

/-- RESET is a `State.resetWith` whose working copy and causes follow from the block (R191). -/
theorem State.afterReset_spec (s : State) (beats : Nat) : ∃ copy causes,
    s.afterReset beats =
      State.resetWith s.settings.block copy causes (s.memAtReset beats) s.tuner s.pending s.paces ∧
    copy = (if byteSum s.settings.block % 256 = 0xA5 then settingsRead s.settings.block
      else ⟨true, 50, 20, Vector.replicate 4 ⟨40, 20, 10⟩⟩) ∧
    ∀ c, causes.getLsbD (causeIndex c) =
      (decide (c = .settingsDefaulted) && decide (byteSum s.settings.block % 256 ≠ 0xA5)) := by
  rcases s.afterReset_cases beats with ⟨hpass, h⟩ | ⟨hpass, h⟩
  · have hsum := (settingsPass_iff _).1 hpass
    refine ⟨_, _, h, ?_, fun c => ?_⟩
    · rw [if_pos hsum, readSettings_eq]
    · simp [hsum]
  · have hsum : byteSum s.settings.block % 256 ≠ 0xA5 := fun e => by
      rw [(settingsPass_iff _).2 e] at hpass
      cases hpass
    refine ⟨_, _, h, ?_, fun c => ?_⟩
    · rw [if_neg hsum]
      rfl
    · cases c <;> simp [hsum, causeBit, causeIndex]

/-- At a reset the completed beats of a write burst in progress are in memory, and nothing else has changed there. -/
theorem State.sparseGet_memAtReset {s : State} {src : Source} {x : Transfer} {beats a : Nat}
    (hphase : s.port.phase = .granted src) (hx : s.inProgress = some x) (hw : x.write = true)
    (hlen : x.data.length = x.left) (htop : x.addr + x.left ≤ 2 ^ 32)
    (hbeats : beats < burstBeatCount s.beatBytes x.addr (burstLength s.beatBytes x.addr x.left)) :
    sparseGet unwritten (s.memAtReset beats) a =
      if x.addr ≤ a ∧ a < x.addr + beatsMoved s.beatBytes x.addr (burstLength s.beatBytes x.addr x.left) beats then
        x.data.getD (a - x.addr) 0 else sparseGet unwritten s.mem a := by
  have hlast : min beats (s.lastBeat x) = beats := by
    rw [State.lastBeat]
    omega
  unfold State.memAtReset
  rw [hphase, hx]
  dsimp only
  rw [hlast, Transfer.sparseGet_store s.mem hw hlen ((beatsMoved_le _ _ _ _).trans (burstLength_le _ _ _)) htop]

/-- Without a write burst in progress a reset leaves shared memory as it is. -/
theorem State.memAtReset_eq {s : State} (beats : Nat)
    (h : (∀ src, s.port.phase ≠ .granted src) ∨ ∀ x, s.inProgress = some x → x.write = false) :
    s.memAtReset beats = s.mem := by
  unfold State.memAtReset
  split
  · rename_i src x hphase hx
    rcases h with h | h
    · exact absurd hphase (h src)
    · exact Transfer.store_read _ _ (h x hx)
  · rfl

/-- Settles O2: RESET is a `State.resetWith`, which holds each reset value. -/
theorem resetGivesResetValues : Obligations.ResetGivesResetValues := by
  intro beats s
  obtain ⟨copy, causes, hreset, hcopy, hcauses⟩ := s.afterReset_spec beats
  refine ⟨s.afterReset beats, rfl, ?_⟩
  rw [hreset]
  have hlines : ∀ k : Fin 4, (State.resetWith s.settings.block copy causes (s.memAtReset beats) s.tuner s.pending
      s.paces).line k = Line.reset (copy.lines.get k) := fun k => State.resetWith_line ..
  refine ⟨rfl, rfl, rfl, rfl, rfl, fun i => ?window, hcauses, rfl, hcopy, rfl, rfl, rfl, rfl, rfl, rfl, rfl, rfl, rfl, rfl,
    rfl, rfl, rfl, rfl, rfl, rfl, rfl, rfl, fun _ _ => rfl, fun _ => rfl, rfl, rfl, rfl, fun _ _ => rfl, fun _ => rfl, rfl,
    rfl, fun k => ?line, rfl, rfl, rfl, rfl, rfl, rfl, rfl, fun _ => rfl, fun _ => rfl,
    fun src x hphase hx hw hlen htop hbeats a ha => ?beats, fun h => State.memAtReset_eq beats h⟩
  case window => fin_cases i <;> rfl
  case line =>
    rw [hlines]
    exact ⟨rfl, rfl, rfl, rfl, rfl, rfl, rfl, rfl, rfl, fun _ => rfl, rfl, rfl, rfl, rfl, rfl, fun c => by cases c <;> rfl⟩
  case beats =>
    rw [State.byte_of_lt _ ha, s.byte_of_lt ha]
    exact State.sparseGet_memAtReset hphase hx hw hlen htop hbeats

/-! ### CONTROL -/

/-- A trigger acts in RUNNING alone (R166). -/
theorem State.trigger_of_not_running {s : State} (h : s.run ≠ .running) : s.trigger = s := if_neg h

theorem State.trigger_begins {s : State} (h : s.run = .running) (hpos : s.board.pos = .idle)
    (hlist : s.board.completions = []) :
    s.trigger = { s with board := { s.board with pos := .begun, again := false } } := by
  rw [State.trigger, if_pos h, if_pos ⟨hpos, hlist⟩]

theorem State.trigger_marks {s : State} (h : s.run = .running)
    (hbusy : s.board.pos ≠ .idle ∨ s.board.completions ≠ []) :
    s.trigger = { s with board := { s.board with again := true } } := by
  rw [State.trigger, if_pos h, if_neg (by tauto)]

/-- NUDGE with a RUN change that leaves RUNNING, or never reaches it, is that RUN change alone. -/
theorem State.controlWrite_eq_writeRun {s : State} {run nudge : Bool} (h : (s.writeRun run).run ≠ .running) :
    s.controlWrite run nudge = s.writeRun run := by
  unfold State.controlWrite
  split
  · exact State.trigger_of_not_running h
  · rfl

theorem State.beginStart_run (s : State) : s.beginStart.run = .starting := by simp [State.beginStart]

theorem State.beginHalt_run (s : State) : s.beginHalt.run = .halting := rfl

theorem State.fallOfRun_run (s : State) : s.fallOfRun.run = s.run := by rw [State.fallOfRun_frame]

/-- Settles O5: the RUN bit acts first, then the trigger, which `State.trigger` takes in RUNNING alone. -/
theorem nudgeTriggersSurveyWhileRunning : Obligations.NudgeTriggersSurveyWhileRunning := by
  have nudge_eq : ∀ (s : State) (run : Bool), exec (.nudge run) s = .next (s.controlWrite run true) := fun _ _ => rfl
  have start_eq : ∀ s : State, exec (.runStart false) s = .next (s.writeRun true) := fun _ => rfl
  have halt_eq : ∀ s : State, exec (.halt false) s = .next (s.writeRun false) := fun _ => rfl
  have zero_eq : ∀ s : State, exec (.runZeroInStarting false) s = .next (s.writeRun false) := fun _ => rfl
  refine ⟨fun s h hpos hlist => ?begins, fun s h hbusy => ?marks, fun s h => ?falls, fun s h => ⟨?stays, ?starts⟩,
    fun s h => ⟨?ignored, ?zero⟩, fun b s h => ?halting⟩
  case begins =>
    have hrun : s.writeRun true = s := by unfold State.writeRun; rw [h]
    rw [nudge_eq, State.controlWrite, if_pos rfl, hrun, State.trigger_begins h hpos hlist]
  case marks =>
    have hrun : s.writeRun true = s := by unfold State.writeRun; rw [h]
    rw [nudge_eq, State.controlWrite, if_pos rfl, hrun, State.trigger_marks h hbusy]
  case falls =>
    have hrun : s.writeRun false = s.beginHalt := by unfold State.writeRun; rw [h]
    rw [nudge_eq, halt_eq, State.controlWrite_eq_writeRun (by rw [hrun, State.beginHalt_run]; decide)]
  case stays =>
    have hrun : s.writeRun false = s := by unfold State.writeRun; rw [h]
    rw [nudge_eq, State.controlWrite_eq_writeRun (by rw [hrun, h]; decide), hrun]
  case starts =>
    have hrun : s.writeRun true = s.beginStart := by unfold State.writeRun; rw [h]
    rw [nudge_eq, start_eq, State.controlWrite_eq_writeRun (by rw [hrun, State.beginStart_run]; decide)]
  case ignored =>
    have hrun : s.writeRun true = s := by unfold State.writeRun; rw [h]
    rw [nudge_eq, State.controlWrite_eq_writeRun (by rw [hrun, h]; decide), hrun]
  case zero =>
    have hrun : (s.writeRun false).run = .starting := by
      unfold State.writeRun
      rw [h]
      dsimp only
      split
      · rw [State.fallOfRun_run, h]
      · exact h
    rw [nudge_eq, zero_eq, State.controlWrite_eq_writeRun (by rw [hrun]; decide)]
  case halting =>
    have hrun : s.writeRun b = s := by unfold State.writeRun; rw [h]
    rw [nudge_eq, State.controlWrite_eq_writeRun (by rw [hrun, h]; decide), hrun]

/-! ### The start (R189) -/

/-- The anchor read is presented untested by the windows (R189). -/
theorem State.present_anchor_read (s : State) (write : Bool) (a n : Nat) (data : List Byte) :
    s.present .anchor write a n data =
      { s with port := { s.port with transfers := s.port.transfers ++ [⟨.anchor, write, a, n, data⟩] } } :=
  if_neg fun h => h.1 rfl

theorem State.serveBus_of_busy {s : State} (h : s.port.phase ≠ .free) : s.serveBus = s := by
  unfold State.serveBus
  split
  · contradiction
  · rfl

/-- A free port with one transfer presented serves its source. -/
theorem State.serveBus_single {s : State} {x : Transfer} (h : s.port.phase = .free) (hx : s.port.transfers = [x]) :
    s.serveBus = { s with port := { s.port with phase := .requesting x.owner.source } } := by
  have hfind : (rotation s.port.lastServed).find? (fun src => (s.port.burstOf src).isSome) = some x.owner.source := by
    have honly : ∀ src, (s.port.burstOf src).isSome = decide (x.owner.source = src) := fun src => by
      rw [Port.burstOf, hx, List.find?_singleton]
      split <;> simp_all
    simp only [honly]
    generalize x.owner.source = src
    cases s.port.lastServed <;> cases src <;> rfl
  unfold State.serveBus
  rw [h]
  dsimp only
  rw [hfind]

/-- Settles O3: the start presents the anchor read, and a free port serves it. -/
theorem runStartReadsAnchor : Obligations.RunStartReadsAnchor := by
  intro nudge s h
  have hrun : s.writeRun true = s.beginStart := by unfold State.writeRun; rw [h]
  have hexec : exec (.runStart nudge) s = .next s.beginStart := by
    have : exec (.runStart nudge) s = .next (s.controlWrite true nudge) := rfl
    rw [this, State.controlWrite_eq_writeRun (by rw [hrun, State.beginStart_run]; decide), hrun]
  have hbegin : s.beginStart = State.serveBus { s with
      run := .starting, runBit := true
      port := { s.port with
        transfers := s.port.transfers ++ [⟨.anchor, false, s.anchor.toNat / 4 * 4, 64, []⟩] } } := by
    rw [State.beginStart, State.presentRead, State.present_anchor_read, align4_eq]
  refine ⟨s.beginStart, hexec, s.beginStart_run, ?_, ?_, fun hfree hnone => ?_, fun hbusy => ?_, ?_, ?_⟩
  all_goals rw [hbegin]
  · simp
  · simp
  · rw [State.serveBus_single (x := ⟨.anchor, false, s.anchor.toNat / 4 * 4, 64, []⟩)]
    · rfl
    · exact hfree
    · simp [hnone]
  · rw [State.serveBus_of_busy]
    exact hbusy
  · simp
  · exact State.eq_of_fields (by simp)

/-! ### The halt (R158, R190) -/

/-- What the halt changes, block by block. -/
theorem State.beginHalt_frame (s : State) :
    s.beginHalt = { s with
      run := .halting, runBit := false, engine := s.engine.halted, swapAnswers := []
      sweep := s.beginHalt.sweep, board := s.beginHalt.board, watch := s.fallOfRun.watch
      status := s.fallOfRun.status, causes := s.fallOfRun.causes } := by
  have h : s.beginHalt = { s.fallOfRun with
      run := .halting, sweep := s.beginHalt.sweep, board := s.beginHalt.board } := rfl
  rw [h, State.fallOfRun_frame]

/-- The halt reaches every block (R190). -/
theorem State.beginHalt_reaches {s : State} (hs : s.watchOk) : haltReaches s s.beginHalt := by
  refine ⟨?_, ?_, ?_, (State.fallOfRun_watchHalted hs).of_eq rfl rfl rfl rfl⟩
  · rw [State.beginHalt_frame]
    rfl
  · have hsweep : s.fallOfRun.sweep = s.sweep := by rw [State.fallOfRun_frame]
    have h : s.beginHalt.sweep = { s.fallOfRun.sweep with count := { s.fallOfRun.sweep.count with
        haltMark := s.fallOfRun.sweep.count.haltMark || s.fallOfRun.sweep.order.isSome } } := rfl
    rw [h, hsweep]
    cases s.sweep.order.isSome <;> simp
  · have hboard : s.fallOfRun.board = s.board := by rw [State.fallOfRun_frame]
    have h : s.beginHalt.board = { s.fallOfRun.board with
        again := false, timerOn := false
        ending := decide (s.fallOfRun.board.pos ≠ .idle ∧ s.fallOfRun.board.pos ≠ .begun)
        pos := if s.fallOfRun.board.pos = .begun then .idle else s.fallOfRun.board.pos } := rfl
    rw [h, hboard]

/-- Settles O4: RUN 0 is `State.beginHalt` in RUNNING and `State.fallOfRun` in STARTING. -/
theorem runZeroReachesTheBlocks : Obligations.RunZeroReachesTheBlocks := by
  refine ⟨fun nudge s h hs => ⟨s.beginHalt, ?_, s.beginHalt_run, ?_, State.beginHalt_reaches hs, ?_⟩,
    fun nudge s h hbit hs => ⟨s.fallOfRun, ?_, ?_, ?_, ?_, State.fallOfRun_watchHalted hs, ?_⟩⟩
  · have hrun : s.writeRun false = s.beginHalt := by unfold State.writeRun; rw [h]
    have hexec : exec (.halt nudge) s = .next (s.controlWrite false nudge) := rfl
    rw [hexec, State.controlWrite_eq_writeRun (by rw [hrun, State.beginHalt_run]; decide), hrun]
  · rw [State.beginHalt_frame]
  · rw [State.beginHalt_frame]
  · have hrun : s.writeRun false = s.fallOfRun := by unfold State.writeRun; rw [h]; exact if_pos hbit
    have hexec : exec (.runZeroInStarting nudge) s = .next (s.controlWrite false nudge) := rfl
    rw [hexec, State.controlWrite_eq_writeRun (by rw [hrun, State.fallOfRun_run, h]; decide), hrun]
  · rw [State.fallOfRun_run, h]
  · rw [State.fallOfRun_frame]
  · rw [State.fallOfRun_frame]
    rfl
  · rw [State.fallOfRun_frame]

/-- Settles O11: the start ends with the rewrite, and the halt with `State.haltDone`. -/
theorem startAndHaltComplete : Obligations.StartAndHaltComplete := by
  refine ⟨fun s h hrewrite hbit hpos hlist => ?running, fun s h hrewrite hbit => ?halting, fun s h => ?notDue,
    fun s h hpos hlist horder hservice hsweep hjob => ?halted, fun s h hopen hwork => ?waits⟩
  case running =>
    refine congrArg Host.Outcome.next ?_
    rw [if_pos ⟨h, hrewrite⟩]
    dsimp only
    rw [if_pos hbit]
    exact State.trigger_begins rfl hpos hlist
  case halting =>
    have hexec : exec .statusRewriteComplete s = .next (State.beginHalt { s with rewrite := none }) := by
      refine congrArg Host.Outcome.next ?_
      rw [if_pos ⟨h, hrewrite⟩]
      dsimp only
      rw [hbit, if_neg Bool.false_ne_true]
    refine ⟨_, hexec, State.beginHalt_run _, ?_, fun hs => ?_, ?_⟩
    · rw [State.beginHalt_frame]
    · obtain ⟨hengine, hsweep, hboard, hwatch⟩ := State.beginHalt_reaches (s := { s with rewrite := none }) hs
      exact ⟨hengine, hsweep, hboard, hwatch.of_base rfl rfl⟩
    · rw [State.beginHalt_frame, ← hbit]
  case notDue =>
    refine congrArg Host.Outcome.next (if_neg ?_)
    tauto
  case halted =>
    have hdone : (decide (s.run = .halting) && s.haltDone) = true := by
      simp [State.haltDone, h, hpos, hlist, horder, hservice, hsweep, hjob]
    refine ⟨State.setCause { s with run := .stopped } .halted, ?_, rfl, fun c => ?_, rfl⟩
    · exact congrArg Host.Outcome.next (s.whenDue_of_due _ hdone)
    · rw [State.hasCause_setCause]
      rfl
  case waits =>
    have hdone : (decide (s.run = .halting) && s.haltDone) = false := by
      rw [Bool.eq_false_iff]
      intro hdone
      simp only [State.haltDone, Bool.and_eq_true, decide_eq_true_eq, Option.isNone_iff_eq_none] at hdone
      obtain ⟨-, ⟨⟨⟨⟨hpos, hlist⟩, horder⟩, hservice⟩, hsweep⟩, hjob⟩ := hdone
      simp [hpos, hlist, horder, hservice, hsweep, hjob] at hopen
    exact congrArg Host.Outcome.next (s.whenDue_of_idle _ hdone hwork)

end Sys2Proof.Machine
end

section
/-! The end of the anchor read (chapter 10, 10.1 and 10.5). -/

namespace Sys2Proof.Machine

/-! ### The anchor record -/

theorem Anchor.bad_readAnchor_iff (bs : List Byte) :
    (readAnchor bs).bad = true ↔ half bs 0 ≠ 3 ∨ byteAt bs 2 = 0 ∨ byteAt bs 3 = 0 := by
  simp only [Anchor.bad, Bool.or_eq_true, decide_eq_true_eq, or_assoc]
  rfl

/-- A window descriptor as read (R181). -/
theorem readWindow_spec (base size access : Nat) :
    (readWindow base size access).base = base / 256 * 256 ∧
    (readWindow base size access).size = min (size / 256 * 256) (2 ^ 24) ∧
    ((readWindow base size access).access = .read ↔ access = 1) ∧
    ((readWindow base size access).access = .readWrite ↔ access = 2) := by
  refine ⟨?_, ?_, ?_, ?_⟩
  · simp only [readWindow]
    omega
  · simp only [readWindow]
    omega
  · simp only [readWindow]
    split <;> simp_all
  · simp only [readWindow]
    split <;> simp_all

theorem readAnchor_window (bs : List Byte) (i : Fin 4) :
    (readAnchor bs).windows.get i =
      readWindow (word bs (16 + 12 * i.val)) (word bs (20 + 12 * i.val)) (byteAt bs (24 + 12 * i.val)) := by
  fin_cases i <;> rfl

/-! ### A bad anchor -/

/-- ANCHOR_READ_DONE in STARTING judges the answer. -/
theorem exec_anchorReadDone {s : State} {a : Answer} (hrun : s.run = .starting) (hmail : s.mail.anchor = some a) :
    exec .anchorReadDone s = .next ((s.setMail .anchor none).judgeAnchor a) := by
  have h : exec .anchorReadDone s = .next
      (match s.mail.anchor with
      | some a => if s.run = .starting then (s.setMail .anchor none).judgeAnchor a else s
      | none => s) := rfl
  rw [h, hmail]
  dsimp only
  rw [if_pos hrun]

/-- A bad anchor, or a fault on its read, fails the start. -/
theorem State.judgeAnchor_of_bad {a : Answer} (s : State)
    (h : a = .fault ∨ ∃ bs, a = .ok bs ∧ (half bs 0 ≠ 3 ∨ byteAt bs 2 = 0 ∨ byteAt bs 3 = 0)) :
    s.judgeAnchor a = s.anchorFails := by
  rcases h with rfl | ⟨bs, rfl, hbad⟩
  · rfl
  · exact if_pos ((Anchor.bad_readAnchor_iff bs).2 hbad)

/-- The state when the fall of RUN, if RUN was still 1, has come before a failed start ends. -/
def State.runFallen (s : State) : State := if s.runBit then s.fallOfRun else s

theorem State.anchorFails_eq (s : State) :
    s.anchorFails = State.setCause { s.runFallen.endSearch with run := .stopped } .anchorBad := rfl

/-- What of the engine a failed start leaves: its service and its reading alone can go. -/
theorem State.anchorFails_engine (s : State) :
    s.anchorFails.engine = { s.runFallen.engine with
      service := s.anchorFails.engine.service, reading := s.anchorFails.engine.reading } := by
  rw [State.anchorFails_eq]
  rcases s.runFallen.endSearch_cases with ⟨_, _, _, h⟩ | ⟨_, h⟩ <;> rw [h] <;> rfl

theorem State.runFallen_cases (s : State) :
    (s.runBit = true ∧ s.runFallen = s.fallOfRun) ∨ (s.runBit = false ∧ s.runFallen = s) := by
  unfold State.runFallen
  cases h : s.runBit <;> simp

/-- The fall of RUN leaves the service of a swap request and its reading. -/
theorem State.runFallen_service (s : State) :
    s.runFallen.engine.service = s.engine.service ∧ s.runFallen.engine.reading = s.engine.reading := by
  rcases s.runFallen_cases with ⟨-, h⟩ | ⟨-, h⟩ <;> rw [h]
  · rw [State.fallOfRun_frame]
    exact ⟨rfl, rfl⟩
  · exact ⟨rfl, rfl⟩

/-- What a failed start changes. -/
theorem State.anchorFails_frame (s : State) :
    s.anchorFails = { s with
      run := .stopped, runBit := false, engine := s.anchorFails.engine, watch := s.runFallen.watch
      swapAnswers := s.runFallen.swapAnswers, status := s.runFallen.status
      causes := s.runFallen.causes ||| causeBit .anchorBad } := by
  have hend : s.runFallen.endSearch = { s.runFallen with engine := s.anchorFails.engine } := by
    rw [State.anchorFails_eq]
    rcases s.runFallen.endSearch_cases with ⟨_, _, _, h⟩ | ⟨_, h⟩ <;> rw [h] <;> rfl
  have h : s.anchorFails = { s.runFallen with
      run := .stopped, engine := s.anchorFails.engine, causes := s.runFallen.causes ||| causeBit .anchorBad } := by
    conv_lhs => rw [State.anchorFails_eq, hend]
    rfl
  rw [h]
  rcases s.runFallen_cases with ⟨-, hf⟩ | ⟨hbit, hf⟩
  · rw [hf, State.fallOfRun_frame]
  · rw [hf, ← hbit]

/-- Settles O9: a failed start is the fall of RUN, if RUN was still 1, and the end of a search. -/
theorem badAnchorReturnsToStopped : Obligations.BadAnchorReturnsToStopped := by
  intro a s hrun hmail hbad searching
  let u := s.setMail .anchor none
  have hservice := u.runFallen_service
  have hcause : ∀ c, u.anchorFails.hasCause c = (u.runFallen.hasCause c || decide (c = .anchorBad)) := fun c => by
    rw [State.anchorFails_eq, State.hasCause_setCause]
    rcases u.runFallen.endSearch_cases with ⟨_, _, _, h⟩ | ⟨_, h⟩ <;> rw [h] <;> rfl
  refine ⟨u.anchorFails, ?_, ?_, ?_, ?_, ?_, ?_, ?_, ?_, ?_, fun hsearch => ?_, fun hsearch => ?_, fun hbit => ?_,
    fun hbit => ?_, ?_, ?_⟩
  · rw [exec_anchorReadDone hrun hmail, State.judgeAnchor_of_bad _ hbad]
  · rfl
  · rw [State.anchorFails_frame]
  · rw [hcause]
    simp
  · rw [hcause, decide_eq_false (by decide), Bool.or_false]
    rcases u.runFallen_cases with ⟨-, h⟩ | ⟨-, h⟩ <;> rw [h]
    · exact u.fallOfRun_hasCause (by decide)
    · rfl
  · rw [State.anchorFails_frame]; rfl
  · rw [State.anchorFails_frame]; rfl
  · rw [State.anchorFails_frame]; rfl
  · rw [State.anchorFails_frame]; rfl
  · rcases u.runFallen.endSearch_cases with ⟨id, next, -, h⟩ | ⟨hno, -⟩
    · rw [State.anchorFails_eq, h]
      exact ⟨rfl, rfl⟩
    · obtain ⟨id, next, hs⟩ := hsearch
      exact absurd (hservice.1.trans hs) (hno id next)
  · rcases u.runFallen.endSearch_cases with ⟨id, next, hs, -⟩ | ⟨-, h⟩
    · exact absurd ⟨id, next, hservice.1.symm.trans hs⟩ hsearch
    · rw [State.anchorFails_eq, h]
      exact hservice
  · have hfallen : u.runFallen = u.fallOfRun := if_pos hbit
    have hengine := u.anchorFails_engine
    rw [hfallen, State.fallOfRun_frame] at hengine
    refine ⟨by rw [hengine]; rfl, by rw [hengine]; rfl, fun hs => ?_⟩
    have hhalted : watchHalted u u.fallOfRun [] := State.fallOfRun_watchHalted hs
    refine ((hhalted.setCause .anchorBad).of_base (s' := s) rfl rfl).of_eq ?_ ?_ ?_ ?_ <;>
      rw [State.anchorFails_frame, hfallen] <;> rfl
  · have hfallen : u.runFallen = u := if_neg (by rw [show u.runBit = false from hbit]; exact Bool.false_ne_true)
    have hengine := u.anchorFails_engine
    rw [hfallen] at hengine
    refine ⟨by rw [hengine]; rfl, by rw [hengine]; rfl, ?_, ?_, ?_, fun c => ?_⟩
    · rw [State.anchorFails_frame, hfallen]; rfl
    · rw [State.anchorFails_frame, hfallen]; rfl
    · rw [State.anchorFails_frame, hfallen]; rfl
    · rw [hcause, hfallen]
      rfl
  · have hengine := u.anchorFails_engine
    have hrest : { u.runFallen.engine with requests := s.engine.requests, order := s.engine.order } = s.engine := by
      rcases u.runFallen_cases with ⟨-, h⟩ | ⟨-, h⟩ <;> rw [h]
      · rw [State.fallOfRun_frame]
        rfl
      · rfl
    rw [hengine]
    calc _ = { ({ u.runFallen.engine with requests := s.engine.requests, order := s.engine.order } : Engine) with
          service := s.engine.service, reading := s.engine.reading } := rfl
      _ = s.engine := by rw [hrest]
  · rw [State.anchorFails_frame]
    rfl

/-! ### A good anchor -/

/-- The records that a RUN start marks for one stage: the stage's and its carriers' (R180). -/
def stageRecords (n : Nat) : List RecId := .stage n :: (List.range Config.numbers).map fun k => .carrier (n * 256 + k)

theorem rewriteList_eq (stages : Nat) : rewriteList stages =
    ((List.range stages).flatMap stageRecords ++ (List.finRange 4).map RecId.line) ++
      (List.range Config.spareRecords).map RecId.spare := rfl

theorem mem_stageRecords {n : Nat} {r : RecId} :
    r ∈ stageRecords n ↔ r = .stage n ∨ ∃ k < 96, r = .carrier (n * 256 + k) := by
  simp [stageRecords, Config.numbers, eq_comm]

theorem stageRecords_nodup (n : Nat) : (stageRecords n).Nodup := by
  refine List.nodup_cons.2 ⟨by simp, List.nodup_range.map fun a b h => ?_⟩
  have := RecId.carrier.inj h
  omega

/-- No record belongs to two stages. -/
theorem stageRecords_disjoint {n m : Nat} (h : n ≠ m) : List.Disjoint (stageRecords n) (stageRecords m) := by
  intro r hn hm
  rcases mem_stageRecords.1 hn with rfl | ⟨k, hk, rfl⟩ <;> rcases mem_stageRecords.1 hm with hr | ⟨j, hj, hr⟩
  · exact h (RecId.stage.inj hr)
  · cases hr
  · cases hr
  · have := RecId.carrier.inj hr
    omega

/-- The records of a RUN start exist, and none stands twice among them (R180). -/
theorem rewriteList_spec {stages : Nat} (h : stages ≤ 12) :
    (rewriteList stages).Nodup ∧ ∀ r ∈ rewriteList stages, r.exists = true := by
  have hstages : ∀ r ∈ (List.range stages).flatMap stageRecords, ∃ n < stages, r ∈ stageRecords n := fun r hr => by
    simpa using hr
  rw [rewriteList_eq]
  refine ⟨List.nodup_append'.2 ⟨List.nodup_append'.2 ⟨?_, ?_, ?_⟩, ?_, ?_⟩, fun r hr => ?_⟩
  · refine List.nodup_flatMap.2 ⟨fun n _ => stageRecords_nodup n, List.nodup_range.imp fun hne => ?_⟩
    exact stageRecords_disjoint hne
  · exact (List.nodup_finRange 4).map fun _ _ e => RecId.line.inj e
  · intro r hr hline
    obtain ⟨n, -, hn⟩ := hstages r hr
    obtain ⟨k, -, rfl⟩ := List.mem_map.1 hline
    simp [mem_stageRecords] at hn
  · exact List.nodup_range.map fun _ _ e => RecId.spare.inj e
  · intro r hr hspare
    obtain ⟨i, -, rfl⟩ := List.mem_map.1 hspare
    rcases List.mem_append.1 hr with hr | hr
    · obtain ⟨n, -, hn⟩ := hstages _ hr
      simp [mem_stageRecords] at hn
    · simp at hr
  · rcases List.mem_append.1 hr with hr | hr
    · rcases List.mem_append.1 hr with hr | hr
      · obtain ⟨n, hn, hmem⟩ := hstages r hr
        rcases mem_stageRecords.1 hmem with rfl | ⟨k, hk, rfl⟩
        · exact decide_eq_true (hn.trans_le h)
        · have hstage : (n * 256 + k) / 256 < 12 := by omega
          have hnumber : (n * 256 + k) % 256 < 96 := by omega
          exact Bool.and_eq_true_iff.2 ⟨decide_eq_true hstage, decide_eq_true hnumber⟩
      · obtain ⟨k, -, rfl⟩ := List.mem_map.1 hr
        rfl
    · obtain ⟨i, hi, rfl⟩ := List.mem_map.1 hr
      exact decide_eq_true (List.mem_range.1 hi)

/-- Settles O10: a good anchor is latched field by field, and `State.markAll_status` says how its records join the
marks. -/
theorem goodAnchorIsLatched : Obligations.GoodAnchorIsLatched := by
  intro bs s hrun hmail hversion hstages hslots records
  have hgood : (readAnchor bs).bad = false := by
    rw [Bool.eq_false_iff, ne_eq, Anchor.bad_readAnchor_iff]
    tauto
  have hrecords : rewriteList (min (readAnchor bs).stages Config.stages) = records := rfl
  obtain ⟨hnodup, hexist⟩ := rewriteList_spec (min_le_right (byteAt bs 2) 12)
  have hstatus := State.markAll_status (s := { s.setMail .anchor none with
      latch := ⟨min (readAnchor bs).stages Config.stages, (readAnchor bs).dirAddr, (readAnchor bs).boardAddr,
        min (readAnchor bs).slots 16, some (readAnchor bs).statusAddr⟩
      windows := (readAnchor bs).windows
      board := { s.board with cursor := 0, again := false }
      rewrite := some records }) hnodup hexist
  refine ⟨(s.setMail .anchor none).latchAnchor (readAnchor bs), ?_, ?_, ?_, ?_, ?_, ?_, ?_, ?_, fun i => ?_, ?_, ?_, ?_, ?_⟩
  · rw [exec_anchorReadDone hrun hmail]
    exact congrArg Host.Outcome.next (if_neg (by rw [hgood]; exact Bool.false_ne_true))
  all_goals unfold State.latchAnchor; dsimp only; rw [State.markAll_eq]
  · exact hrun
  · rfl
  · rfl
  · rfl
  · exact align4_eq _
  · exact align4_eq _
  · exact congrArg some (align4_eq _)
  · have h := readWindow_spec (word bs (16 + 12 * i.val)) (word bs (20 + 12 * i.val)) (byteAt bs (24 + 12 * i.val))
    rwa [← readAnchor_window] at h
  · rfl
  · exact congrArg some hrecords
  · exact hstatus
  · rfl

end Sys2Proof.Machine
end

section
/-! The Memory Port: rotation, bursts, and the window test (chapter 10, 10.1 and 10.2). -/

namespace Sys2Proof.Machine

/-! ### The rotation (R183) -/

theorem sourceOf_eq (o : Owner) : sourceOf o = o.source := by cases o <;> rfl

theorem requesterOf_eq (o : Owner) : requesterOf o = o.requester := by cases o <;> rfl

/-- The rotation lists every source, in the order of the turns before each. -/
theorem rotation_spec (last : Source) :
    (rotation last).Pairwise (fun a b => turnsBefore last a < turnsBefore last b) ∧ ∀ src, src ∈ rotation last := by
  cases last <;> exact ⟨by decide, fun src => by cases src <;> decide⟩

theorem turnsBefore_injective (last a b : Source) (h : turnsBefore last a = turnsBefore last b) : a = b := by
  cases last <;> cases a <;> cases b <;> first | rfl | exact absurd h (by decide)

/-- The source served is one that presents a burst, and no other that presents one has its turn before it. -/
theorem find_rotation_least {last src : Source} {presents : Source → Bool}
    (h : (rotation last).find? presents = some src) {other : Source} (hother : presents other = true) :
    turnsBefore last src ≤ turnsBefore last other := by
  obtain ⟨hpair, hall⟩ := rotation_spec last
  obtain ⟨-, before, after, hlist, hnone⟩ := List.find?_eq_some_iff_append.1 h
  have hmem := hall other
  rw [hlist] at hmem hpair
  rcases List.mem_append.1 hmem with hb | ha
  · have := hnone other hb
    rw [hother] at this
    cases this
  · rcases List.mem_cons.1 ha with rfl | ha
    · exact le_rfl
    · exact ((List.pairwise_cons.1 (List.pairwise_append.1 hpair).2.1).1 other ha).le

theorem Port.burstOf_isSome_iff (p : Port) (src : Source) :
    (p.burstOf src).isSome = true ↔ ∃ x ∈ p.transfers, x.owner.source = src := by
  simp [Port.burstOf, List.find?_isSome]

/-- All that the service of the bus can do: a busy port stands, as does a free one to which nothing is presented; any
other free port raises the bus request for the source whose turn comes first. -/
theorem State.serveBus_cases (s : State) :
    (s.port.phase ≠ .free ∧ s.serveBus = s) ∨
    (s.port.phase = .free ∧ s.port.transfers = [] ∧ s.serveBus = s) ∨
    ∃ src, s.port.phase = .free ∧ (∃ x ∈ s.port.transfers, x.owner.source = src) ∧
      (∀ x ∈ s.port.transfers, turnsBefore s.port.lastServed src ≤ turnsBefore s.port.lastServed x.owner.source) ∧
      s.serveBus = { s with port := { s.port with phase := .requesting src } } := by
  unfold State.serveBus
  split
  · rename_i hfree
    split
    · rename_i src hfind
      refine .inr (.inr ⟨src, hfree, ?_, fun x hx => ?_, rfl⟩)
      · exact (s.port.burstOf_isSome_iff src).1 (List.find?_some (p := fun src => (s.port.burstOf src).isSome) hfind)
      · exact find_rotation_least hfind ((s.port.burstOf_isSome_iff _).2 ⟨x, hx, rfl⟩)
    · rename_i hnone
      refine .inr (.inl ⟨hfree, ?_, rfl⟩)
      refine List.eq_nil_iff_forall_not_mem.2 fun x hx => ?_
      have := List.find?_eq_none.1 hnone x.owner.source ((rotation_spec _).2 _)
      exact this ((s.port.burstOf_isSome_iff _).2 ⟨x, hx, rfl⟩)
  · rename_i hbusy
    exact .inl ⟨hbusy, rfl⟩

/-- A free port to which nothing is presented stays free. -/
theorem State.serveBus_of_empty {s : State} (h : s.port.transfers = []) : s.serveBus = s := by
  rcases s.serveBus_cases with ⟨-, hs⟩ | ⟨-, -, hs⟩ | ⟨src, -, ⟨x, hx, -⟩, -⟩
  · exact hs
  · exact hs
  · rw [h] at hx
    cases hx

/-- A free port serves the sources in rotation. -/
theorem State.serveBus_nextServed {s : State} (h : s.port.phase = .free) : nextServed s.serveBus.port := by
  rcases s.serveBus_cases with ⟨hbusy, -⟩ | ⟨-, hnone, hs⟩ | ⟨src, -, ⟨x, hx, hsrc⟩, hleast, hs⟩
  · exact absurd h hbusy
  · rw [hs]
    exact ⟨fun _ => h, fun y hy => by rw [hnone] at hy; cases hy⟩
  · rw [hs]
    refine ⟨fun hnone => ?_, fun y hy hmin => ?_⟩
    · have hnone : s.port.transfers = [] := hnone
      rw [hnone] at hx
      cases hx
    · have hle := hleast y hy
      have hge := hmin x hx
      rw [sourceOf_eq, sourceOf_eq, hsrc] at hge
      rw [sourceOf_eq]
      exact congrArg _ (turnsBefore_injective _ _ _ (le_antisymm hle hge))

/-- The service of the bus changes its phase alone, and only when the bus is free. -/
theorem State.serveBus_frame (s : State) :
    { s.serveBus with port := { s.serveBus.port with phase := s.port.phase } } = s := by
  rcases s.serveBus_cases with ⟨-, hs⟩ | ⟨-, -, hs⟩ | ⟨src, -, -, -, hs⟩ <;> rw [hs]

theorem State.inProgress_of_phase {s : State} {src : Source}
    (h : s.port.phase = .requesting src ∨ s.port.phase = .granted src) :
    s.inProgress = s.port.transfers.find? fun x => decide (sourceOf x.owner = src) := by
  simp only [sourceOf_eq]
  rcases h with h | h <;> rw [State.inProgress, h] <;> rfl

/-! ### Bursts (R183) -/

/-- A burst runs to the end of the transfer or of its 16th beat. -/
theorem add_burstLength {beat : Nat} (a n : Nat) (hb : 1 ≤ beat) :
    a + burstLength beat a n = min (a + n) (a / beat * beat + 16 * beat) := by
  have hdiv := Nat.div_add_mod' a beat
  have hmod := Nat.mod_lt a hb
  unfold burstLength
  simp only [Config.burstBeats]
  omega

theorem burstBeatCount_eq {beat n : Nat} (a : Nat) (hb : 1 ≤ beat) (hn : 1 ≤ n) :
    burstBeatCount beat a n = (a + n - 1) / beat - a / beat + 1 := by
  have hdiv := Nat.div_add_mod a beat
  have hfirst : (a + n - 1) / beat = a / beat + (a % beat + n - 1) / beat := by
    rw [← Nat.mul_add_div hb]
    congr 1
    omega
  have hcount : (a % beat + n + beat - 1) / beat = (a % beat + n - 1) / beat + 1 := by
    rw [← Nat.add_div_right _ hb]
    congr 1
    omega
  rw [burstBeatCount, hcount, hfirst, Nat.add_sub_cancel_left]

theorem beatAddress_eq (beat a k : Nat) :
    beatAddress beat a k = if k = 0 then a else a / beat * beat + k * beat := by
  have hdiv := Nat.div_add_mod' a beat
  unfold beatAddress
  split
  · rfl
  · omega

/-- The first beats of a burst move its bytes to the end of the last of them. -/
theorem add_beatsMoved {beat : Nat} (a n k : Nat) (hb : 1 ≤ beat) :
    a + beatsMoved beat a n k = if k = 0 then a else min (a + n) (a / beat * beat + k * beat) := by
  have hdiv := Nat.div_add_mod' a beat
  have hmod := Nat.mod_lt a hb
  unfold beatsMoved
  split
  · rfl
  · have hk : beat ≤ k * beat := Nat.le_mul_of_pos_left beat (by omega)
    omega

/-! ### The grant -/

/-- The host's stores, in their order: the last to an address is what stands there (log 1). -/
theorem sparseGet_hostStores (writes : List (Nat × Byte)) (m : Sparse Byte) (a : Nat)
    (h : ∀ w ∈ writes, w.1 < 2 ^ 32) :
    sparseGet unwritten (hostStores m writes) a = (lastStore writes a).getD (sparseGet unwritten m a) := by
  induction writes generalizing m with
  | nil => rfl
  | cons w ws ih =>
    have hw : w.1 % Config.addresses = w.1 := Nat.mod_eq_of_lt (h w (.head _))
    have hstep : hostStores m (w :: ws) = hostStores (sparseSet unwritten m (w.1 % Config.addresses) w.2) ws := rfl
    rw [hstep, ih _ fun x hx => h x (.tail _ hx), hw, sparseGet_set, lastStore, lastStore, List.reverse_cons,
      List.find?_append]
    cases ws.reverse.find? fun x => decide (x.1 = a) with
    | some x => rfl
    | none =>
      by_cases hwa : w.1 = a
      · simp [hwa]
      · simp [hwa, Ne.symm hwa]

/-! ### The end of a burst -/

/-- A requester that takes its answer leaves memory and the bus. -/
theorem State.wake_bus (s : State) (o : Owner) :
    (s.wake o).mem = s.mem ∧ (s.wake o).port.phase = s.port.phase ∧
      (s.wake o).port.lastServed = s.port.lastServed := by
  have board := State.control_eq_iff.1 s.boardGo_control
  have engine := State.control_eq_iff.1 s.engineGo_kept.1
  cases o with
  | board =>
    obtain ⟨-, -, -, -, -, -, -, -, hmem, hphase, hlast⟩ := board
    exact ⟨hmem, hphase, hlast⟩
  | engine =>
    obtain ⟨-, -, -, -, -, -, -, -, hmem, hphase, hlast⟩ := engine
    exact ⟨hmem, hphase, hlast⟩
  | cache =>
    obtain ⟨-, -, -, -, -, -, -, -, hmem, hphase, hlast⟩ := engine
    exact ⟨hmem, hphase, hlast⟩
  | settings =>
    unfold State.wake State.settingsGo
    dsimp only
    split <;> exact ⟨rfl, rfl, rfl⟩
  | status =>
    obtain ⟨hmem, -, -, -, -, -, -, -, -, -, -, -, hphase, hlast, -⟩ := s.statusGo_kept
    exact ⟨hmem, hphase, hlast⟩
  | _ => exact ⟨rfl, rfl, rfl⟩

/-- After a burst the bus is free, its source has been served last, and the burst's bytes are in memory. -/
theorem State.endBurst_bus (s : State) (x : Transfer) :
    (s.endBurst x).mem = x.store s.mem (burstLength s.beatBytes x.addr x.left) ∧ (s.endBurst x).port.phase = .free ∧
      (s.endBurst x).port.lastServed = s.port.phase.source.getD s.port.lastServed := by
  unfold State.endBurst
  dsimp only
  split <;> exact ⟨rfl, rfl, rfl⟩

theorem exec_burstComplete {s : State} {src : Source} {x : Transfer} (h : s.port.phase = .granted src)
    (hx : s.inProgress = some x) :
    exec .burstComplete s = .next ((s.endBurst x).wake x.owner).serveBus := by
  have hexec : exec .burstComplete s = .next
      (match s.port.phase, s.inProgress with
      | .granted _, some t => ((s.endBurst t).wake t.owner).serveBus
      | _, _ => s) := rfl
  rw [hexec, h, hx]

/-- A burst that is not its transfer's last: the transfer goes on with the next. -/
theorem State.endBurst_of_more {s : State} {x : Transfer} (h : burstLength s.beatBytes x.addr x.left < x.left) :
    s.endBurst x = { s with
      mem := x.store s.mem (burstLength s.beatBytes x.addr x.left)
      port := s.port.release.advance (carriedOn s x (burstLength s.beatBytes x.addr x.left)) } := by
  unfold State.endBurst
  exact if_neg (show ¬ x.left - burstLength s.beatBytes x.addr x.left = 0 by omega)

/-- The last burst of a transfer: the transfer leaves the port, and its owner has the answer. -/
theorem State.endBurst_of_last {s : State} {x : Transfer} (h : x.left ≤ burstLength s.beatBytes x.addr x.left) :
    s.endBurst x = { s with
      mem := x.store s.mem x.left, port := s.port.release.drop x.owner
      mail := s.mail.put x.owner (some (.ok (if x.write then [] else x.data ++ memRead s.mem x.addr x.left))) } := by
  have hlen : burstLength s.beatBytes x.addr x.left = x.left := le_antisymm (burstLength_le _ _ _) h
  unfold State.endBurst
  dsimp only
  have hleft : (x.advanced s.mem x.left).left = 0 := Nat.sub_self _
  rw [hlen, if_pos hleft]
  refine State.eq_of_fields ⟨rfl, rfl, rfl, rfl, rfl, rfl, rfl, rfl, rfl, rfl, rfl, rfl, ?_, rfl, rfl, rfl, rfl, rfl, rfl,
    rfl, rfl, rfl, rfl, rfl, rfl, rfl, rfl, rfl, rfl, rfl, rfl, rfl⟩
  unfold Transfer.advanced
  cases hw : x.write <;> simp [State.setMail]

/-! ### A block that waits goes on waiting while its own answer is not there -/

/-- The Board Handler's waiting rests on its position, its mail and the map's order. -/
theorem State.boardMicro_of_bus {s : State} (m : Sparse Byte) (p : Port) (h : s.boardMicro = none) :
    State.boardMicro { s with mem := m, port := p } = none := by
  unfold State.boardMicro at h ⊢
  cases hpos : s.board.pos with
  | bandWait sound =>
    simp only [hpos] at h ⊢
    cases hband : s.band with
    | none => rfl
    | some b => simpa [hband] using h
  | _ => simp_all [State.surveyRead, State.boardMail]

/-- A lookup waits while none is in progress, and inside one while the answer of its transfer is not there. -/
theorem State.lookupStep_eq_wait_iff (s : State) (id : Nat) : s.lookupStep id = .wait ↔
    s.engine.lookup = none ∨ s.engine.lookup ≠ some .ask ∧ s.mail.cache = none := by
  unfold State.lookupStep
  rcases h : s.engine.lookup with _ | (_ | _ | a | a)
  · simp
  · simp only [State.lookupEnds]
    split
    · simp
    · split
      · split <;> simp
      · simp
  all_goals
    rcases hm : s.mail.cache with _ | (_ | bs)
    · simp
    all_goals simp [State.lookupEnds, State.lookupFound]
  all_goals split <;> simp

/-- A write-back waits while none is in progress, and inside one while the answer of its transfer is not there. -/
theorem State.wbStep_eq_wait_iff (s : State) : s.wbStep = .wait ↔
    ∀ w, s.engine.wb = some w → w.stage ≠ .ask ∧ s.mail.cache = none := by
  unfold State.wbStep
  rcases h : s.engine.wb with _ | ⟨id, code, swap, _ | _ | _⟩
  · simp
  · simp only [State.wbFails]
    split <;> simp
  all_goals
    rcases hm : s.mail.cache with _ | (_ | bs)
    · simp
    all_goals simp [State.wbFails]
  · split <;> simp

/-- A lookup's waiting rests on its stage and the Cache's mail. -/
theorem State.lookupStep_of_bus {s : State} {id : Nat} (m : Sparse Byte) (p : Port) (h : s.lookupStep id = .wait) :
    State.lookupStep { s with mem := m, port := p } id = .wait :=
  (State.lookupStep_eq_wait_iff _ id).2 ((s.lookupStep_eq_wait_iff id).1 h)

theorem State.wbStep_of_bus {s : State} (m : Sparse Byte) (p : Port) (h : s.wbStep = .wait) :
    State.wbStep { s with mem := m, port := p } = .wait :=
  (State.wbStep_eq_wait_iff _).2 (s.wbStep_eq_wait_iff.1 h)

theorem State.orderMicro_of_bus {s : State} {o : EngineOrder} (m : Sparse Byte) (p : Port) (h : s.orderMicro o = none) :
    State.orderMicro { s with mem := m, port := p } o = none := by
  unfold State.orderMicro at h ⊢
  cases hpos : s.engine.pos with
  | lookup id =>
    simp only [hpos] at h ⊢
    split at h
    · rename_i hw
      rw [State.lookupStep_of_bus m p hw]
    · cases h
    · cases h
  | commitWriteWait left =>
    simp only [hpos] at h ⊢
    split at h
    · rename_i hw
      rw [State.wbStep_of_bus m p hw]
    · cases h
    · cases h
  | _ => simp_all [State.engineMail]

/-- The engine's waiting rests on its own state and on the answers for it and for the Cache. -/
theorem State.engineMicro_of_bus {s : State} (m : Sparse Byte) (p : Port) (h : s.engineMicro = none) :
    State.engineMicro { s with mem := m, port := p } = none := by
  unfold State.engineMicro at h ⊢
  have hreads : State.readsBins { s with mem := m, port := p } = s.readsBins := rfl
  rw [hreads]
  split
  · rfl
  · rename_i hr
    rw [if_neg hr] at h
    cases hservice : s.engine.service with
    | none =>
      cases horder : s.engine.order with
      | none => simpa [hservice, horder] using h
      | some o =>
        simp only [hservice, horder] at h ⊢
        exact State.orderMicro_of_bus m p h
    | some v =>
      cases v with
      | search x next => simp [hservice] at h
      | writing x changed =>
        simp only [hservice] at h ⊢
        unfold State.swapMicro at h ⊢
        split at h
        · rename_i hw
          rw [State.wbStep_of_bus m p hw]
        · cases h
        · cases h

/-- A burst that is not its transfer's last wakes nobody. -/
theorem State.wake_of_waiting {s : State} {o : Owner} (m : Sparse Byte) (p : Port)
    (hboard : o = .board → s.boardMicro = none) (hsettings : o = .settings → s.mail.settings = none)
    (hengine : o = .engine ∨ o = .cache → s.engineMicro = none) (hstatus : o = .status → s.mail.status = none) :
    State.wake { s with mem := m, port := p } o = { s with mem := m, port := p } := by
  have hwait := State.engineMicro_of_bus (s := s) m p
  cases o with
  | board => exact runMicro_none (State.boardMicro_of_bus m p (hboard rfl)) _
  | engine => exact runMicro_none (hwait (hengine (.inl rfl))) _
  | cache => exact runMicro_none (hwait (hengine (.inr rfl))) _
  | settings =>
    unfold State.wake State.settingsGo
    dsimp only
    rw [hsettings rfl]
    split <;> simp_all
  | status =>
    refine runMicro_none ?_ _
    unfold State.statusMicro
    dsimp only
    rw [hstatus rfl]
    split <;> simp_all
  | _ => rfl

/-- Settles O12. -/
theorem burstsBeginStoreAndAnswer : Obligations.BurstsBeginStoreAndAnswer := by
  refine ⟨fun s => ⟨State.serveBus_of_busy, fun h => ⟨State.serveBus_nextServed h, ?serve_frame⟩, fun h => ?free,
      fun src h => State.inProgress_of_phase h⟩, fun _ => rfl,
    fun beat a n k hb hn => ⟨add_burstLength a n hb, burstBeatCount_eq a hb hn, beatAddress_eq beat a k,
      add_beatsMoved a n k hb⟩, fun _ _ => ⟨rfl, rfl, rfl, rfl⟩, fun _ _ _ => rfl, fun src x s h hx => ?served,
    fun src x s h hx hmore hboard hsettings hengine hstatus => ?more, fun writes src s h hwrites => ?grant,
    fun src x s h hx hw hlen htop => ?stored, fun src x s h hx hsrc howner hlast => ?last⟩
  case serve_frame =>
    have hframe := s.serveBus_frame
    rwa [h] at hframe
  case free =>
    rw [State.inProgress, h]
    rfl
  case served =>
    obtain ⟨-, hphase, hlast⟩ := (s.endBurst x).wake_bus x.owner
    obtain ⟨-, hfree, hsource⟩ := s.endBurst_bus x
    refine ⟨_, exec_burstComplete h hx, ?_, State.serveBus_nextServed (hphase.trans hfree)⟩
    rw [State.serveBus_port_lastServed, hlast, hsource, h]
    rfl
  case more =>
    refine ⟨_, exec_burstComplete h hx, ?_⟩
    rw [State.endBurst_of_more hmore, State.wake_of_waiting _ _ hboard hsettings hengine hstatus]
    refine ⟨?_, fun hread => ?_, ?_⟩
    · rw [State.serveBus_port_transfers]
      rfl
    · rw [State.serveBus_mem]
      exact Transfer.store_read _ _ hread
    · exact State.eq_of_fields (by simp)
  case grant =>
    have hdue : s.port.phase.requested.isSome = true := by rw [h]; rfl
    have hgrant : s.grantBus writes =
        { s with mem := hostStores s.mem writes, port := { s.port with phase := .granted src } } := by
      rw [State.grantBus, h]
      rfl
    refine ⟨_, (congrArg Host.Outcome.next (s.whenDue_of_due _ hdue)).trans (congrArg _ hgrant), rfl, fun a ha => ?_, rfl⟩
    rw [State.byte_of_lt _ ha, State.byte_of_lt _ ha]
    exact sparseGet_hostStores writes s.mem a hwrites
  case stored =>
    obtain ⟨hmem, -, hlast⟩ := (s.endBurst x).wake_bus x.owner
    obtain ⟨hstore, -, hsource⟩ := s.endBurst_bus x
    refine ⟨_, exec_burstComplete h hx, ?_, fun a ha => ?_⟩
    · rw [State.serveBus_port_lastServed, hlast, hsource, h]
      rfl
    · rw [State.byte_of_lt _ ha, State.byte_of_lt _ ha, State.serveBus_mem, hmem, hstore]
      exact Transfer.sparseGet_store s.mem hw hlen (burstLength_le _ _ _) htop
  case last =>
    have hprog : s.inProgress = some x := by
      rw [State.inProgress_of_phase (.inr h), hx, List.find?_singleton, if_pos (decide_eq_true hsrc)]
    have hwake : ∀ t : State, t.wake x.owner = t := fun t => by rcases howner with h | h <;> rw [h] <;> rfl
    have hport : s.port.release.drop x.owner = ⟨[], .free, src⟩ := by
      simp [Port.release, Port.drop, hx, h, BusPhase.source]
    refine ⟨_, exec_burstComplete h hprog, ?_⟩
    rw [State.endBurst_of_last hlast, hwake, hport, State.serveBus_of_empty rfl]
    exact ⟨rfl, rfl, rfl, fun hread => Transfer.store_read _ _ hread⟩

/-! ### The window test (R182) -/

/-- A window covers an area that it holds whole, with an access that suffices. -/
theorem Window.covers_iff (w : Window) (write : Bool) (a n : Nat) : w.covers write a n = true ↔
    (w.access = .readWrite ∨ w.access = .read ∧ write = false) ∧ w.base ≤ a ∧ a + n ≤ w.base + w.size ∧
      a + n ≤ 2 ^ 32 := by
  have haccess : accessOk w.access write = true ↔ w.access = .readWrite ∨ w.access = .read ∧ write = false := by
    cases w.access <;> cases write <;> simp [accessOk]
  simp only [Window.covers, Bool.and_eq_true, decide_eq_true_eq, haccess, and_assoc]
  rfl

/-- Settles O14. -/
theorem windowTestGuardsEveryTransfer : Obligations.WindowTestGuardsEveryTransfer := by
  refine ⟨fun s w a n => ?test, fun s o w a n d ho hallowed => ?refused, fun s o w a n d h => ?issued⟩
  case test =>
    rw [State.allowed, List.any_eq_true]
    constructor
    · rintro ⟨v, hv, hcovers⟩
      obtain ⟨i, hi, rfl⟩ := List.mem_iff_getElem.1 hv
      exact ⟨⟨i, by simpa using hi⟩, by simpa [Vector.get_eq_getElem] using (Window.covers_iff _ w a n).1 hcovers⟩
    · rintro ⟨i, h⟩
      exact ⟨s.windows.get i, by simp [Vector.get_eq_getElem], (Window.covers_iff _ w a n).2 h⟩
  case refused =>
    have hpresent : s.present o w a n d = (s.recordFault a .window o.requester).setMail o (some .fault) :=
      if_pos ⟨ho, hallowed⟩
    rw [hpresent]
    refine ⟨?_, ?_, ?_, ?_⟩
    · simp
    · simp
    · exact (State.recordFault_hasCause ..).trans (by simp)
    · rw [requesterOf_eq]
      exact s.recordFault_fault a .window o.requester
  case issued =>
    refine if_neg ?_
    rintro ⟨hne, hnot⟩
    rcases h with h | h
    · exact hne h
    · rw [h] at hnot
      cases hnot

end Sys2Proof.Machine
end

section
/-! The hand-offs to the Watch Unit: answers, live outcomes and notices of a rack (chapter 8, 8.4). -/

namespace Sys2Proof.Machine

/-- Changes at carriers that may stand more than once in a list: the first decides, and a further one finds its work
done. -/
theorem WatchMoves.foldl_same {α : Type} {key : α → Nat} {step : State → α → State} {g : WatchRec → WatchRec}
    {named : Nat → WatchRec → RecId → Prop} {alerts : WatchRec → Prop}
    (hstep : ∀ s a, WatchMoves s (step s a) (fun j w => if j = key a then g w else w)
      (fun r => ∃ w, s.watchRec (key a) = some w ∧ named (key a) w r) (∃ w, s.watchRec (key a) = some w ∧ alerts w))
    (hg : ∀ w, g (g w) = g w) (hnamed : ∀ id w r, ¬ named id (g w) r) (halerts : ∀ w, ¬ alerts (g w)) (s : State)
    (l : List α) :
    WatchMoves s (l.foldl step s) (fun j w => if j ∈ l.map key then g w else w)
      (fun r => ∃ id ∈ l.map key, ∃ w, s.watchRec id = some w ∧ named id w r)
      (∃ id ∈ l.map key, ∃ w, s.watchRec id = some w ∧ alerts w) := by
  induction l generalizing s with
  | nil => exact (WatchMoves.refl s).congr (fun _ _ _ => by simp) (by simp) (by simp)
  | cons a l ih =>
    have hfirst := hstep s a
    have hlater : ∀ {p : Nat → WatchRec → Prop}, (∀ id w, ¬ p id (g w)) →
        ((∃ w, s.watchRec (key a) = some w ∧ p (key a) w) ∨
            (∃ id ∈ l.map key, ∃ w, (step s a).watchRec id = some w ∧ p id w) ↔
          ∃ id ∈ (a :: l).map key, ∃ w, s.watchRec id = some w ∧ p id w) := by
      intro p hp
      have hrec : ∀ id ≠ key a, (step s a).watchRec id = s.watchRec id := fun id hid => by simp [hfirst.records, hid]
      constructor
      · rintro (⟨w, hw, hpw⟩ | ⟨id, hid, w, hw, hpw⟩)
        · exact ⟨key a, .head _, w, hw, hpw⟩
        · by_cases ha : id = key a
          · subst ha
            rw [hfirst.records, Option.map_eq_some_iff] at hw
            obtain ⟨v, -, rfl⟩ := hw
            rw [if_pos rfl] at hpw
            exact absurd hpw (hp _ _)
          · exact ⟨id, .tail _ hid, w, hrec id ha ▸ hw, hpw⟩
      · rintro ⟨id, hid, w, hw, hpw⟩
        by_cases ha : id = key a
        · exact .inl ⟨w, ha ▸ hw, ha ▸ hpw⟩
        · exact .inr ⟨id, (List.mem_cons.1 hid).resolve_left ha, w, (hrec id ha).trans hw, hpw⟩
    refine (hfirst.trans (ih (step s a))).congr (fun id w _ => ?_) (fun r => ?_) ?_
    · rw [List.map_cons]
      by_cases ha : id = key a <;> by_cases hl : id ∈ l.map key <;> simp only [ha, hl, hg, List.mem_cons, true_or,
        or_true, or_self, if_true, if_false, ite_self]
    · exact hlater (p := fun id w => named id w r) fun id w => hnamed id w r
    · exact hlater (p := fun _ w => alerts w) fun _ w => halerts w

/-- A change of the Watch Unit's records without an alert leaves the causes. -/
theorem WatchMoves.causes_of_quiet {s t : State} {g : Nat → WatchRec → WatchRec} {named : RecId → Prop}
    (h : WatchMoves s t g named False) : t.causes = s.causes := by
  refine BitVec.eq_of_getLsbD_eq fun i hi => ?_
  obtain ⟨c, rfl⟩ := exists_causeIndex_eq hi
  exact Bool.eq_iff_iff.2 ((h.causes c).trans (by simp [State.hasCause]))

/-! ### The oldest answer, and the oldest live outcome -/

theorem exec_swapAnswer {a : SwapAnswer} {rest : List SwapAnswer} {s : State} (h : s.swapAnswers = a :: rest) :
    exec .swapAnswer s = .next (State.takeAnswer { s with swapAnswers := rest } a) := by
  refine congrArg Host.Outcome.next ((s.whenDue_of_due _ (by simp [h])).trans ?_)
  unfold State.takeOldest
  rw [h]

/-- Settles O48: an answer is one change of its carrier's record, as `takeAnswer_moves` states it. -/
theorem swapAnswerActsByState : Obligations.SwapAnswerActsByState := by
  intro a rest s hans _
  have hmoves := State.takeAnswer_moves { s with swapAnswers := rest } a
  have hrec : ∀ j, State.watchRec { s with swapAnswers := rest } j = s.watchRec j := fun _ => rfl
  simp only [hrec] at hmoves
  refine ⟨fun hnone => ?_, fun w hw => ⟨_, exec_swapAnswer hans, ?_, ?_, fun j hj => ?_, fun c => ?_, ?_, hmoves.rest, ?_⟩⟩
  · rw [exec_swapAnswer hans]
    unfold State.takeAnswer
    rw [show State.watchRec { s with swapAnswers := rest } a.id = none from hnone]
  · rw [hmoves.frame]
  · rw [hmoves.records, show State.watchRec { s with swapAnswers := rest } a.id = some w from hw, Option.map_some,
      if_pos rfl]
    rfl
  · rw [hmoves.records]
    simp only [if_neg hj, Option.map_id']
    rfl
  · rw [Bool.eq_iff_iff, hmoves.causes]
    simp [hw, State.hasCause]
  · exact (hmoves.marks.of_eq rfl rfl).congr fun r => by simp [hw]
  · rw [hmoves.frame]

theorem exec_liveTuneOutcome {k : Fin 4} {m : OutcomeMsg} {rest : List OutcomeMsg} {s : State}
    (h : (s.line k).liveOutcomes = m :: rest) :
    exec (.liveTuneOutcome k) s = .next ((s.onLine k fun l => { l with liveOutcomes := rest }).liveOutcome m) := by
  refine congrArg Host.Outcome.next ((s.whenDue_of_due _ (by simp [h])).trans ?_)
  unfold State.takeLiveOutcome
  rw [h]

/-- The state in which a carrier's retuning ends (R152, R153). -/
def outcomeState (outcome : TuneOutcome) (settle : Nat) : WatchState :=
  if outcome = .applied then (if settle = 0 then .quiet else .settling) else .held

/-- A live outcome without answers waiting: a carrier in RETUNING at its code goes on to one state. -/
theorem State.liveOutcome_of_nil {s : State} {m : OutcomeMsg} {w : WatchRec} {e : AirEntry} (hans : s.swapAnswers = [])
    (hw : s.watchRec m.id = some w) (he : s.airEntry m.id = some e) :
    s.liveOutcome m = if w.state = .retuning ∧ e.code = m.code then
      s.watchTo m.id (outcomeState m.outcome s.watch.params.settle)
        (if m.outcome = .applied then s.watch.params.settle else 0) else s := by
  unfold State.liveOutcome
  simp only [State.takeAnswers_of_nil hans, hw, he, State.settle, outcomeState]
  by_cases ho : m.outcome = .applied <;> by_cases hs : s.watch.params.settle = 0 <;> simp [ho, hs]

/-- A live outcome of a carrier that is not in RETUNING at that code is ignored. -/
theorem State.liveOutcome_ignored {s : State} {m : OutcomeMsg} (hans : s.swapAnswers = [])
    (h : ∀ w e, s.watchRec m.id = some w → s.airEntry m.id = some e → w.state ≠ .retuning ∨ e.code ≠ m.code) :
    s.liveOutcome m = s := by
  cases hw : s.watchRec m.id with
  | none => simp [State.liveOutcome, State.takeAnswers_of_nil hans, hw]
  | some w =>
    cases he : s.airEntry m.id with
    | none => simp [State.liveOutcome, State.takeAnswers_of_nil hans, hw, he]
    | some e =>
      rw [State.liveOutcome_of_nil hans hw he, if_neg]
      rintro ⟨hst, hcode⟩
      exact (h w e hw he).elim (· hst) (· hcode)

/-- Settles O49: the outcome takes its carrier to one state, as `watchTo_moves` states it. -/
theorem liveOutcomeEndsRetuning : Obligations.LiveOutcomeEndsRetuning := by
  intro k m rest s _ hans hline
  refine ⟨fun h => ?_, fun w e hw he hst hcode => ?_⟩
  · rw [exec_liveTuneOutcome hline, State.liveOutcome_ignored (s := s.onLine k _) hans h]
  · have hmoves := State.watchTo_moves (s.onLine k fun l => { l with liveOutcomes := rest }) m.id
      (outcomeState m.outcome s.watch.params.settle) (if m.outcome = .applied then s.watch.params.settle else 0)
    have hrec : ∀ j, State.watchRec (s.onLine k fun l => { l with liveOutcomes := rest }) j = s.watchRec j := fun _ => rfl
    simp only [hrec, hw, Option.some.injEq, exists_eq_left', hst] at hmoves
    have hexec : exec (.liveTuneOutcome k) s = .next (State.watchTo (s.onLine k fun l => { l with liveOutcomes := rest })
        m.id (outcomeState m.outcome s.watch.params.settle) (if m.outcome = .applied then s.watch.params.settle else 0)) := by
      rw [exec_liveTuneOutcome hline, State.liveOutcome_of_nil (s := s.onLine k _) (w := w) (e := e) hans hw he, if_pos ⟨hst, hcode⟩]
      rfl
    have hleaves : WatchState.retuning ≠ outcomeState m.outcome s.watch.params.settle := by
      unfold outcomeState
      split
      · split <;> decide
      · decide
    have halert : (outcomeState m.outcome s.watch.params.settle).isAlert = true ↔ m.outcome ≠ .applied := by
      unfold outcomeState
      split
      · rename_i ho
        split <;> simp [ho, WatchState.isAlert]
      · rename_i ho
        simp [ho, WatchState.isAlert]
    refine ⟨_, hexec, ?_, fun j hj => ?_, fun c => ?_, ?_, hmoves.rest, ?_, ?_⟩
    · rw [hmoves.records, hrec, hw, Option.map_some, if_pos rfl]
      unfold outcomeState
      by_cases ho : m.outcome = .applied <;> by_cases hs : s.watch.params.settle = 0 <;> simp [ho, hs]
    · rw [hmoves.records, hrec]
      simp only [if_neg hj, Option.map_id']
    · rw [Bool.eq_iff_iff, hmoves.causes]
      simp [halert, hleaves, State.hasCause]
    · refine (hmoves.marks.of_eq rfl rfl).congr fun r => ?_
      simp only [ne_eq, hleaves, not_false_eq_true, true_and, halert]
      simp [WatchState.isAlert]
    · rw [hmoves.frame]
    · rw [hmoves.frame]
      rfl

/-! ### Notices of a rack (R156, R157) -/

/-- A change of watch state goes on beside the engine. -/
theorem State.watchTo_engine (s : State) (g : Engine) (id : Nat) (new : WatchState) (n : Nat) :
    State.watchTo { s with engine := g } id new n = { s.watchTo id new n with engine := g } := by
  obtain ⟨hwatch, hstatus, hcauses⟩ :=
    State.watchView_eq_iff.1 (State.watchTo_watchView (s := { s with engine := g }) (t := s) rfl id new n)
  rw [(State.watchTo_moves { s with engine := g } id new n).frame, hwatch, hstatus, hcauses,
    (s.watchTo_moves id new n).frame]

/-- A carrier in SWAP_WAIT. -/
def State.waitsForSwap (s : State) (id : Nat) : Bool := (s.watchRec id).any fun w => decide (w.state = .swapWait)

/-- The engine without the requests of some carriers in SWAP_WAIT. -/
def State.unlistWaiting (s : State) (ids : List Nat) : Engine :=
  { s.engine with requests := s.engine.requests.filter fun x => !(decide (x ∈ ids) && s.waitsForSwap x) }

/-- A BLIND notice at one carrier: its change of watch state, and its request gone if it was in SWAP_WAIT (R156). -/
theorem State.blindOne_eq (s : State) (e : AirEntry) :
    s.blindOne e = { s.watchTo e.id .blind 0 with engine := s.unlistWaiting [e.id] } := by
  have hkeep : s.waitsForSwap e.id = false → s.unlistWaiting [e.id] = s.engine := fun hst => by
    have hall : s.engine.requests.filter (fun x => !(decide (x ∈ [e.id]) && s.waitsForSwap x)) = s.engine.requests := by
      refine List.filter_eq_self.2 fun x _ => ?_
      by_cases hx : x = e.id <;> simp [hx, hst]
    rw [State.unlistWaiting, hall]
  have hengine : (s.watchTo e.id .blind 0).engine = s.engine := by rw [(s.watchTo_moves e.id .blind 0).frame]
  unfold State.blindOne
  cases hw : s.watchRec e.id with
  | none =>
    rw [hkeep (by simp [State.waitsForSwap, hw])]
    simp [State.watchTo, hw]
  | some w =>
    dsimp only
    split
    · rename_i hst
      have hgone : s.unlistWaiting [e.id] = { s.engine with requests := s.engine.requests.filter fun x => x != e.id } := by
        refine congrArg (fun f => { s.engine with requests := s.engine.requests.filter f }) (funext fun x => ?_)
        by_cases hx : x = e.id <;> simp [hx, State.waitsForSwap, hw, hst]
      rw [hgone]
      exact s.watchTo_engine _ _ _ _
    · rename_i hst
      rw [hkeep (by simp [State.waitsForSwap, hw, hst]), ← hengine]

theorem State.foldl_watchTo_engine (l : List Nat) (new : WatchState) (s : State) (g : Engine) :
    l.foldl (fun t id => t.watchTo id new 0) { s with engine := g } =
      { l.foldl (fun t id => t.watchTo id new 0) s with engine := g } := by
  induction l generalizing s with
  | nil => rfl
  | cons a l ih =>
    rw [List.foldl_cons, State.watchTo_engine, ih]
    rfl

theorem State.foldl_blindOne (l : List AirEntry) (s : State) : l.foldl State.blindOne s =
    { (l.map AirEntry.id).foldl (fun t id => t.watchTo id .blind 0) s with
      engine := s.unlistWaiting (l.map AirEntry.id) } := by
  induction l generalizing s with
  | nil => simp [State.unlistWaiting]
  | cons e l ih =>
    have hengine : State.unlistWaiting { s.watchTo e.id .blind 0 with engine := s.unlistWaiting [e.id] }
        (l.map AirEntry.id) = s.unlistWaiting ((e :: l).map AirEntry.id) := by
      refine congrArg (fun r => { s.engine with requests := r }) ?_
      rw [State.unlistWaiting, List.filter_filter]
      refine List.filter_congr fun x _ => ?_
      have hrec : ∀ g, State.waitsForSwap { s.watchTo e.id .blind 0 with engine := g } x =
          (decide (x ≠ e.id) && s.waitsForSwap x) := fun g => by
        have h := (s.watchTo_moves e.id .blind 0).records x
        rw [State.waitsForSwap, show State.watchRec { s.watchTo e.id .blind 0 with engine := g } x =
          (s.watchTo e.id .blind 0).watchRec x from rfl, h]
        by_cases hx : x = e.id <;> cases hw : s.watchRec x <;> simp [hx, State.waitsForSwap, hw]
      simp only [hrec]
      by_cases hx : x = e.id <;> simp [hx]
    rw [List.foldl_cons, State.blindOne_eq, ih, State.foldl_watchTo_engine, hengine]
    rfl

/-- What a BLIND notice brings about beside the Swap Request List. -/
theorem State.foldl_blind_moves (s : State) (l : List Nat) :
    WatchMoves s (l.foldl (fun t id => t.watchTo id .blind 0) s)
      (fun id w => if id ∈ l then { w with state := .blind, run := 0, settle := 0 } else w)
      (fun r => ∃ id ∈ l, ∃ w, s.watchRec id = some w ∧ w.state ≠ .blind ∧
        (r = .carrier id ∨ r = .stage (id / 256) ∧ w.state.isAlert = true)) False :=
  (WatchMoves.foldl_same (key := id) (alerts := fun _ => False)
    (g := fun w => { w with state := .blind, run := 0, settle := 0 })
    (named := fun id w r => w.state ≠ .blind ∧ (r = .carrier id ∨ r = .stage (id / 256) ∧ w.state.isAlert = true))
    (fun t id => (t.watchTo_moves id .blind 0).congr (fun _ _ _ => rfl) (by simp [WatchState.isAlert])
      (by simp [WatchState.isAlert])) (fun _ => rfl) (by simp) (by simp) s l).congr
    (fun _ _ _ => by rw [List.map_id]) (fun _ => by rw [List.map_id]) (by simp)

theorem State.unblindOne_moves (s : State) (e : AirEntry) :
    WatchMoves s (s.unblindOne e)
      (fun j w => if j = e.id then (if w.state = .blind then { w with state := .quiet, run := 0, settle := 0 } else w) else w)
      (fun r => ∃ w, s.watchRec e.id = some w ∧ w.state = .blind ∧ r = .carrier e.id)
      (∃ w, s.watchRec e.id = some w ∧ False) := by
  unfold State.unblindOne
  cases hw : s.watchRec e.id with
  | none =>
    refine (WatchMoves.refl s).congr (fun j w hj => ?_) (by simp) (by simp)
    rw [if_neg]
    rintro rfl
    rw [hw] at hj
    cases hj
  | some w =>
    have hsame : ∀ j v, s.watchRec j = some v → j = e.id → v = w := by
      rintro j v hv rfl
      rw [hw] at hv
      exact (Option.some.inj hv).symm
    dsimp only
    split
    · rename_i hst
      refine (s.watchTo_moves e.id .quiet 0).congr (fun j v hv => ?_) (by simp [hw, hst, WatchState.isAlert])
        (by simp [WatchState.isAlert])
      by_cases hj : j = e.id
      · rw [if_pos hj, if_pos hj, hsame j v hv hj, if_pos hst]
      · rw [if_neg hj, if_neg hj]
    · rename_i hst
      refine (WatchMoves.refl s).congr (fun j v hv => ?_) (by simp [hst]) (by simp)
      by_cases hj : j = e.id
      · rw [if_pos hj, hsame j v hv hj, if_neg hst]
      · rw [if_neg hj]

/-- What an UNBLIND notice brings about. -/
theorem State.foldl_unblind_moves (s : State) (l : List AirEntry) :
    WatchMoves s (l.foldl State.unblindOne s)
      (fun id w => if id ∈ l.map AirEntry.id then
        (if w.state = .blind then { w with state := .quiet, run := 0, settle := 0 } else w) else w)
      (fun r => ∃ id ∈ l.map AirEntry.id, ∃ w, s.watchRec id = some w ∧ w.state = .blind ∧ r = .carrier id) False :=
  (WatchMoves.foldl_same (key := AirEntry.id) (alerts := fun _ => False)
    (g := fun w => if w.state = .blind then { w with state := .quiet, run := 0, settle := 0 } else w)
    (named := fun id w r => w.state = .blind ∧ r = .carrier id)
    State.unblindOne_moves (fun w => by by_cases h : w.state = .blind <;> simp [h])
    (fun id w r => by by_cases h : w.state = .blind <;> simp [h]) (by simp) s l).congr
    (fun _ _ _ => rfl) (fun _ => Iff.rfl) (by simp)

/-- The watched carriers of a rack. -/
theorem mem_watched_atRack {s : State} {k : Fin 4} {addr id : Nat} :
    id ∈ (s.air.filter fun e => e.isWatched && e.atRack k addr).map AirEntry.id ↔
      ∃ e ∈ s.air, e.id = id ∧ e.air = .onAir ∧ e.kind = .mic ∧ e.watched = true ∧
        ∃ x, e.rack = some x ∧ x.line = k ∧ x.addr = addr := by
  simp only [List.mem_map, List.mem_filter, Bool.and_eq_true, AirEntry.isWatched, AirEntry.atRack, decide_eq_true_eq,
    Option.any_eq_true, Option.isSome_iff_exists]
  constructor
  · rintro ⟨e, ⟨he, ⟨⟨⟨hair, hkind⟩, hwatched⟩, -⟩, x, hx, hline⟩, hid⟩
    exact ⟨e, he, hid, hair, hkind, hwatched, x, hx, hline⟩
  · rintro ⟨e, he, hid, hair, hkind, hwatched, x, hx, hline⟩
    exact ⟨e, ⟨he, ⟨⟨⟨hair, hkind⟩, hwatched⟩, x, hx⟩, x, hx, hline⟩, hid⟩

/-- Settles O50: each notice is a change of the records of the rack's watched carriers, with the requests of those in
SWAP_WAIT taken off the list. -/
theorem blindNoticesMoveTheRacksCarriers : Obligations.BlindNoticesMoveTheRacksCarriers := by
  intro k addr rest s _ served goes
  have hserved : ∀ id, id ∈ (s.air.filter fun e => e.isWatched && e.atRack k addr).map AirEntry.id ↔ served id :=
    fun id => mem_watched_atRack
  generalize hl : (s.air.filter fun e => e.isWatched && e.atRack k addr) = l at hserved
  generalize hu : (s.onLine k fun l => { l with notices := rest }) = u
  have hrec : ∀ id, u.watchRec id = s.watchRec id := fun id => by rw [← hu]; rfl
  have hair : (u.air.filter fun e => e.isWatched && e.atRack k addr) = l := by rw [← hl, ← hu]; simp
  have hengine : u.engine = s.engine := by rw [← hu]; rfl
  have hstatus : u.status = s.status := by rw [← hu]; rfl
  have hwatch : u.watch = s.watch := by rw [← hu]; rfl
  refine ⟨fun hnotice => ?_, fun hnotice => ?_⟩
  · have hexec : exec (.blindNotice k) s = .next (l.foldl State.blindOne u) := by
      refine congrArg Host.Outcome.next ?_
      rw [hnotice, ← hair, ← hu]
      rfl
    have hmoves := u.foldl_blind_moves (l.map AirEntry.id)
    rw [State.foldl_blindOne] at hexec
    have hwaits : ∀ id, u.waitsForSwap id = true ↔ ∃ w, s.watchRec id = some w ∧ w.state = .swapWait := fun id => by
      rw [State.waitsForSwap, hrec, Option.any_eq_true]
      simp
    refine ⟨_, hexec, fun id w hid hw => ?_, fun id hid => ?_, fun id => ?_, ?_, ?_, ?_, ?_, ?_, ?_⟩
    · refine (hmoves.records id).trans ?_
      rw [hrec, hw, Option.map_some, if_pos ((hserved id).2 hid)]
    · refine (hmoves.records id).trans ?_
      rw [hrec]
      simp only [if_neg fun h => hid ((hserved id).1 h), Option.map_id']
    · refine List.mem_filter.trans ?_
      rw [hengine, Bool.not_eq_true', ← Bool.not_eq_true, Bool.and_eq_true, decide_eq_true_eq, hserved, hwaits]
    · rw [State.unlistWaiting, hengine]
    · rw [State.unlistWaiting, hengine]
      exact List.filter_sublist
    · refine (hmoves.marks.of_eq hstatus.symm rfl).congr fun r => ?_
      simp only [hserved, hrec, goes]
      constructor
      · rintro ⟨id, hid, w, hw, hst, hr⟩
        refine ⟨id, hr.imp (fun h => ⟨h, hid, w, hw, hst⟩) fun ⟨h, ha⟩ => ⟨h, hid, w, hw, ?_⟩⟩
        revert ha
        cases w.state <;> simp [WatchState.isAlert]
      · rintro ⟨id, ⟨hr, hid, w, hw, hst⟩ | ⟨hr, hid, w, hw, hst⟩⟩
        · exact ⟨id, hid, w, hw, hst, .inl hr⟩
        · refine ⟨id, hid, w, hw, ?_, .inr ⟨hr, ?_⟩⟩ <;> rcases hst with h | h <;> simp [h, WatchState.isAlert]
    · rw [← hwatch]
      exact hmoves.rest
    · rw [hmoves.frame]
    · rw [hmoves.frame, hmoves.causes_of_quiet, ← hu]
      exact State.eq_of_fields (by simp)
  · have hexec : exec (.unblindNotice k) s = .next (l.foldl State.unblindOne u) := by
      refine congrArg Host.Outcome.next ?_
      rw [hnotice, ← hair, ← hu]
      rfl
    have hmoves := u.foldl_unblind_moves l
    refine ⟨_, hexec, fun id w hid hw => ?_, fun id hid => ?_, ?_, ?_, ?_, ?_⟩
    · rw [hmoves.records, hrec, hw, Option.map_some, if_pos ((hserved id).2 hid)]
    · rw [hmoves.records, hrec]
      simp only [if_neg fun h => hid ((hserved id).1 h), Option.map_id']
    · refine (hmoves.marks.of_eq hstatus.symm rfl).congr fun r => ?_
      simp only [hserved, hrec, goes]
      constructor
      · rintro ⟨id, hid, w, hw, hst, hr⟩
        exact ⟨id, hr, hid, w, hw, hst⟩
      · rintro ⟨id, hr, hid, w, hw, hst⟩
        exact ⟨id, hid, w, hw, hst, hr⟩
    · rw [← hwatch]
      exact hmoves.rest
    · rw [hmoves.frame]
    · rw [hmoves.frame, hmoves.causes_of_quiet, ← hu]
      exact State.eq_of_fields (by simp)

end Sys2Proof.Machine
end

section
/-! A faulted burst, and the settings destination (10.2, 10.6). -/

namespace Sys2Proof.Machine

/-! ### A faulted burst (R184) -/

theorem exec_transferTimeout_of_granted {s : State} {src : Source} {x : Transfer} (k : Nat)
    (h : s.port.phase = .granted src) (hx : s.inProgress = some x) :
    exec (.transferTimeout k) s =
      .next ((s.faultBurst x (min k (s.lastBeat x)) x.addr .timeout).wake x.owner).serveBus := by
  refine congrArg Host.Outcome.next ?_
  rw [h, hx]

theorem exec_transferTimeout_of_requesting {s : State} {src : Source} {x : Transfer} (k : Nat)
    (h : s.port.phase = .requesting src) (hx : s.inProgress = some x) :
    exec (.transferTimeout k) s = .next ((s.faultBurst x 0 x.addr .timeout).wake x.owner).serveBus := by
  refine congrArg Host.Outcome.next ?_
  rw [h, hx]

theorem exec_busError {s : State} {src : Source} {x : Transfer} (k : Nat) (h : s.port.phase = .granted src)
    (hx : s.inProgress = some x) :
    exec (.busError k) s = .next ((s.faultBurst x (min k (s.lastBeat x))
      (beatAddress s.beatBytes x.addr (min k (s.lastBeat x))) .busError).wake x.owner).serveBus := by
  refine congrArg Host.Outcome.next ?_
  rw [h, hx]

/-- The only transfer of a port, of the source that the burst serves, is the one in progress. -/
theorem State.inProgress_single {s : State} {src : Source} {x : Transfer} (h : s.port.phase = .granted src)
    (hx : s.port.transfers = [x]) (hsrc : x.owner.source = src) : s.inProgress = some x := by
  rw [State.inProgress_of_phase (.inr h), hx, List.find?_singleton, if_pos (decide_eq_true (by rw [sourceOf_eq]; exact hsrc))]

/-- The port once its only transfer has left it. -/
theorem Port.release_drop_single {p : Port} {src : Source} {x : Transfer} (h : p.phase = .granted src)
    (hx : p.transfers = [x]) : p.release.drop x.owner = ⟨[], .free, src⟩ := by
  simp [Port.release, Port.drop, hx, h, BusPhase.source]

/-- A faulted read, the only transfer of the port: the port is free, the fault recorded and told to its owner. -/
theorem State.faultBurst_single {s : State} {src : Source} {x : Transfer} (h : s.port.phase = .granted src)
    (hx : s.port.transfers = [x]) (hread : x.write = false) (k addr : Nat) (kind : FaultKind) :
    s.faultBurst x k addr kind =
      (State.recordFault { s with port := ⟨[], .free, src⟩ } addr kind x.owner.requester).setMail x.owner (some .fault) := by
  unfold State.faultBurst
  dsimp only
  rw [Port.release_drop_single h hx, Transfer.store_read _ _ hread]

/-! ### The settings destination (R192) -/

/-- The block has been read, whatever its check. -/
theorem State.settingsGo_of_data {s : State} {slot : Nat} {bs : List Byte} (h : s.settings.job = .reading slot)
    (hm : s.mail.settings = some (.ok bs)) :
    s.settingsGo = (s.setMail .settings none).setJob (.writing slot bs) := by
  unfold State.settingsGo
  rw [h, hm]

/-- A fault on the read ends the order FAILED MEMORY. -/
theorem State.settingsGo_of_fault {s : State} {slot : Nat} (h : s.settings.job = .reading slot) :
    (s.setMail .settings (some .fault)).settingsGo = { s with
      settings := { s.settings with job := .idle }
      board := { s.board with completions := s.board.completions ++ [⟨slot, true, .memory, 0, 0⟩] }
      mail := { s.mail with settings := none } } := by
  unfold State.settingsGo
  rw [show (s.setMail .settings (some .fault)).settings.job = .reading slot from h]
  rfl

/-- Settles O15. -/
theorem settingsWriteReplacesBlock : Obligations.SettingsWriteReplacesBlock := by
  refine ⟨fun slot block s h => ?_, fun slot x s hjob hphase hx howner hread hlast => ?_, fun slot b s hdenied => ?_⟩
  · change execSettingsWriteDone s = _
    unfold execSettingsWriteDone
    rw [h]
    refine congrArg Host.Outcome.next (State.eq_of_fields ?_)
    simp [State.settingsEnds, State.setJob, settingsPass, byteSum, Config.settingsSum]
  · have hprog := State.inProgress_single hphase hx (by rw [howner]; rfl)
    intro failed
    refine ⟨?_, fun k c hc => ?_⟩
    · have hgo := State.settingsGo_of_data (s := s.endBurst x) (slot := slot) (bs := x.data ++ memRead s.mem x.addr x.left)
        (by rw [State.endBurst_of_last hlast]; exact hjob)
        (by rw [State.endBurst_of_last hlast, howner, hread]; rfl)
      have hexec := exec_burstComplete hphase hprog
      rw [howner, show (s.endBurst x).wake .settings = (s.endBurst x).settingsGo from rfl, hgo,
        State.endBurst_of_last hlast, Port.release_drop_single hphase hx, Transfer.store_read _ _ hread, howner,
        State.serveBus_of_empty rfl] at hexec
      exact hexec
    · have hexec : ∃ addr kind, exec c s = .next (State.serveBus (State.settingsGo
          ((State.recordFault { s with port := ⟨[], .free, .board⟩ } addr kind Owner.settings.requester).setMail
            .settings (some .fault)))) := by
        rcases hc with rfl | rfl
        · refine ⟨x.addr, .timeout, ?_⟩
          rw [exec_transferTimeout_of_granted k hphase hprog, State.faultBurst_single hphase hx hread, howner]
          rfl
        · refine ⟨beatAddress s.beatBytes x.addr (min k (s.lastBeat x)), .busError, ?_⟩
          rw [exec_busError k hphase hprog, State.faultBurst_single hphase hx hread, howner]
          rfl
      obtain ⟨addr, kind, hexec⟩ := hexec
      have hcauses := State.recordFault_hasCause { s with port := ⟨[], .free, .board⟩ } addr kind Owner.settings.requester
      have hframe : ∀ u, u = State.recordFault { s with port := ⟨[], .free, .board⟩ } addr kind
          Owner.settings.requester → u.settings = s.settings ∧ u.board = s.board ∧ u.port = ⟨[], .free, .board⟩ ∧
            u.mail = s.mail ∧
            { u with settings := s.settings, board := s.board, port := s.port, mail := s.mail, causes := s.causes
                     fault := s.fault } = s := by
        rintro u rfl
        exact ⟨by simp, by simp, by simp, by simp, State.eq_of_fields (by simp)⟩
      generalize State.recordFault .. = u at hexec hcauses hframe
      obtain ⟨hsettings, hboard, hport, hmail, hrest⟩ := hframe u rfl
      rw [State.settingsGo_of_fault (by rw [hsettings]; exact hjob), State.serveBus_of_empty (by rw [hport])] at hexec
      exact ⟨_, hexec, by rw [hsettings], by rw [hboard], hport, by rw [hmail], hcauses, hrest⟩
  · have htake : s.settingsTake slot b = ((s.setJob (.reading slot)).recordFault b.listA .window
        Owner.settings.requester).setMail .settings (some .fault) := if_pos ⟨by decide, hdenied⟩
    have hcauses := (s.setJob (.reading slot)).recordFault_hasCause b.listA .window Owner.settings.requester
    have hframe : ∀ u, u = (s.setJob (.reading slot)).recordFault b.listA .window Owner.settings.requester →
        u.settings = { s.settings with job := .reading slot } ∧ u.board = s.board ∧
          { u with settings := s.settings, board := s.board, mail := s.mail, causes := s.causes
                   fault := s.fault } = s := by
      rintro u rfl
      exact ⟨by simp, by simp, State.eq_of_fields (by simp)⟩
    generalize State.recordFault .. = u at htake hcauses hframe
    obtain ⟨hsettings, hboard, hrest⟩ := hframe u rfl
    rw [htake, State.settingsGo_of_fault (by rw [hsettings])]
    exact ⟨_, rfl, by rw [hsettings], by rw [hboard], hcauses, hrest⟩

end Sys2Proof.Machine
end

section
/-! The Sweep Unit: what each of its commands does with a point and with a pass (chapter 6). -/

namespace Sys2Proof.Machine

/-! ### Transfers that the windows permit -/

/-- A transfer that a window covers is issued. -/
theorem State.present_of_allowed {s : State} {write : Bool} {addr len : Nat} (o : Owner) (data : List Byte)
    (h : s.allowed write addr len = true) : s.present o write addr len data =
      { s with port := { s.port with transfers := s.port.transfers ++ [⟨o, write, addr, len, data⟩] } } :=
  if_neg fun hn => by simp [h] at hn

theorem State.presentWrite_of_allowed {s : State} {addr n : Nat} {data : List Byte} (o : Owner) (hn : data.length = n)
    (h : s.allowed true addr n = true) : s.presentWrite o addr data =
      { s with port := { s.port with transfers := s.port.transfers ++ [⟨o, true, addr, n, data⟩] } } := by
  subst hn
  exact State.present_of_allowed o data h

/-- The window test rests on the windows alone. -/
theorem State.allowed_congr {s t : State} (h : t.windows = s.windows) (write : Bool) (addr len : Nat) :
    t.allowed write addr len = s.allowed write addr len := by
  rw [State.allowed, State.allowed, h]

/-! ### The take of an order (R109 to R111) -/

theorem SweepOrder.sound_iff (o : SweepOrder) : o.sound = true ↔
    o.first ≤ 8959 ∧ o.last ≤ 8959 ∧ o.first ≤ o.last ∧ (o.last - o.first) / o.step + 1 ≤ o.capacity := by
  rw [SweepOrder.sound, Bool.and_eq_true, Bool.and_eq_true, Bool.and_eq_true, decide_eq_true_eq, decide_eq_true_eq,
    decide_eq_true_eq, decide_eq_true_eq, and_assoc, and_assoc, Config.codes, Nat.lt_succ_iff, Nat.lt_succ_iff]
  rfl

/-- The fields of an order as decoded (R109). -/
theorem decodeSweep_eq (slot addr : Nat) (b : OrderBody) : decodeSweep slot addr b =
    { slot := slot, slotAddr := addr, first := b.p0 % 65536, last := b.p0 / 65536 % 65536
      step := if b.p1 % 256 = 0 then 1 else min (b.p1 % 256) 64, dwell := max 1 (b.p1 / 256 % 256)
      passes := b.p1 / 65536 % 256, lockLimit := max 1 (b.p2 % 256), threshold := min 200 (b.p3 % 256)
      buffer := b.result, capacity := b.capacity } := by
  simp [decodeSweep, lowHalf, highHalf, paramByte, readStep]

/-- Settles O38. -/
theorem sweepTakeChecksFields : Obligations.SweepTakeChecksFields := by
  intro slot b s first last step points ok
  have hdecoded := decodeSweep_eq slot (s.slotAddr slot) b
  have hsound : (decodeSweep slot (s.slotAddr slot) b).sound = true ↔ ok := by
    rw [SweepOrder.sound_iff, hdecoded]
  constructor
  · intro hok
    refine (if_pos (hsound.2 hok)).trans ?_
    rw [hdecoded]
    rfl
  · intro hbad
    refine (if_neg fun h => hbad (hsound.1 h)).trans ?_
    rw [hdecoded]
    rfl

/-! ### The tuner word (R112) -/

/-- The wave's first level has CLK and LATCH low. -/
theorem tunerWave_eq_cons (w : BitVec 16) : ∃ rest, tunerWave w = ⟨false, w.getLsbD 15, false⟩ :: rest := ⟨_, rfl⟩

/-- The tuner takes the word of a wave, whatever the line's levels before it. -/
theorem tunerTakes_tunerWave (l : TunerLine) (v : Option (BitVec 16)) (w : BitVec 16) :
    tunerTakes l v (tunerWave w) = ⟨⟨false, w.getLsbD 0, false⟩, w, some w⟩ := by
  have hlow : ∃ v', tunerTakes l v (tunerWave w) = tunerTakes { l with latch := false } v' (tunerWave w) := by
    obtain ⟨rest, hw⟩ := tunerWave_eq_cons w
    refine ⟨if l.latch then some 0 else v, ?_⟩
    cases hl : l.latch <;> simp [tunerTakes, hw, Tuner.sees, hl]
  obtain ⟨v', hlow⟩ := hlow
  rw [hlow, tunerTakes_wave _ _ _ rfl]

/-- The levels of the wave by their places. -/
theorem tunerWave_getElem (w : BitVec 16) : (tunerWave w).length = 35 ∧
    (∀ i < 16, (tunerWave w)[2 * i]? = some ⟨false, w.getLsbD (15 - i), false⟩ ∧
      (tunerWave w)[2 * i + 1]? = some ⟨true, w.getLsbD (15 - i), false⟩) ∧
    (∀ i, (i = 32 ∨ i = 33) → (tunerWave w)[i]? = some ⟨false, w.getLsbD 0, true⟩) ∧
    (tunerWave w)[34]? = some ⟨false, w.getLsbD 0, false⟩ := by
  refine ⟨rfl, fun i hi => ?_, ?_, rfl⟩
  · interval_cases i <;> exact ⟨rfl, rfl⟩
  · rintro i (rfl | rfl) <;> rfl

/-! ### One point -/

theorem State.sweepAt_of_pos {s : State} {o : SweepOrder} {p : SweepPos} (f : State → SweepOrder → SweepCount → State)
    (ho : s.sweep.order = some o) (hp : s.sweep.pos = p) : s.sweepAt p f = f s o s.sweep.count := by
  unfold State.sweepAt
  rw [ho]
  exact if_pos hp

theorem State.sweepMail_of_pos {s : State} {o : SweepOrder} {p : SweepPos} {a : Answer}
    (f : State → SweepOrder → SweepCount → Answer → State) (ho : s.sweep.order = some o) (hp : s.sweep.pos = p)
    (ha : s.mail.sweep = some a) : s.sweepMail p f = f (s.setMail .sweep none) o s.sweep.count a := by
  unfold State.sweepMail
  rw [ha]
  exact State.sweepAt_of_pos _ ho hp

/-- The byte of a point is presented at its place in the buffer. -/
theorem State.storePoint_of_allowed {s : State} {o : SweepOrder} {c : SweepCount} (level : Nat) (failed : Bool)
    (h : s.allowed true (o.buffer + c.index) 1 = true) : s.storePoint o c level failed = { s with
      sweep := { s.sweep with count := { c with level := level, lockFailed := failed }, pos := .bufferWait }
      port := { s.port with
        transfers := s.port.transfers ++ [⟨.sweep, true, o.buffer + c.index, 1, [BitVec.ofNat 8 level]⟩] } } :=
  State.present_of_allowed (s := s.sweepTo { c with level := level, lockFailed := failed } .bufferWait) .sweep _ h

theorem levelOf_eq (r : BitVec 10) : levelOf r = if 800 ≤ r.toNat then 200 else r.toNat / 4 := by
  unfold levelOf
  split <;> omega

/-- Settles O39. -/
theorem sweepPointFollowsItsStates : Obligations.SweepPointFollowsItsStates := by
  refine ⟨tunerWave_getElem, fun o s ho => ?_⟩
  intro code
  refine ⟨fun hp => ?word, fun hp => ?lock, fun hp => ?dwell, fun hallowed => ?_⟩
  case word =>
    refine congrArg Host.Outcome.next ((State.sweepAt_of_pos _ ho hp).trans ?_)
    have hbit : (BitVec.ofNat 16 code).getLsbD 0 = decide (code % 2 = 1) := by
      rw [BitVec.getLsbD_ofNat]
      simp [Nat.testBit_zero]
    simp only [tunerTakes_tunerWave, ho, ← hbit]
    rfl
  case lock =>
    refine congrArg Host.Outcome.next ((State.sweepAt_of_pos _ ho hp).trans ?_)
    rfl
  case dwell =>
    refine congrArg (Host.Outcome.next ∘ State.serveBus) ((State.sweepAt_of_pos _ ho hp).trans ?_)
    rfl
  intro stored
  have hstored := fun level failed => State.storePoint_of_allowed (c := s.sweep.count) level failed hallowed
  refine ⟨fun hp => ?_, fun hp => ?_, fun hp r => ?_⟩
  · exact congrArg (Host.Outcome.next ∘ State.serveBus) ((State.sweepAt_of_pos _ ho hp).trans (hstored 255 true))
  · exact congrArg (Host.Outcome.next ∘ State.serveBus) ((State.sweepAt_of_pos _ ho hp).trans (hstored 255 true))
  · refine congrArg (Host.Outcome.next ∘ State.serveBus) ((State.sweepAt_of_pos _ ho hp).trans ?_)
    rw [hstored, levelOf_eq]

/-! ### A stored point, the end of a pass, and the stop word (R115 to R118) -/

/-- A measurement moves the bin of its code alone (R99, R100). -/
theorem State.bin_measure_other (s : State) (code level : Nat) {b : Nat} (hb : b ≠ code) :
    (s.measure code level).bin b = s.bin b := by
  unfold State.measure
  split
  · rfl
  · split
    · rfl
    · exact sparseGet_set_other _ _ _ _ _ hb

theorem State.bin_measure_same (s : State) (code level : Nat) :
    (s.measure code level).bin code = measuredBin s code level := by
  have hmasked : s.masked code = true ↔ ∃ e ∈ s.air, code ≤ e.code + 1 ∧ e.code ≤ code + 1 := by
    simp [State.masked, List.any_eq_true]
  unfold State.measure measuredBin
  dsimp only
  by_cases hfail : level = 255
  · rw [if_pos hfail, if_pos (Or.inl hfail)]
  · rw [if_neg hfail]
    by_cases hm : s.masked code = true
    · rw [if_pos hm, if_pos (Or.inr (hmasked.1 hm))]
    · rw [if_neg hm, if_neg (not_or.2 ⟨hfail, fun h => hm (hmasked.2 h)⟩), State.bin, State.setBin, sparseGet_set_same]
      split <;> rfl

/-- A measurement changes the map alone. -/
theorem State.measure_eq (s : State) (code level : Nat) :
    s.measure code level = { s with bins := (s.measure code level).bins } := by
  unfold State.measure
  split
  · rfl
  · split <;> rfl

theorem SweepCount.counted_eq (c : SweepCount) : c.counted = pointCounted c := by
  unfold SweepCount.counted pointCounted
  cases h : c.lockFailed <;> simp [raise16]

/-- The lock failures in a row after a point. -/
theorem pointCounted_failRun_lt {c : SweepCount} (h : c.lockFailed = false ∨ c.failRun < 7) :
    ¬ Config.lockFailures ≤ (pointCounted c).failRun := by
  unfold pointCounted Config.lockFailures
  dsimp only
  split
  · rename_i hf
    have hlt := h.resolve_left (by simp [hf])
    omega
  · omega

/-- The eighth lock failure in a row ends the order. -/
theorem State.pointEnd_of_failures {s : State} {o : SweepOrder} {c : SweepCount} (h : 8 ≤ c.failRun) :
    s.pointEnd o c = (s.sweepTo c .stopWait).sweepEnds o c true .tunerFault :=
  if_pos h

/-- A halt ends the order. -/
theorem State.pointEnd_of_halt {s : State} {o : SweepOrder} {c : SweepCount} (h : ¬ Config.lockFailures ≤ c.failRun)
    (hm : c.haltMark = true) : s.pointEnd o c = (s.sweepTo c .stopWait).sweepEnds o c true .halted :=
  (if_neg h).trans (if_pos hm)

/-- Otherwise the stop word is read. -/
theorem State.pointEnd_of_goes_on {s : State} {o : SweepOrder} {c : SweepCount} (h : ¬ Config.lockFailures ≤ c.failRun)
    (hm : c.haltMark = false) (hallowed : s.allowed false (o.slotAddr + 2) 2 = true) : s.pointEnd o c = { s with
      sweep := { s.sweep with count := c, pos := .stopWait }
      port := { s.port with transfers := s.port.transfers ++ [⟨.sweep, false, o.slotAddr + 2, 2, []⟩] } } :=
  ((if_neg h).trans (if_neg (by simp [hm]))).trans (State.present_of_allowed (s := s.sweepTo c .stopWait) .sweep [] hallowed)

/-- What a measurement brings about: the map alone changes, and in it the bin of the code. -/
theorem State.measure_cases (s : State) (code level : Nat) : ∃ m, s.measure code level = { s with bins := m } ∧
    State.bin { s with bins := m } code = measuredBin s code level ∧
    ∀ b, b ≠ code → State.bin { s with bins := m } b = s.bin b :=
  ⟨_, s.measure_eq code level, by rw [← State.measure_eq]; exact s.bin_measure_same code level,
    fun b hb => by rw [← State.measure_eq]; exact s.bin_measure_other code level hb⟩

/-- A stored point that is not the last of its pass. -/
theorem State.pointStored_of_more {s : State} {o : SweepOrder} {c : SweepCount} (h : c.index + 1 < c.points) :
    s.pointStored o c = (s.measure (o.code c) c.level).pointEnd o
      { pointCounted c with index := c.index + 1, passEnded := false } := by
  unfold State.pointStored
  rw [SweepCount.counted_eq]
  exact if_pos h

/-- The last point of a pass is counted with it, and the progress field is written. -/
theorem State.pointStored_of_last {s : State} {o : SweepOrder} {c : SweepCount} (h : c.points ≤ c.index + 1) :
    s.pointStored o c = ((s.measure (o.code c) c.level).sweepTo
      { pointCounted c with passCount := min 65535 (c.passCount + 1), passEnded := true } .progressWait).presentWrite
        .sweep (o.slotAddr + 50) (halfBytes (min 65535 (c.passCount + 1))) := by
  unfold State.pointStored
  rw [SweepCount.counted_eq]
  exact if_neg (Nat.not_lt.2 h)

theorem exec_bufferWriteDone {s : State} {o : SweepOrder} {d : List Byte} (ho : s.sweep.order = some o)
    (hp : s.sweep.pos = .bufferWait) (ha : s.mail.sweep = some (.ok d)) :
    exec .bufferWriteDone s = .next ((s.setMail .sweep none).pointStored o s.sweep.count).serveBus :=
  congrArg (Host.Outcome.next ∘ State.serveBus) (State.sweepMail_of_pos _ ho hp ha)

theorem exec_progressWriteDone {s : State} {o : SweepOrder} {a : Answer} (ho : s.sweep.order = some o)
    (hp : s.sweep.pos = .progressWait) (ha : s.mail.sweep = some a) :
    exec .progressWriteDone s = .next ((s.setMail .sweep none).passWritten o s.sweep.count a).serveBus :=
  congrArg (Host.Outcome.next ∘ State.serveBus) (State.sweepMail_of_pos _ ho hp ha)

theorem exec_sweepStopWordReadDone {s : State} {o : SweepOrder} {a : Answer} (ho : s.sweep.order = some o)
    (hp : s.sweep.pos = .stopWait) (ha : s.mail.sweep = some a) :
    exec .sweepStopWordReadDone s = .next ((s.setMail .sweep none).pointStop o s.sweep.count a).serveBus :=
  congrArg (Host.Outcome.next ∘ State.serveBus) (State.sweepMail_of_pos _ ho hp ha)

/-- Settles O40. -/
theorem storedPointFeedsTheMap : Obligations.StoredPointFeedsTheMap := by
  intro o d s ho hp ha hmore c code
  have hexec := exec_bufferWriteDone ho hp ha
  rw [State.pointStored_of_more hmore] at hexec
  generalize hc : ({ pointCounted s.sweep.count with index := s.sweep.count.index + 1, passEnded := false } : SweepCount)
    = c' at hexec
  obtain ⟨m, hm, hsame, hother⟩ := (s.setMail .sweep none).measure_cases code c.level
  generalize hu : ({ s.setMail .sweep none with bins := m } : State) = u at hm hsame hother
  rw [show (s.setMail .sweep none).measure (o.code s.sweep.count) s.sweep.count.level = u from hm] at hexec
  have hbin : ∀ b, (u.pointEnd o c').serveBus.bin b = u.bin b := fun b => by simp [State.bin]
  refine ⟨_, hexec, fun b hb => ?_, ?_, fun hl hr => ?_, fun hm hr => ?_, fun hm hr hallowed => ?_, ?_⟩
  · exact (hbin b).trans (hother b hb)
  · exact (hbin code).trans hsame
  · rw [State.pointEnd_of_failures (by
      rw [← hc]
      simp only [pointCounted, show s.sweep.count.lockFailed = true from hl, if_true]
      exact Nat.succ_le_succ hr)]
    simp [State.sweepEnds, ← hc, ← hu, pointCounted, hl, c]
  · rw [State.pointEnd_of_halt (by rw [← hc]; exact pointCounted_failRun_lt hr) (by rw [← hc]; exact hm)]
    simp [State.sweepEnds, ← hc, ← hu, pointCounted, c]
  · rw [State.pointEnd_of_goes_on (by rw [← hc]; exact pointCounted_failRun_lt hr) (by rw [← hc]; exact hm)
      (by rw [← hu]; exact hallowed), ← hc, ← hu]
    simp
  · unfold State.pointEnd
    dsimp only
    split
    · exact State.eq_of_fields (by simp [State.sweepEnds, ← hu])
    · split
      · exact State.eq_of_fields (by simp [State.sweepEnds, ← hu])
      · exact State.eq_of_fields (by simp [← hu])

/-- Settles O41. -/
theorem passEndAndStopWordDecide : Obligations.PassEndAndStopWordDecide := by
  refine ⟨?passes, fun o a s ho hp ha => ?_⟩
  case passes =>
    intro ends
    refine ⟨fun o d s ho hp ha hlast hallowed => ?_, fun o d s ho hp ha => ?_, fun o s ho ha => ⟨fun hp => ?_, fun hp => ?_⟩⟩
    · intro n code
      have hexec := exec_bufferWriteDone ho hp ha
      rw [State.pointStored_of_last hlast] at hexec
      obtain ⟨m, hm, hsame, hother⟩ := (s.setMail .sweep none).measure_cases code s.sweep.count.level
      rw [show (s.setMail .sweep none).measure (o.code s.sweep.count) s.sweep.count.level = _ from hm,
        State.presentWrite_of_allowed (n := 2) .sweep rfl ?_] at hexec
      swap
      · exact hallowed
      refine ⟨_, hexec, fun b hb => ?_, ?_, ?_, ?_, State.eq_of_fields (by simp)⟩
      · refine Eq.trans ?_ (hother b hb)
        simp [State.bin]
      · refine Eq.trans ?_ hsame
        simp [State.bin]
      · simp [n]
      · rw [State.serveBus_port_transfers]
        rfl
    · intro first u
      have hexec := exec_progressWriteDone ho hp ha
      refine ⟨fun hr => ?_, fun hr hm => ?_, fun hr hm hallowed => ?_⟩
      · rw [hexec]
        refine congrArg (Host.Outcome.next ∘ State.serveBus) (State.pointEnd_of_failures (c := first) hr)
      · rw [hexec]
        refine congrArg (Host.Outcome.next ∘ State.serveBus) (State.pointEnd_of_halt (c := first) (Nat.not_le.2 hr) hm)
      · rw [hexec]
        exact congrArg (Host.Outcome.next ∘ State.serveBus) (State.pointEnd_of_goes_on (s := s.setMail .sweep none)
          (c := first) (Nat.not_le.2 hr) hm hallowed)
    · exact congrArg (Host.Outcome.next ∘ State.serveBus) (State.sweepMail_of_pos _ ho hp ha)
    · exact exec_progressWriteDone ho hp ha
  · intro c ends
    have hexec := exec_sweepStopWordReadDone ho hp ha
    refine ⟨?_, ?_, ?_, ?_⟩
    · rintro rfl
      exact hexec
    · rintro bs rfl hstop
      rw [hexec]
      exact congrArg (Host.Outcome.next ∘ State.serveBus) (if_pos hstop)
    · rintro bs rfl hstop hpass hn hcount
      rw [hexec]
      exact congrArg (Host.Outcome.next ∘ State.serveBus) ((if_neg (not_not.2 hstop)).trans (if_pos ⟨hpass, hn, hcount⟩))
    · rintro bs rfl hstop hmore
      rw [hexec]
      refine congrArg (Host.Outcome.next ∘ State.serveBus) ((if_neg (not_not.2 hstop)).trans (if_neg ?_))
      rintro ⟨hpass, hn, hcount⟩
      rcases hmore with h | h | h
      · exact absurd hpass (by simp [show s.sweep.count.passEnded = false from h])
      · exact hn h
      · exact h hcount

end Sys2Proof.Machine
end

section
/-! Micro-steps one after another, and what the Board Handler waits for. -/

namespace Sys2Proof.Machine

/-- A block that makes one micro-step and then waits. -/
theorem runMicro_one {f : State → Option State} {s t : State} {n : Nat} (h : f s = some t) (hw : f t = none) :
    runMicro f (n + 1) s = t := by
  rw [runMicro_some h, runMicro_none hw]

theorem State.boardGo_of_none {s : State} (h : s.boardMicro = none) : s.boardGo = s := runMicro_none h _

theorem State.boardGo_of_some {s t : State} (h : s.boardMicro = some t) (hw : t.boardMicro = none) : s.boardGo = t :=
  runMicro_one h hw

theorem State.boardGo_of_two {s t u : State} (h : s.boardMicro = some t) (g : t.boardMicro = some u)
    (hw : u.boardMicro = none) : s.boardGo = u :=
  (runMicro_some h (Config.microSteps - 1)).trans (runMicro_one g hw)

/-- The positions at which the Board Handler waits for the answer of a transfer. -/
def BoardPos.awaitsMail : BoardPos → Bool
  | .stateWait _ _ | .bodyWait _ _ _ | .screenResultWait _ _ _ | .screenStateWait _ _ _ | .takenWait _ _
  | .rosterWait _ _ | .tuneTakenWait _ _ | .immResultWait _ _ | .immStateWait _ _ | .listResultWait _
  | .listStateWait _ => true
  | _ => false

theorem State.boardMicro_of_awaits {s : State} (h : s.board.pos.awaitsMail = true) (hm : s.mail.board = none) :
    s.boardMicro = none := by
  unfold State.boardMicro State.surveyRead State.boardMail
  revert h
  cases s.board.pos <;> simp [BoardPos.awaitsMail, hm]

/-- A board at rest, or with a survey that waits for its command, does nothing by itself. -/
theorem State.boardMicro_of_rest {s : State} (h : s.board.pos = .idle ∨ s.board.pos = .begun) : s.boardMicro = none := by
  unfold State.boardMicro
  rcases h with h | h <;> rw [h]

theorem State.boardMail_of_answer {s : State} {a : Answer} (f : State → Answer → State) (h : s.mail.board = some a) :
    s.boardMail f = some (f (s.setMail .board none) a) := by
  rw [State.boardMail, h]
  rfl

/-- A completion's result burst is presented at byte 44 of its slot (R172). -/
theorem State.writeResult_of_allowed {s : State} {c : Completion} (p : BoardPos)
    (h : s.allowed true (s.latch.boardAddr + 64 * c.slot + 44) 6 = true) : s.writeResult c p = { s with
      board := { s.board with pos := p }
      port := { s.port with transfers := s.port.transfers ++ [⟨.board, true, s.latch.boardAddr + 64 * c.slot + 44, 6,
        halfBytes (resultCode c.result) ++ halfBytes c.count1 ++ halfBytes c.count2⟩] } } := by
  unfold State.writeResult
  rw [State.slotAddr, State.presentWrite_of_allowed .board rfl h]
  rfl

/-- A slot's state word is presented at its head (R171, R172). -/
theorem State.writeState_of_allowed {s : State} {slot : Nat} (code : Nat) (p : BoardPos)
    (h : s.allowed true (s.latch.boardAddr + 64 * slot) 2 = true) : s.writeState slot code p = { s with
      board := { s.board with pos := p }
      port := { s.port with transfers := s.port.transfers ++
        [⟨.board, true, s.latch.boardAddr + 64 * slot, 2, halfBytes code⟩] } } := by
  unfold State.writeState
  rw [State.slotAddr, State.presentWrite_of_allowed .board rfl h]
  rfl

end Sys2Proof.Machine
end

section
/-! MARK_BAND, bin by bin (chapter 5, 5.4). -/

namespace Sys2Proof.Machine

/-- The state of a bin by its flag and its counter (R97). -/
theorem Bin.state_iff (v : Bin) : (v.state = .excluded ↔ v.excluded = true) ∧
    (v.state = .marked ↔ v.excluded = false ∧ 4 ≤ v.counter) ∧
    (v.state = .clear ↔ v.excluded = false ∧ v.counter ≤ 3) := by
  unfold Bin.state
  cases v.excluded with
  | true => simp
  | false =>
    by_cases h : 4 ≤ v.counter
    · simp [h, show ¬ v.counter ≤ 3 by omega]
    · simp [h, show v.counter ≤ 3 by omega]

/-- The bins from a code on. -/
theorem List.filter_range_between (n lo hi : Nat) (h : hi < n) :
    (List.range n).filter (fun x => decide (lo ≤ x ∧ x ≤ hi)) = List.range' lo (hi + 1 - lo) := by
  by_cases hle : lo ≤ hi
  · have hsplit : List.range n = List.range' 0 lo ++ (List.range' lo (hi + 1 - lo) ++ List.range' (hi + 1) (n - (hi + 1))) := by
      have hmid := List.range'_append_1 (s := lo) (m := hi + 1 - lo) (n := n - (hi + 1))
      have hall := List.range'_append_1 (s := 0) (m := lo) (n := n - lo)
      rw [show lo + (hi + 1 - lo) = hi + 1 by omega, show hi + 1 - lo + (n - (hi + 1)) = n - lo by omega] at hmid
      rw [Nat.zero_add, show lo + (n - lo) = n by omega] at hall
      rw [hmid, hall, List.range_eq_range']
    have hbelow : (List.range' 0 lo).filter (fun x => decide (lo ≤ x ∧ x ≤ hi)) = [] := by
      rw [List.filter_eq_nil_iff]
      intro x hx
      rw [List.mem_range'_1] at hx
      simp only [decide_eq_true_eq]
      omega
    have habove : (List.range' (hi + 1) (n - (hi + 1))).filter (fun x => decide (lo ≤ x ∧ x ≤ hi)) = [] := by
      rw [List.filter_eq_nil_iff]
      intro x hx
      rw [List.mem_range'_1] at hx
      simp only [decide_eq_true_eq]
      omega
    have hin : (List.range' lo (hi + 1 - lo)).filter (fun x => decide (lo ≤ x ∧ x ≤ hi)) = List.range' lo (hi + 1 - lo) := by
      rw [List.filter_eq_self]
      intro x hx
      rw [List.mem_range'_1] at hx
      simp only [decide_eq_true_eq]
      omega
    rw [hsplit, List.filter_append, List.filter_append, hbelow, hin, habove, List.nil_append, List.append_nil]
  · rw [show hi + 1 - lo = 0 by omega, List.range'_zero, List.filter_eq_nil_iff]
    intro x _
    simp only [decide_eq_true_eq]
    omega

/-- The bins of a band (R102): their first, and how many they are. -/
theorem bandOf_eq (first last : Nat) : bandOf first last =
    (min first last, min (max first last) 8959 + 1 - min first last) := by
  unfold bandOf Config.codes
  dsimp only
  split
  · rw [Prod.mk.injEq]
    omega
  · rfl

/-- Whether an operation changes the state in which a bin is read. -/
def bandChanges (op : Nat) (v : Bin) : Bool := decide (v.state ≠ (bandOp op v).state)

/-- The map and its order with k bins of the band reached. -/
theorem State.bandStep_iterate (s : State) (slot op lo n : Nat) (k : Nat) (hk : k ≤ n) : ∃ m,
    Nat.iterate State.bandStep k { s with band := some ⟨slot, op, lo, n, n, 0⟩ } = { s with
      bins := m
      band := some ⟨slot, op, lo + k, n - k, n, ((List.range' lo k).filter fun x => bandChanges op (s.bin x)).length⟩ } ∧
    ∀ x, sparseGet Bin.reset m x = if x ∈ List.range' lo k then bandOp op (s.bin x) else s.bin x := by
  induction k with
  | zero => exact ⟨s.bins, rfl, fun x => by simp [State.bin]⟩
  | succ k ih =>
    obtain ⟨m, hm, hbins⟩ := ih (by omega)
    rw [Function.iterate_succ_apply', hm]
    have hnext : sparseGet Bin.reset m (lo + k) = s.bin (lo + k) := by
      rw [hbins, if_neg (by simp [List.mem_range'_1])]
    refine ⟨sparseSet Bin.reset m (lo + k) (bandOp op (s.bin (lo + k))), ?_, fun x => ?_⟩
    · unfold State.bandStep
      dsimp only
      rw [if_neg (by omega), State.bin, hnext]
      have hreached : Band.reached ⟨slot, op, lo + k, n - k, n,
            ((List.range' lo k).filter fun x => bandChanges op (s.bin x)).length⟩ (s.bin (lo + k)) =
          ⟨slot, op, lo + (k + 1), n - (k + 1), n,
            ((List.range' lo (k + 1)).filter fun x => bandChanges op (s.bin x)).length⟩ := by
        rw [Band.reached, List.range'_concat, List.filter_append, List.length_append, Nat.one_mul, Nat.sub_sub]
        by_cases hc : (s.bin (lo + k)).state = (bandOp op (s.bin (lo + k))).state
        · simp [bandChanges, hc, Nat.add_assoc]
        · simp [bandChanges, hc, Nat.add_assoc]
      rw [hreached]
    · rw [sparseGet_set, hbins, List.range'_concat]
      by_cases hx : x = lo + k
      · simp [hx]
      · simp [hx]

/-- With bins still to be reached the Board Handler waits for the map. -/
theorem State.boardMicro_of_band {s : State} {sound : List Candidate} {b : Band} (hp : s.board.pos = .bandWait sound)
    (hb : s.band = some b) : s.boardMicro =
      if b.left = 0 then some (State.immEnds ({ s with band := none }, b.completion) sound) else none := by
  unfold State.boardMicro
  rw [hp]
  dsimp only
  rw [hb]

/-- A step of a part without commands, whose only work over the map is that of its order: the next bin (log 5). -/
theorem step_of_band {s : State} {b : Band} (hp : s.pending = []) (hr : s.engine.reading = none) (hb : s.band = some b)
    (hleft : b.left ≠ 0) : step s = .next s.bandStep.boardGo.serveBus := by
  have hruns : s.bandRuns = true := s.bandRuns_iff.2 ⟨b, hb, hleft⟩
  have hreads : s.readsBins = false := by rw [State.readsBins, hr]; rfl
  rw [step_nil s hp, State.tick, State.working, State.nextBin, hruns, hreads]
  rfl

/-- Settles O37. -/
theorem markBandChangesBandAlone : Obligations.MarkBandChangesBandAlone := by
  refine ⟨Bin.state_iff, fun slot first last b s hfirst hlast hop => ?_⟩
  intro lo hi band given reached
  generalize hn : hi + 1 - lo = n
  have hband : band = List.range' lo n := by
    rw [← hn]
    exact List.filter_range_between _ _ _ (Nat.lt_succ_of_le (min_le_right _ _))
  have hlen : band.length = n := by rw [hband, List.length_range']
  have hgiven : ∀ x, bandOp b.p2 (s.bin x) = given x := by
    intro x
    have hcases : b.p2 = 0 ∨ b.p2 = 1 ∨ b.p2 = 2 := by omega
    rcases hcases with h | h | h <;> simp [given, bandOp, h]
  have hbegin : s.beginBand slot b = { s with band := some ⟨slot, b.p2, lo, n, n, 0⟩ } := by
    rw [State.beginBand, bandOf_eq, lowHalf, lowHalf, hfirst, hlast, ← hn]
  have hreached : ∀ k, k ≤ n → ∃ m, reached k = { s with
        bins := m
        band := some ⟨slot, b.p2, lo + k, n - k, n,
          ((List.range' lo k).filter fun x => bandChanges b.p2 (s.bin x)).length⟩ } ∧
      ∀ x, sparseGet Bin.reset m x = if x ∈ List.range' lo k then bandOp b.p2 (s.bin x) else s.bin x := fun k hk => by
    have h := s.bandStep_iterate slot b.p2 lo n k hk
    rw [← hbegin] at h
    exact h
  have hstep : ∀ k, reached (k + 1) = (reached k).bandStep := fun k => Function.iterate_succ_apply' _ _ _
  rw [hlen]
  refine ⟨fun k hk => ?_, ?_, fun k sound hk hpending hreading hpos hmail => ⟨fun hlt => ?_, fun hlast hallowed => ?_⟩⟩
  · obtain ⟨m, hm, hbins⟩ := hreached k hk
    rw [hm]
    refine ⟨fun x => ?_, rfl, ?_⟩
    · refine (hbins x).trans ?_
      rw [hgiven, hband, List.take_range'_of_length_ge hk]
    · rw [State.bandRuns_iff]
      simp only [Option.some.injEq, exists_eq_left']
      omega
  · obtain ⟨m, hm, -⟩ := hreached n le_rfl
    rw [hm]
    refine congrArg some ?_
    have hchanged : (band.filter fun x => decide ((s.bin x).state ≠ (given x).state)).length =
        ((List.range' lo n).filter fun x => bandChanges b.p2 (s.bin x)).length := by
      rw [hband]
      simp only [← hgiven]
      rfl
    rw [hchanged, hband, Band.completion]
    refine if_congr ?_ rfl rfl
    exact (List.range'_eq_nil_iff ..).symm
  · obtain ⟨m, hm, -⟩ := hreached k hk.le
    obtain ⟨m', hm', -⟩ := hreached (k + 1) hlt.le
    rw [step_of_band (s := reached k) (by rw [hm]; exact hpending) (by rw [hm]; exact hreading) (by rw [hm])
      (Nat.sub_ne_zero_of_lt hk), ← hstep, State.boardGo_of_none]
    rw [State.boardMicro_of_band (by rw [hm']; exact hpos) (by rw [hm'])]
    exact if_neg (Nat.sub_ne_zero_of_lt hlt)
  · obtain ⟨m, hm, -⟩ := hreached k hk.le
    obtain ⟨m', hm', -⟩ := hreached (k + 1) hlast.le
    generalize hcount : ((List.range' lo (k + 1)).filter fun x => bandChanges b.p2 (s.bin x)).length = count at hm'
    rw [step_of_band (s := reached k) (by rw [hm]; exact hpending) (by rw [hm]; exact hreading) (by rw [hm])
      (Nat.sub_ne_zero_of_lt hk), ← hstep]
    have hmicro := State.boardMicro_of_band (s := reached (k + 1)) (sound := sound) (by rw [hm']; exact hpos) (by rw [hm'])
    rw [if_pos (show n - (k + 1) = 0 by omega), Band.completion, if_neg (show ¬ n = 0 by omega), State.immEnds,
      State.writeResult_of_allowed _ (by rw [hm']; exact hallowed)] at hmicro
    refine ⟨_, count, congrArg _ (congrArg State.serveBus (State.boardGo_of_some hmicro
      (State.boardMicro_of_awaits rfl ?_))), ?_, ?_, ?_⟩
    · rw [hm']
      exact hmail
    · simp
    · simp
    · simp [hm']

end Sys2Proof.Machine
end

section
/-! Surveys: their triggers and their reads (chapter 9, 9.2). -/

namespace Sys2Proof.Machine

/-! ### One read of a survey (R167) -/

/-- With READ_WRITE access to it a part of a slot is asked for. -/
theorem State.slotRead_of_allowed {s : State} {a n : Nat} (p : BoardPos) (h : s.allowed true a n = true) :
    s.slotRead a n p = boardAsks s false a n [] p := by
  have hread : s.allowed false a n = true := by
    rw [State.allowed, List.any_eq_true] at h ⊢
    obtain ⟨w, hw, hcovers⟩ := h
    refine ⟨w, hw, (Window.covers_iff w false a n).2 ?_⟩
    obtain ⟨haccess, hrange⟩ := (Window.covers_iff w true a n).1 hcovers
    exact ⟨.inl (haccess.resolve_right fun hr => Bool.noConfusion hr.2), hrange⟩
  rw [State.slotRead, if_pos h, State.presentRead, State.present_of_allowed .board [] hread]
  rfl

/-- A halt has ended the survey. -/
theorem State.statesStep_of_ending {s : State} (next : Nat) (found : List Nat) (h : s.board.ending = true) :
    s.statesStep next found = s.surveyEnds := if_pos h

/-- Every state word has been read. -/
theorem State.statesStep_of_done {s : State} {next : Nat} (found : List Nat) (h : s.board.ending = false)
    (hn : s.latch.boardSlots ≤ next) : s.statesStep next found = s.setBoardPos (.bodies found []) := by
  unfold State.statesStep
  rw [if_neg (by simp [h]), if_pos hn]

/-- A held slot is passed over. -/
theorem State.statesStep_of_held {s : State} {next : Nat} (found : List Nat) (h : s.board.ending = false)
    (hn : next < s.latch.boardSlots) (hheld : s.board.holds next = true) :
    s.statesStep next found = s.setBoardPos (.states (next + 1) found) := by
  unfold State.statesStep
  rw [if_neg (by simp [h]), if_neg (Nat.not_le.2 hn), if_pos hheld]

/-- The state word of a slot that is not held is read. -/
theorem State.statesStep_of_free {s : State} {next : Nat} (found : List Nat) (h : s.board.ending = false)
    (hn : next < s.latch.boardSlots) (hheld : s.board.holds next = false) :
    s.statesStep next found = s.slotRead (s.latch.boardAddr + 64 * next) 2 (.stateWait next found) := by
  unfold State.statesStep
  rw [if_neg (by simp [h]), if_neg (Nat.not_le.2 hn), if_neg (by simp [hheld])]
  rfl

theorem State.boardMicro_of_states {s : State} {next : Nat} {found : List Nat} (h : s.board.pos = .states next found) :
    s.boardMicro = some (s.statesStep next found) := by
  unfold State.boardMicro
  rw [h]

theorem State.boardMicro_of_bodies {s : State} {left : List Nat} {sound : List Candidate}
    (h : s.board.pos = .bodies left sound) : s.boardMicro = some (s.bodiesStep left sound) := by
  unfold State.boardMicro
  rw [h]

/-- A fault on a survey's read abandons the survey. -/
theorem State.surveyRead_of_fault {s : State} (f : State → List Byte → State) (h : s.mail.board = some .fault) :
    s.surveyRead f = some (surveyOver (answerTaken s)) :=
  State.boardMail_of_answer _ h

theorem State.surveyRead_of_data {s : State} {bs : List Byte} (f : State → List Byte → State)
    (h : s.mail.board = some (.ok bs)) : s.surveyRead f = some (f (answerTaken s) bs) :=
  State.boardMail_of_answer _ h

/-- The Board Handler passes over held slots, one after another. -/
theorem runMicro_heldSlots {s : State} {found : List Nat} (hending : s.board.ending = false) (d j n : Nat)
    (hslots : j + d ≤ s.latch.boardSlots) (hheld : ∀ i, j ≤ i → i < j + d → s.board.holds i = true) :
    runMicro State.boardMicro (n + d) (s.setBoardPos (.states j found)) =
      runMicro State.boardMicro n (s.setBoardPos (.states (j + d) found)) := by
  induction d generalizing j with
  | zero => rfl
  | succ d ih =>
    have hmicro : (s.setBoardPos (.states j found)).boardMicro = some (s.setBoardPos (.states (j + 1) found)) :=
      (State.boardMicro_of_states rfl).trans (congrArg some
        (State.statesStep_of_held found hending (by omega : j < s.latch.boardSlots) (hheld j le_rfl (by omega))))
    rw [← Nat.add_assoc, runMicro_some hmicro, ih (j + 1) (by omega) fun i hi hid => hheld i (by omega) (by omega)]
    rw [Nat.add_assoc, Nat.add_comm 1 d]

/-- A survey that begins comes to the first slot that is not held. -/
theorem State.boardGo_of_begun {s t : State} {k : Nat} (hending : s.board.ending = false) (hslots : s.latch.boardSlots ≤ 16)
    (hk : k < s.latch.boardSlots) (hheld : ∀ j < k, s.board.holds j = true)
    (hmicro : (s.setBoardPos (.states k [])).boardMicro = some t) (hwait : t.boardMicro = none) :
    (s.setBoardPos (.states 0 [])).boardGo = t := by
  have hfuel : Config.microSteps = Config.microSteps - 17 + (16 - k) + 1 + k := by
    have : Config.microSteps = 8192 := rfl
    omega
  rw [State.boardGo, hfuel, runMicro_heldSlots hending k 0 _ (by omega) fun i _ hi => hheld i (by omega), Nat.zero_add]
  exact runMicro_one hmicro hwait

theorem exec_survey {s : State} (h : s.board.pos = .begun) :
    exec .survey s = .next (s.setBoardPos (.states 0 [])).boardGo.serveBus :=
  congrArg Host.Outcome.next (if_pos h)

/-- Settles O16. -/
theorem surveysBeginAndReadStateWords : Obligations.SurveysBeginAndReadStateWords := by
  refine ⟨⟨fun s hrun htimer hpos hlist => ?_, fun s hrun htimer hpos => ?_, fun s htimer => ?_,
      fun s hrun hpos hagain hlist => ?_, fun s hnot hidle => ?_⟩,
    fun k s hpos hending hmail hslots hk hfree hheld => ⟨fun hallowed => ?_, fun hdenied => ?_⟩,
    fun slot found left sound s => ?_⟩
  · exact congrArg Host.Outcome.next ((if_pos htimer).trans (State.trigger_begins hrun hpos hlist))
  · exact congrArg Host.Outcome.next ((if_pos htimer).trans (State.trigger_marks hrun (.inl hpos)))
  · exact congrArg Host.Outcome.next (if_neg (by simp [htimer]))
  · refine congrArg Host.Outcome.next ((s.whenDue_of_due _ ?_).trans (if_pos hlist))
    simp [State.againDue, hpos, hagain, hrun]
  · refine congrArg Host.Outcome.next (s.whenDue_of_idle _ ?_ hidle)
    rw [← Bool.not_eq_true, State.againDue, Bool.and_eq_true, Bool.and_eq_true, decide_eq_true_eq, decide_eq_true_eq]
    rintro ⟨⟨hpos, hagain⟩, hrun⟩
    rcases hnot with h | h | h
    · exact h hrun
    · exact h hpos
    · simp [h] at hagain
  · have hmicro : (s.setBoardPos (.states k [])).boardMicro = some _ :=
      (State.boardMicro_of_states rfl).trans (congrArg some
        ((State.statesStep_of_free (s := s.setBoardPos (.states k [])) [] hending hk hfree).trans (State.slotRead_of_allowed _ hallowed)))
    rw [exec_survey hpos, State.boardGo_of_begun hending hslots hk hheld hmicro (State.boardMicro_of_awaits rfl hmail)]
    rfl
  · have hmicro : (s.setBoardPos (.states k [])).boardMicro = some _ :=
      (State.boardMicro_of_states rfl).trans (congrArg some
        ((State.statesStep_of_free (s := s.setBoardPos (.states k [])) [] hending hk hfree).trans (if_neg fun h => Bool.noConfusion (hdenied.symm.trans h))))
    have hover : ∀ (u : State) (c : Cause), u.surveyEnds.serveBus.hasCause c = u.hasCause c ∧
        u.surveyEnds.serveBus.fault = u.fault := fun u c => by simp [State.surveyEnds, State.hasCause]
    refine ⟨_, (exec_survey hpos).trans (congrArg (Host.Outcome.next ∘ State.serveBus)
      (State.boardGo_of_begun hending hslots hk hheld hmicro (State.boardMicro_of_rest (.inl rfl)))), ?_, ?_, ?_, ?_, ?_⟩
    · simp [State.surveyEnds, hending]
    · refine (hover _ _).1.trans (State.recordFault_hasCause ..|>.trans ?_)
      simp
    · simp [State.surveyEnds]
    · exact State.eq_of_fields (by simp [State.surveyEnds])
    · intro hclear
      refine (hover _ .memoryFault).2.trans ((State.recordFault_fault ..).trans (if_neg ?_))
      exact Bool.eq_false_iff.1 hclear
  · intro address
    refine ⟨fun hpos => ?_, fun hpos => ?_, fun hpos => ?_, fun hpos hending => ?_⟩
    · have hmicro : s.boardMicro = s.surveyRead fun s bs =>
          s.setBoardPos (.states (slot + 1) (if half bs 0 = statePosted then found ++ [slot] else found)) := by
        unfold State.boardMicro
        rw [hpos]
      exact ⟨fun hm => hmicro.trans (State.surveyRead_of_fault _ hm),
        fun bs hm => hmicro.trans (State.surveyRead_of_data _ hm)⟩
    · rw [State.boardMicro_of_states hpos]
      exact ⟨fun he => congrArg some (State.statesStep_of_ending slot found he),
        fun he hn => congrArg some (State.statesStep_of_done found he hn),
        fun he hn hh => congrArg some (State.statesStep_of_held found he hn hh),
        fun he hn hh ha => congrArg some ((State.statesStep_of_free found he hn hh).trans (State.slotRead_of_allowed _ ha))⟩
    · rw [State.boardMicro_of_bodies hpos]
      exact ⟨fun he => congrArg some (if_pos he),
        fun he ha => congrArg some ((if_neg (by simp [he])).trans (State.slotRead_of_allowed _ ha))⟩
    · rw [State.boardMicro_of_bodies hpos]
      exact congrArg some (if_neg (by simp [hending]))

end Sys2Proof.Machine
end

section
/-! Screening of an order's body (chapter 9, 9.2). -/

namespace Sys2Proof.Machine

/-- The kinds by their codes are the catalogue's (R194). -/
theorem orderKind_eq (n : Nat) : orderKind n = catalogue.lookup n := by
  by_cases h : n < 19
  · interval_cases n <;> rfl
  · obtain ⟨m, rfl⟩ := Nat.exists_eq_add_of_le' (Nat.le_of_not_lt h)
    rfl

theorem resultCode_eq (r : ResultCode) : resultCode r = resultValue r := by cases r <;> rfl

theorem halfBytes_eq (n : Nat) : halfBytes n = twoBytes n := rfl

/-- The body of a slot, by the offsets in the slot (R194). -/
theorem orderBody_eq (bs : List Byte) : orderBody bs = bodyAt bs := by
  simp [orderBody, bodyAt, align4_eq]

theorem idHasRecord_iff (id : Nat) : idHasRecord id = true ↔ id / 256 < 12 ∧ id % 256 < 96 := by
  rw [idHasRecord, Bool.and_eq_true, decide_eq_true_eq, decide_eq_true_eq]
  rfl

theorem rackTuneOk_iff (b : OrderBody) : rackTuneOk b = true ↔
    b.p2 % 256 ≤ 3 ∧ 1 ≤ b.p2 / 256 % 256 ∧ b.p2 / 256 % 256 ≤ 30 ∧ b.p2 / 65536 % 256 ≤ 31 ∧ b.p1 % 65536 ≤ 8959 ∧
      (b.p0 % 65536 = 65535 ∨ b.p0 % 65536 / 256 < 12 ∧ b.p0 % 65536 % 256 < 96) := by
  simp only [rackTuneOk, Bool.and_eq_true, Bool.or_eq_true, decide_eq_true_eq, idHasRecord_iff, and_assoc]
  simp only [paramByte, lowHalf, pow_zero, Nat.div_one, pow_one, Config.codes, Config.noId]
  norm_num [Nat.lt_succ_iff]

/-- Tests 2, 3 and 4 of R168. -/
theorem tests_iff (k : OrderKind) (b : OrderBody) :
    (countsOk k b && roomOk k b && paramsOk k b) = true ↔ bodySound k b := by
  have hroom : ∀ n, (decide (n ≤ b.capacity / 4) = true ↔ 4 * n ≤ b.capacity) := fun n => by
    rw [decide_eq_true_eq]
    omega
  have hstage : decide (b.p0 < Config.stages) = true ↔ b.p0 < 12 := by
    rw [decide_eq_true_eq]
    rfl
  cases k <;> simp [countsOk, roomOk, paramsOk, bodySound, rackTuneOk_iff, hroom, hstage, and_assoc, Nat.lt_succ_iff,
    or_comm]


theorem orderAreas_eq (k : OrderKind) (b : OrderBody) : orderAreas k b = areasUsed k b := by
  cases k <;> simp [orderAreas, areasUsed, listASize, listBSize, resultSize, Config.settingsBytes]

/-- Test 5 of R168: the first area that no window covers. -/
theorem State.failingArea_eq (s : State) (k : OrderKind) (b : OrderBody) : s.failingArea k b =
    (areasUsed k b).find? fun a => decide (a.2.2 ≠ 0 ∧ s.allowed a.1 a.2.1 a.2.2 = false) := by
  rw [State.failingArea, orderAreas_eq]
  refine congrArg (List.find? · _) (funext fun a => ?_)
  rw [Bool.decide_and]
  cases s.allowed a.1 a.2.1 a.2.2 <;> rfl

theorem State.failingArea_eq_none_iff (s : State) (k : OrderKind) (b : OrderBody) : s.failingArea k b = none ↔
    ∀ a ∈ areasUsed k b, a.2.2 ≠ 0 → s.allowed a.1 a.2.1 a.2.2 = true := by
  rw [State.failingArea_eq, List.find?_eq_none]
  refine forall₂_congr fun a _ => ?_
  rw [decide_eq_true_eq, not_and, Bool.not_eq_false]

/-- A body that passes tests 1 to 4 is screened by its areas. -/
theorem State.screen_of_sound {s : State} {k : OrderKind} {b : OrderBody} (hstop : b.stop = 0)
    (hk : catalogue.lookup b.kind = some k) (hb : bodySound k b) : s.screen b =
      match s.failingArea k b with
      | some a => (s.recordFault a.2.1 .window .board, .answered .badOrder)
      | none => (s, .sound k) := by
  unfold State.screen
  rw [if_neg (not_not.2 hstop), orderKind_eq, hk]
  exact if_neg (by rw [(tests_iff k b).2 hb]; decide)

/-- The reading of a body goes on with its screening. -/
theorem State.boardMicro_of_bodyWait {s : State} {slot : Nat} {left : List Nat} {sound : List Candidate}
    (h : s.board.pos = .bodyWait slot left sound) :
    s.boardMicro = s.surveyRead fun s bs => s.bodyRead slot left sound bs := by
  unfold State.boardMicro
  rw [h]

/-- A sound body joins the candidates. -/
theorem State.bodyRead_of_sound {s : State} {slot : Nat} {left : List Nat} {sound : List Candidate} {bs : List Byte}
    {k : OrderKind} (h : (s.screen (bodyAt bs)).2 = .sound k) : s.bodyRead slot left sound bs =
      (s.screen (bodyAt bs)).1.setBoardPos (.bodies left (sound ++ [⟨slot, k, bodyAt bs⟩])) := by
  unfold State.bodyRead
  rw [orderBody_eq]
  rcases hs : s.screen (bodyAt bs) with ⟨t, a⟩
  rw [hs] at h
  cases h
  dsimp only
  rw [hs]

/-- A malformed body is answered. -/
theorem State.bodyRead_of_answered {s : State} {slot : Nat} {left : List Nat} {sound : List Candidate} {bs : List Byte}
    {r : ResultCode} (h : (s.screen (bodyAt bs)).2 = .answered r) : s.bodyRead slot left sound bs =
      (s.screen (bodyAt bs)).1.writeResult ⟨slot, true, r, 0, 0⟩ (.screenResultWait ⟨slot, true, r, 0, 0⟩ left sound) := by
  unfold State.bodyRead
  rw [orderBody_eq]
  rcases hs : s.screen (bodyAt bs) with ⟨t, a⟩
  rw [hs] at h
  cases h
  dsimp only
  rw [hs]

/-- Screening changes the fault record alone. -/
theorem State.screen_control (s : State) (b : OrderBody) : (s.screen b).1.control = s.control := by
  unfold State.screen
  split
  · rfl
  · split
    · rfl
    · split
      · rfl
      · split
        · simp
        · rfl

/-- A completion's result burst, where the windows permit it. -/
theorem State.writeResult_eq_resultBurst {s : State} {c : Completion} (p : BoardPos)
    (h : s.allowed true (s.latch.boardAddr + 64 * c.slot + 44) 6 = true) : s.writeResult c p = resultBurst s c p := by
  rw [State.writeResult_of_allowed p h, resultCode_eq]
  rfl

/-- Settles O17. -/
theorem screeningAnswersMalformedBodies : Obligations.ScreeningAnswersMalformedBodies := by
  refine ⟨fun b s => ⟨fun hstop => if_pos hstop, fun hstop hk => ?_, fun k hstop hk hb => ?_, fun k hstop hk hb => ⟨?_, ?_⟩⟩,
    fun slot left sound s hpos => ?_⟩
  · unfold State.screen
    rw [if_neg (not_not.2 hstop), orderKind_eq, hk]
  · unfold State.screen
    rw [if_neg (not_not.2 hstop), orderKind_eq, hk]
    exact if_pos (Bool.eq_false_iff.2 fun h => hb ((tests_iff k b).1 h))
  · rw [State.screen_of_sound hstop hk hb, ← State.failingArea_eq_none_iff]
    cases s.failingArea k b <;> simp
  · intro a ha
    rw [State.screen_of_sound hstop hk hb, State.failingArea_eq, ha]
    refine ⟨_, rfl, fun c => s.recordFault_hasCause .., s.recordFault_fault .., State.eq_of_fields (by simp)⟩
  · rw [State.boardMicro_of_bodyWait hpos]
    refine ⟨State.surveyRead_of_fault _, fun bs hm => ?_⟩
    rw [State.surveyRead_of_data _ hm]
    intro r
    refine ⟨fun k hk => congrArg some (State.bodyRead_of_sound hk), ?_⟩
    rintro ⟨_, _, result, _, _⟩ rfl rfl hr rfl rfl hallowed
    obtain ⟨-, -, -, -, -, hlatch, hwindows, -⟩ :=
      State.control_eq_iff.1 ((answerTaken s).screen_control (bodyAt bs))
    rw [State.bodyRead_of_answered hr]
    refine congrArg some (State.writeResult_eq_resultBurst _ ?_)
    rw [State.allowed_congr hwindows, hlatch]
    exact hallowed

end Sys2Proof.Machine
end

section
/-! Dispatch: the choice of an order, and what its take does (chapter 9, 9.2). -/

namespace Sys2Proof.Machine

theorem State.latch_of_control {s t : State} (h : t.control = s.control) : t.latch = s.latch := by
  obtain ⟨-, -, -, -, -, hlatch, -⟩ := State.control_eq_iff.1 h
  exact hlatch

theorem State.allowed_of_control {s t : State} (h : t.control = s.control) (write : Bool) (a n : Nat) :
    t.allowed write a n = s.allowed write a n := by
  obtain ⟨-, -, -, -, -, -, hwindows, -⟩ := State.control_eq_iff.1 h
  exact State.allowed_congr hwindows write a n

/-! ### The choice (R169, R170) -/

/-- A candidate is not taken before another: its priority is at most the other's, and at the same priority it lies no
nearer to the cursor. -/
def noBetter (s : State) (d c : Candidate) : Prop :=
  d.priority ≤ c.priority ∧ (d.priority = c.priority → s.distance c.slot ≤ s.distance d.slot)

theorem noBetter.refl (s : State) (c : Candidate) : noBetter s c c := ⟨le_rfl, fun _ => le_rfl⟩

theorem noBetter.trans {s : State} {a b c : Candidate} (h : noBetter s a b) (g : noBetter s b c) : noBetter s a c := by
  obtain ⟨hp, hd⟩ := h
  obtain ⟨gp, gd⟩ := g
  exact ⟨hp.trans gp, fun e => (gd (by omega)).trans (hd (by omega))⟩

theorem State.before_eq_true_iff (s : State) (a b : Candidate) : s.before a b = true ↔
    b.priority < a.priority ∨ a.priority = b.priority ∧ s.distance a.slot < s.distance b.slot := by
  simp [State.before]

theorem noBetter_of_before {s : State} {a b : Candidate} (h : s.before a b = true) : noBetter s b a := by
  rw [State.before_eq_true_iff] at h
  exact ⟨by omega, fun e => by omega⟩

theorem noBetter_of_not_before {s : State} {a b : Candidate} (h : ¬ s.before a b = true) : noBetter s a b := by
  rw [State.before_eq_true_iff] at h
  exact ⟨by omega, fun e => by omega⟩

/-- The better of the best so far and a further candidate. -/
def betterOf (s : State) (best : Option Candidate) (c : Candidate) : Option Candidate :=
  match best with
  | none => some c
  | some b => if s.before c b then some c else some b

/-- The best of the candidates seen, when there is one. -/
theorem foldl_betterOf (s : State) (l : List Candidate) (b : Candidate) : ∃ r, l.foldl (betterOf s) (some b) = some r ∧
    (r = b ∨ r ∈ l) ∧ noBetter s b r ∧ ∀ d ∈ l, noBetter s d r := by
  induction l generalizing b with
  | nil => exact ⟨b, rfl, .inl rfl, .refl s b, by simp⟩
  | cons c l ih =>
    have hfirst : ∃ x, betterOf s (some b) c = some x ∧ (x = b ∨ x = c) ∧ noBetter s b x ∧ noBetter s c x := by
      by_cases h : s.before c b = true
      · exact ⟨c, if_pos h, .inr rfl, noBetter_of_before h, .refl s c⟩
      · exact ⟨b, if_neg h, .inl rfl, .refl s b, noBetter_of_not_before h⟩
    obtain ⟨x, hx, hxb, hbx, hcx⟩ := hfirst
    obtain ⟨r, hr, hmem, hxr, hall⟩ := ih x
    refine ⟨r, by rw [List.foldl_cons, hx, hr], ?_, hbx.trans hxr, ?_⟩
    · rcases hmem with rfl | hmem
      · exact hxb.imp id fun h => List.mem_cons.2 (.inl h)
      · exact .inr (.tail _ hmem)
    · rintro d (_ | ⟨_, hd⟩)
      · exact hcx.trans hxr
      · exact hall d hd

theorem State.chooseCandidate_eq (s : State) (l : List Candidate) :
    s.chooseCandidate l = (l.filter s.destAccepts).foldl (betterOf s) none := rfl

/-- The choice among candidates: none when no destination accepts one, otherwise the best that one accepts. -/
theorem State.chooseCandidate_cases (s : State) (l : List Candidate) :
    (s.chooseCandidate l = none ∧ ∀ c ∈ l, ¬ s.destAccepts c = true) ∨
    ∃ r, s.chooseCandidate l = some r ∧ r ∈ l ∧ s.destAccepts r = true ∧
      ∀ d ∈ l, s.destAccepts d = true → noBetter s d r := by
  rw [State.chooseCandidate_eq]
  cases h : l.filter s.destAccepts with
  | nil => exact .inl ⟨rfl, List.filter_eq_nil_iff.1 h⟩
  | cons c rest =>
    obtain ⟨r, hr, hmem, hcr, hall⟩ := foldl_betterOf s rest c
    have hin : r ∈ l.filter s.destAccepts := by
      rw [h]
      rcases hmem with rfl | hmem
      · exact .head _
      · exact .tail _ hmem
    refine .inr ⟨r, hr, (List.mem_filter.1 hin).1, (List.mem_filter.1 hin).2, fun d hd ha => ?_⟩
    have hd' : d ∈ c :: rest := h ▸ List.mem_filter.2 ⟨hd, ha⟩
    rcases hd' with _ | ⟨_, hd'⟩
    · exact hcr
    · exact hall d hd'

theorem Line.accepts_iff (l : Line) (live : Bool) : l.accepts live = true ↔ queueAccepts l live := by
  unfold Line.accepts
  rw [decide_eq_true_eq]
  cases live <;> exact Iff.rfl

theorem lineOf_val {n : Nat} (h : n ≤ 3) : (lineOf n).val = n := Nat.mod_eq_of_lt (by omega)

theorem lineOf_eq {n : Nat} {k : Fin 4} (h : k.val = n) : lineOf n = k := by
  subst h
  exact Fin.ext (lineOf_val (by omega))

/-- Whether a destination accepts an offer (R169). -/
theorem State.destAccepts_iff {s : State} {c : Candidate} (hline : c.kind = .rackTune → parByte c.body.p2 0 ≤ 3) :
    s.destAccepts c = true ↔ destinationAccepts s c := by
  have hqueue : ∀ k : Fin 4, k.val = parByte c.body.p2 0 → ((s.line (lineOf (paramByte c.body.p2 0))).accepts false = true ↔
      ∀ k : Fin 4, k.val = parByte c.body.p2 0 → (s.line k).live.length + (s.line k).plan.length < 6) := by
    intro k hk
    rw [Line.accepts_iff, show paramByte c.body.p2 0 = parByte c.body.p2 0 from rfl, lineOf_eq hk]
    refine ⟨fun h j hj => ?_, fun h => h k hk⟩
    rw [show j = k from Fin.ext (hj.trans hk.symm)]
    exact h
  unfold State.destAccepts destinationAccepts
  revert hline
  cases hkind : c.kind <;> intro hline <;> simp [heldDest, Board.held]
  exact hqueue ⟨parByte c.body.p2 0, by have := hline rfl; omega⟩ rfl

theorem Candidate.priority_eq (c : Candidate) : c.priority = min c.body.priority 3 := rfl

theorem State.distance_eq (s : State) (slot : Nat) : s.distance slot = slotsFromCursor s slot := rfl

/-! ### The take of an order (R171) -/

theorem State.writeState_eq_boardAsks {s : State} {slot : Nat} (code : Nat) (p : BoardPos)
    (h : s.allowed true (s.latch.boardAddr + 64 * slot) 2 = true) :
    s.writeState slot code p = boardAsks s true (s.latch.boardAddr + 64 * slot) 2 (halfBytes code) p :=
  State.writeState_of_allowed code p h

theorem State.carry_slot (s : State) (c : Candidate) : (s.carry c).2.slot = c.slot := by
  unfold State.carry
  split
  · rfl
  · unfold State.watchRelease
    dsimp only
    split <;> rfl
  · rfl

/-- An immediate order's completion is presented, where the windows permit it. -/
theorem State.immEnds_eq_resultBurst {s : State} {r : State × Completion} (sound : List Candidate)
    (h : r.1.control = s.control) (hallowed : s.allowed true (s.latch.boardAddr + 64 * r.2.slot + 44) 6 = true) :
    State.immEnds r sound = resultBurst r.1 r.2 (.immResultWait r.2 sound) := by
  refine State.writeResult_eq_resultBurst _ ?_
  rw [State.allowed_of_control h, State.latch_of_control h]
  exact hallowed

theorem State.takeOrder_of_held {s : State} {c : Candidate} {d : HeldDest} (sound : List Candidate)
    (h : heldDest c.kind = some d) : s.takeOrder c sound = State.handHeld
      { s.advanceCursor c.slot with
        board := { (s.advanceCursor c.slot).board.hold d c.slot with pos := .choose (without c.slot sound) } } d c := by
  unfold State.takeOrder
  rw [h]

theorem State.takeOrder_of_immediate {s : State} {c : Candidate} (sound : List Candidate)
    (h : c.kind = .watchSetup ∨ c.kind = .watchRelease ∨ c.kind = .lineSetup) :
    s.takeOrder c sound = State.immEnds ((s.advanceCursor c.slot).carry c) (without c.slot sound) := by
  unfold State.takeOrder
  rcases h with h | h | h <;> rw [h] <;> rfl

/-- A STORE_SETTINGS that is taken asks for its block, and waits for it. -/
theorem State.settingsTake_settingsGo {s : State} {slot : Nat} {b : OrderBody} (hm : s.mail.settings = none)
    (h : s.allowed false b.listA 24 = true) : (s.settingsTake slot b).settingsGo = { s with
      settings := { s.settings with job := .reading slot }
      port := { s.port with transfers := s.port.transfers ++ [⟨.settings, false, b.listA, 24, []⟩] } } := by
  have htake : s.settingsTake slot b = { s with
      settings := { s.settings with job := .reading slot }
      port := { s.port with transfers := s.port.transfers ++ [⟨.settings, false, b.listA, 24, []⟩] } } :=
    State.present_of_allowed (s := s.setJob (.reading slot)) .settings [] h
  rw [htake]
  unfold State.settingsGo
  dsimp only
  rw [hm]

/-- Settles O18. -/
theorem dispatchTakesHighestPriorityFromCursor : Obligations.DispatchTakesHighestPriorityFromCursor := by
  refine ⟨fun l s hline => ?choice, fun sound s => ⟨?none, fun c hending hc => ?_⟩, fun c e sound s => ?waits,
    fun c sound s => ?take⟩
  case choice =>
    have haccepts : ∀ c ∈ l, (s.destAccepts c = true ↔ destinationAccepts s c) := fun c hc =>
      State.destAccepts_iff (hline c hc)
    rcases s.chooseCandidate_cases l with ⟨hnone, hall⟩ | ⟨r, hr, hmem, hacc, hbest⟩
    · rw [hnone]
      refine ⟨iff_of_true rfl fun c hc h => hall c hc ((haccepts c hc).2 h), ?_⟩
      rintro c ⟨⟩
    · rw [hr]
      refine ⟨iff_of_false (by simp) fun h => h r hmem ((haccepts r hmem).1 hacc), ?_⟩
      rintro c ⟨⟩
      exact ⟨hmem, (haccepts r hmem).1 hacc, fun d hd hda => hbest d hd ((haccepts d hd).2 hda)⟩
  case none =>
    rintro (h | h)
    · exact if_pos h
    · unfold State.chooseStep
      rw [h]
      exact ite_self _
  case waits =>
    intro u
    refine ⟨fun hpos => ?_, fun hpos => ?_, fun hpos hallowed => ?_⟩
    · have hmicro : s.boardMicro = s.surveyRead fun s _ => s.takeOrder c sound := by
        unfold State.boardMicro
        rw [hpos]
      exact ⟨fun hm => hmicro.trans (State.surveyRead_of_fault _ hm),
        fun bs hm => hmicro.trans (State.surveyRead_of_data _ hm)⟩
    · have hmicro : ∀ a, s.mail.board = some a → s.boardMicro = some (u.tuneTaken e sound a) := fun a hm => by
        unfold State.boardMicro
        rw [hpos]
        exact State.boardMail_of_answer _ hm
      refine ⟨fun hm hf => (hmicro _ hm).trans (congrArg some (if_pos ⟨rfl, hf⟩)), fun a hm hgo hallowed => ?_⟩
      rw [hmicro a hm]
      refine congrArg some ((if_neg ?_).trans (State.writeResult_eq_resultBurst (s := u.advanceCursor e.slot) _ hallowed))
      rintro ⟨ha, hf⟩
      rcases hgo with h | h
      · exact h ha
      · rw [h] at hf
        cases hf
    · have hmicro : ∀ a, s.mail.board = some a → s.boardMicro = some (State.immEnds (match a with
          | .fault => (u, ⟨c.slot, true, .memory, 0, 0⟩)
          | .ok bs => u.rackRoster c.slot c.body bs) sound) := fun a hm => by
        unfold State.boardMicro
        rw [hpos]
        exact State.boardMail_of_answer _ hm
      refine ⟨fun hm => ?_, fun bs hm => ?_⟩
      · exact (hmicro _ hm).trans (congrArg some (State.immEnds_eq_resultBurst (s := s) sound rfl hallowed))
      · exact (hmicro _ hm).trans (congrArg some (State.immEnds_eq_resultBurst (s := s) sound (by simp; rfl) hallowed))
  case take =>
    intro b rest carried roomForResult
    refine ⟨fun hk => ?_, fun hk => ?_, fun hk hm hallowed => ?_, fun hk hroom => ?_, fun hk hn hroom => ?_,
      fun hk hn hallowed => ?_, fun hk => ?_⟩
    · have hdest : heldDest c.kind = some .engine := by
        revert hk
        cases c.kind <;> simp [heldDest]
      rw [State.takeOrder_of_held sound hdest]
      rfl
    · rw [State.takeOrder_of_held (d := .sweep) sound (by rw [hk]; rfl)]
      rfl
    · rw [State.takeOrder_of_held (d := .settings) sound (by rw [hk]; rfl)]
      exact State.settingsTake_settingsGo hm hallowed
    · refine (State.takeOrder_of_immediate sound hk).trans ?_
      refine State.immEnds_eq_resultBurst (s := s.advanceCursor c.slot) rest (by simp) ?_
      rw [State.carry_slot]
      exact hroom
    · show s.takeOrder c sound = _
      unfold State.takeOrder
      rw [hk]
      exact (if_pos hn).trans (State.immEnds_eq_resultBurst (s := s.advanceCursor c.slot) rest (by simp) hroom)
    · unfold State.takeOrder
      rw [hk]
      refine (if_neg hn).trans ?_
      rw [State.presentRead, State.present_of_allowed .board [] ?_]
      · rfl
      · exact hallowed
    · unfold State.takeOrder
      rw [hk]
      rfl
  · intro rest address
    refine ⟨fun hk hallowed => ?_, fun u e hk hr hallowed => ?_⟩
    · unfold State.chooseStep
      rw [if_neg (by simp [hending]), hc]
      refine (if_neg hk).trans (State.writeState_eq_boardAsks _ _ hallowed)
    · unfold State.chooseStep
      rw [if_neg (by simp [hending]), hc]
      refine (if_pos hk).trans ?_
      rw [hr]
      obtain ⟨hcontrol, -⟩ := State.rackTune_some s hr
      have hlatch := State.latch_of_control hcontrol
      dsimp only
      rw [State.writeState_eq_boardAsks _ _ (by rw [State.allowed_of_control hcontrol, hlatch]; exact hallowed), hlatch]
      rfl

end Sys2Proof.Machine
end

section
/-! The completions of the Board Handler (chapter 9, 9.5). -/

namespace Sys2Proof.Machine

theorem halfBytes_stateEnded (failed : Bool) : halfBytes (stateEnded failed) = [if failed then 4 else 3, 0] := by
  cases failed <;> rfl

/-- The end of the only completion of the list: its slot is released, and in RUNNING a survey begins (R172). -/
theorem State.listEnded_last {s : State} {c : Completion} (h : s.board.completions = [c]) :
    s.listEnded c = State.setCause { s with board := slotReleased s c } .orderEnded := by
  unfold State.listEnded
  dsimp only
  by_cases hrun : s.run = .running
  · rw [State.trigger_begins (by simpa using hrun) (by simp) (by simp [h])]
    simp only [Board.release, h, List.tail_cons]
    refine State.eq_of_fields ?_
    simp [slotReleased, hrun]
  · rw [State.trigger_of_not_running (by simpa using hrun)]
    simp only [Board.release, h, List.tail_cons]
    refine State.eq_of_fields ?_
    simp [slotReleased, hrun]

/-- The state word of a listed completion has been written or has faulted, or its result burst has faulted. -/
theorem State.boardMicro_listEnds {s : State} {c : Completion} {a : Answer} (hm : s.mail.board = some a)
    (h : s.board.pos = .listStateWait c ∨ s.board.pos = .listResultWait c ∧ a = .fault) :
    s.boardMicro = some ((s.setMail .board none).listEnded c) := by
  unfold State.boardMicro
  rcases h with h | ⟨h, rfl⟩
  · rw [h]
    exact State.boardMail_of_answer _ hm
  · rw [h]
    exact State.boardMail_of_answer _ hm

/-- The only completion of the list has ended: the Board Handler releases its slot and rests. -/
theorem State.boardGo_listEnds {s : State} {c : Completion} {a : Answer} (hm : s.mail.board = some a)
    (h : s.board.pos = .listStateWait c ∨ s.board.pos = .listResultWait c ∧ a = .fault) (hlist : s.board.completions = [c]) :
    s.boardGo = State.setCause { s.setMail .board none with board := slotReleased s c } .orderEnded := by
  have hmicro := State.boardMicro_listEnds hm h
  rw [State.listEnded_last (by exact hlist)] at hmicro
  refine State.boardGo_of_some hmicro (State.boardMicro_of_rest ?_)
  by_cases hrun : s.run = .running
  · exact .inr (if_pos (decide_eq_true hrun))
  · exact .inl (if_neg (by simpa using hrun))

/-- A faulted burst of the only transfer: the port is free, the fault recorded and told to its owner. -/
theorem State.faultBurst_of_single {s : State} {src : Source} {x : Transfer} (h : s.port.phase = .granted src)
    (hx : s.port.transfers = [x]) (k addr : Nat) (kind : FaultKind) : s.faultBurst x k addr kind =
      (State.recordFault { s with
        mem := x.store s.mem (beatsMoved s.beatBytes x.addr (burstLength s.beatBytes x.addr x.left) k)
        port := ⟨[], .free, src⟩ } addr kind x.owner.requester).setMail x.owner (some .fault) := by
  unfold State.faultBurst
  dsimp only
  rw [Port.release_drop_single h hx]

/-- The end of the only completion of the list, after a fault has been recorded and told to the Board Handler. -/
theorem State.boardGo_after_fault {s u : State} {c : Completion} {addr : Nat} {kind : FaultKind}
    (hu : { u with mem := s.mem, port := s.port } = s) (hport : u.port = ⟨[], .free, .board⟩)
    (h : s.board.pos = .listResultWait c ∨ s.board.pos = .listStateWait c) (hlist : s.board.completions = [c]) :
    let t := ((u.recordFault addr kind .board).setMail .board (some .fault)).boardGo.serveBus
    t.board = slotReleased s c ∧ t.port = ⟨[], .free, .board⟩ ∧
      (∀ d, t.hasCause d = (s.hasCause d || decide (d = .orderEnded ∨ d ∈ [Cause.memoryFault]))) ∧
      { t with board := s.board, port := s.port, mem := s.mem, mail := s.mail, causes := s.causes, fault := s.fault } = s := by
  intro t
  have hcauses := u.recordFault_hasCause addr kind .board
  have hframe : ∀ v, v = u.recordFault addr kind .board → v.board = s.board ∧ v.run = s.run ∧ v.port = ⟨[], .free, .board⟩ ∧
      { v with port := s.port, mem := s.mem, causes := s.causes, fault := s.fault } = s := by
    rintro v rfl
    rw [← hu]
    exact ⟨by simp, by simp, by simpa using hport, State.eq_of_fields (by simp)⟩
  have hsame : ∀ d, u.hasCause d = s.hasCause d := fun d => by rw [← hu]; rfl
  generalize hv : u.recordFault addr kind .board = v at hcauses
  obtain ⟨hboard, hrun, hvport, hrest⟩ := hframe v hv.symm
  have hgo := State.boardGo_listEnds (s := v.setMail .board (some .fault)) (c := c) (a := .fault) rfl
    (by rw [show (v.setMail .board (some .fault)).board = s.board from hboard]; exact h.symm.imp id fun g => ⟨g, rfl⟩)
    (by rw [show (v.setMail .board (some .fault)).board = s.board from hboard]; exact hlist)
  have hslot : slotReleased (v.setMail .board (some .fault)) c = slotReleased s c := by
    unfold slotReleased
    rw [show (v.setMail .board (some .fault)).board = s.board from hboard,
      show (v.setMail .board (some .fault)).run = s.run from hrun]
  rw [hslot] at hgo
  have ht : t = _ := (congrArg State.serveBus (show _ = State.boardGo (v.setMail .board (some .fault)) by rw [hv])).trans
    ((congrArg State.serveBus hgo).trans (State.serveBus_of_empty (by simp [hvport])))
  rw [ht]
  refine ⟨rfl, hvport, fun d => (State.hasCause_setCause _ _ d).trans ?_, ?_⟩
  · rw [show State.hasCause { (v.setMail .board (some .fault)).setMail .board none with board := slotReleased s c } d =
      v.hasCause d from rfl, hcauses, hsame]
    cases s.hasCause d <;> cases d <;> rfl
  · rw [← hrest]
    rfl

/-- Settles O20. -/
theorem completionIsWrittenAndReleasesSlot : Obligations.CompletionIsWrittenAndReleasesSlot := by
  refine ⟨fun c rest s hpos hlist hm hallowed => ?oldest, fun c x s hphase hx howner hwrite hlast hpos hallowed => ?state,
    fun c x s hphase hx howner hwrite hlist => ?ended, fun c p q next s hpq => ?survey⟩
  case oldest =>
    refine congrArg Host.Outcome.next ((s.whenDue_of_due _ (by simp [State.completionDue, hpos, hlist])).trans ?_)
    unfold State.writeOldest
    rw [hlist]
    dsimp only
    rw [State.writeResult_eq_resultBurst _ hallowed, State.boardGo_of_none]
    exact State.boardMicro_of_awaits (s := resultBurst s c (.listResultWait c)) rfl hm
  case state =>
    have hprog := State.inProgress_single hphase hx (by rw [howner]; rfl)
    have hend := State.endBurst_of_last hlast
    rw [Port.release_drop_single hphase hx, howner, hwrite] at hend
    generalize hu : s.endBurst x = u at hend
    have hmicro : u.boardMicro = some ((u.setMail .board none).writeState c.slot (stateEnded c.failed) (.listStateWait c)) := by
      have hm : u.mail.board = some (.ok []) := by rw [hend]; rfl
      unfold State.boardMicro
      rw [show u.board.pos = .listResultWait c by rw [hend]; exact hpos]
      exact State.boardMail_of_answer _ hm
    rw [State.writeState_eq_boardAsks _ _ (by rw [hend]; exact hallowed), halfBytes_stateEnded] at hmicro
    have hexec := exec_burstComplete hphase hprog
    rw [howner, hu, show u.wake .board = u.boardGo from rfl,
      State.boardGo_of_some hmicro (State.boardMicro_of_awaits rfl (by rw [hend]; rfl)),
      State.serveBus_single (x := ⟨.board, true, _, 2, _⟩) (by rw [hend]; rfl) (by rw [hend]; rfl)] at hexec
    refine ⟨_, hexec, ?_, ?_, ?_⟩
    · rw [hend]
      rfl
    · rw [hend]
      rfl
    · rw [hend]
      rfl
  case ended =>
    have hprog := State.inProgress_single hphase hx (by rw [howner]; rfl)
    intro ended
    refine ⟨fun hpos hlast => ?_, fun hpos k => ⟨?_, ?_⟩⟩
    · have hend := State.endBurst_of_last hlast
      rw [Port.release_drop_single hphase hx, howner, hwrite] at hend
      generalize hu : s.endBurst x = u at hend
      have hgo := State.boardGo_listEnds (s := u) (c := c) (a := .ok []) (by rw [hend]; rfl) (.inl (by rw [hend]; exact hpos))
        (by rw [hend]; exact hlist)
      have hexec := exec_burstComplete hphase hprog
      rw [howner, hu, show u.wake .board = u.boardGo from rfl, hgo, State.serveBus_of_empty (by rw [hend]; rfl)] at hexec
      refine ⟨_, hexec, by rw [hend]; rfl, by rw [hend]; rfl, by rw [hend]; rfl, fun d => ?_, by rw [hend]; rfl⟩
      rw [State.hasCause_setCause, hend]
      simp [State.hasCause]
    · have hexec := exec_transferTimeout_of_granted k hphase hprog
      rw [howner, State.faultBurst_of_single hphase hx, howner] at hexec
      exact ⟨_, hexec, State.boardGo_after_fault rfl rfl hpos hlist⟩
    · have hexec := exec_busError k hphase hprog
      rw [howner, State.faultBurst_of_single hphase hx, howner] at hexec
      exact ⟨_, hexec, State.boardGo_after_fault rfl rfl hpos hlist⟩
  case survey =>
    intro u goesOn
    have hanswered : s.boardMicro = some (u.answered next) → goesOn := fun hmicro =>
      ⟨_, hmicro, fun d => State.hasCause_setCause u .orderEnded d, rfl⟩
    refine ⟨fun bs hpos hm hallowed => ?_, fun hpos hm => hanswered ?_, fun hpos hm => hanswered ?_⟩
    · have hmicro : s.boardMicro = some (u.writeState c.slot (stateEnded c.failed) q) := by
        unfold State.boardMicro
        rcases hpq with ⟨sound, rfl, rfl, rfl⟩ | ⟨left, sound, rfl, rfl, rfl⟩ <;> rw [hpos] <;>
          exact State.boardMail_of_answer _ hm
      rw [hmicro, State.writeState_eq_boardAsks _ _ (by exact hallowed), halfBytes_stateEnded]
      rfl
    · unfold State.boardMicro
      rcases hpq with ⟨sound, rfl, rfl, rfl⟩ | ⟨left, sound, rfl, rfl, rfl⟩ <;> rw [hpos] <;>
        exact State.boardMail_of_answer _ hm
    · obtain ⟨a, hm⟩ := Option.isSome_iff_exists.1 hm
      unfold State.boardMicro
      rcases hpq with ⟨sound, rfl, rfl, rfl⟩ | ⟨left, sound, rfl, rfl, rfl⟩ <;> rw [hpos] <;>
        exact State.boardMail_of_answer _ hm

end Sys2Proof.Machine
end

section
/-! The Rack Lines' work, said in the terms of the statements (chapter 7). -/

namespace Sys2Proof.Machine

/-! ### Frames (R125, R126) -/

theorem tuneFrame_eq (e : Tune) : tuneFrame e.addr e.slot e.code = tuneBytes e := rfl

theorem pollFrame_eq (addr first : Nat) : pollFrame addr first = pollBytes addr first := rfl

theorem Transaction.frame_eq (x : Transaction) : x.frame = requestOf x := by
  cases x <;> rfl

/-! ### A queue that ends, and the next work (R133 to R139) -/

theorem Line.foldl_deliver (l : Line) (es : List Tune) : es.foldl (fun l e => l.deliver e .noReply) l = { l with
    outcomes := l.outcomes ++ (es.filter fun e => decide (e.id ≠ 65535)).map fun e => ⟨e.id, e.code, .noReply⟩
    liveOutcomes := l.liveOutcomes ++ (es.filter fun e => e.live).map fun e => ⟨e.id, e.code, .noReply⟩ } := by
  induction es generalizing l with
  | nil => simp
  | cons e es ih =>
    rw [List.foldl_cons, ih]
    by_cases hid : e.id = 65535 <;> cases hlive : e.live <;>
      simp [Line.deliver, hid, hlive, Config.noId, TuneOutcome.forWatch]

/-- An off line ends its queue. -/
theorem Line.drain_eq (l : Line) : l.drain = queueEnded l := by
  rw [Line.drain, Line.foldl_deliver]
  simp [queueEnded, Line.queued]

/-- A transaction begun. -/
theorem Line.begin_eq (l : Line) (x : Transaction) : l.begin x = workBegun l x (requestOf x) := by
  unfold Line.begin workBegun
  split
  · rw [← Transaction.frame_eq]
    rfl
  · rfl

/-- A line between transactions goes on to its next work. -/
theorem Line.choose_of_none {l : Line} (h : l.txn = none) : l.choose = nextWork l := by
  unfold Line.choose nextWork
  rw [if_neg (by simp [h]), Line.isOn, Line.drain_eq]
  by_cases hoff : l.values.divisor = 0
  · rw [if_pos (by simp [hoff]), if_pos hoff]
  · rw [if_neg (by simp [hoff]), if_neg hoff, Line.takeHead]
    cases hlive : l.live with
    | cons e rest =>
      simp only [Line.begin_eq]
      rfl
    | nil =>
      cases hplan : l.plan with
      | cons e rest =>
        simp only [Line.begin_eq]
        rfl
      | nil =>
        simp only [Line.begin_eq]
        split
        · rename_i hdue hr
          simp only [hdue, hr]
          rfl
        · rename_i hno
          split <;> simp_all

theorem Line.choose_of_some {l : Line} (h : l.txn.isSome = true) : l.choose = l := if_pos h

/-- A line takes an entry that its queue accepts. -/
theorem Line.enqueue_choose (l : Line) (e : Tune) : (l.enqueue e).choose = lineTakes l e := by
  have henqueue : l.enqueue e = if e.live then { l with live := l.live ++ [e] } else { l with plan := l.plan ++ [e] } := rfl
  unfold lineTakes
  rw [← henqueue]
  have htxn : (l.enqueue e).txn = l.txn := by
    rw [henqueue]
    split <;> rfl
  cases h : l.txn with
  | none => exact Line.choose_of_none (htxn.trans h)
  | some x => exact Line.choose_of_some (by rw [htxn, h]; rfl)

/-- A transaction that ends. -/
theorem Line.endTxn_eq (l : Line) : l.endTxn = lineGoesOn l := by
  unfold Line.endTxn lineGoesOn
  cases h : l.pendingSetup with
  | none => exact Line.choose_of_none rfl
  | some v =>
    have htxn : (Line.apply { l with txn := none } v).txn = none := by
      unfold Line.apply
      split <;> rfl
    exact Line.choose_of_none htxn

/-- An offer accepted changes its line alone. -/
theorem State.offer_eq (s : State) (k : Fin 4) (e : Tune) : s.offer k e =
    if (s.line k).accepts e.live then some (s.onLine k fun l => lineTakes l e) else none := by
  unfold State.offer
  simp only [Line.enqueue_choose]

/-! ### The stages that a rack serves (R178) -/

theorem State.mem_stagesServed (s : State) (fits : Rack → Bool) (st : Nat) : st ∈ s.stagesServed fits ↔
    st < 12 ∧ ∃ e ∈ s.air, e.stage = st ∧ e.air = .onAir ∧ ∃ x, e.rack = some x ∧ fits x = true := by
  simp [State.stagesServed, List.any_eq_true, Option.any_eq_true, Config.stages, and_assoc]

/-- The marks of the stages that racks serve. -/
theorem State.markStages_marksAdded (s : State) (fits : Rack → Bool) :
    marksAdded s (s.markAll ((s.stagesServed fits).map RecId.stage)) fun r =>
      ∃ e ∈ s.air, e.air = .onAir ∧ r = .stage e.stage ∧ ∃ x, e.rack = some x ∧ fits x = true := by
  obtain ⟨hmarks, hrest⟩ := marksAdded_iff.1 (s.markAll_marksAdded ((s.stagesServed fits).map RecId.stage))
  refine marksAdded_iff.2 ⟨fun r => (hmarks r).trans (or_congr_right (and_congr_right fun hex => ?_)), hrest⟩
  rw [List.mem_map]
  constructor
  · rintro ⟨st, hst, rfl⟩
    obtain ⟨-, e, he, hstage, hair, x, hx, hfits⟩ := (s.mem_stagesServed fits st).1 hst
    exact ⟨e, he, hair, by rw [hstage], x, hx, hfits⟩
  · rintro ⟨e, he, hair, rfl, x, hx, hfits⟩
    refine ⟨e.stage, (s.mem_stagesServed fits _).2 ⟨?_, e, he, rfl, hair, x, hx, hfits⟩, rfl⟩
    exact of_decide_eq_true hex

end Sys2Proof.Machine
end

section
/-! The orders that are carried to their end within their take: WATCH_SETUP, WATCH_RELEASE, LINE_SETUP, RACK_ROSTER and
RACK_TUNE (9.4). -/

namespace Sys2Proof.Machine

theorem differing_cons (a b : Nat) (l : List (Int × Int)) :
    differing (((a : Int), (b : Int)) :: l) = (if a = b then 0 else 1) + differing l := by
  unfold differing
  by_cases h : a = b
  · simp [h]
  · simp [h, Nat.add_comm]

theorem differing_nil : differing [] = 0 := rfl

/-! ### WATCH_RELEASE (R160) -/

theorem WatchState.isAlert_iff (w : WatchState) : w.isAlert = true ↔ w = .alerted ∨ w = .held := by
  cases w <;> simp [WatchState.isAlert]

/-- The swap count of a carrier is cleared, and an alert ends. -/
def State.released (s : State) (id : Nat) (alert : Bool) : State :=
  let u := (s.onRec id fun x => { x with swaps := 0 }).mark (.carrier id)
  if alert then u.watchTo id .quiet 0 else u

/-- What a WATCH_RELEASE brings about. -/
theorem State.released_moves {s : State} {id : Nat} {w : WatchRec} (hw : s.watchRec id = some w) :
    WatchMoves s (s.released id w.state.isAlert)
      (fun j v => if j = id then
          (if w.state.isAlert then { v with state := .quiet, run := 0, settle := 0, swaps := 0 } else { v with swaps := 0 })
        else v)
      (fun r => r = .carrier id ∨ w.state.isAlert = true ∧ r = .stage (id / 256)) False := by
  have hcleared := (s.onRec_moves id (fun x => { x with swaps := 0 }) fun _ => rfl).trans
    ((s.onRec id fun x => { x with swaps := 0 }).mark_moves (.carrier id))
  unfold State.released
  dsimp only
  by_cases ha : w.state.isAlert = true
  · rw [if_pos ha]
    have hrec := hcleared.records id
    rw [hw] at hrec
    have hne : w.state ≠ .quiet := fun h => by simp [h, WatchState.isAlert] at ha
    refine (hcleared.trans (State.watchTo_moves _ id .quiet 0)).congr (fun j v _ => ?_) (fun r => ?_) ?_
    · by_cases hj : j = id <;> simp [hj, ha]
    · rw [hrec]
      simp [hne, WatchState.isAlert]
      tauto
    · simp [WatchState.isAlert]
  · rw [if_neg ha]
    exact hcleared.congr (fun j v _ => by simp [ha]) (fun r => by simp [ha]) (by simp)

/-! ### RACK_ROSTER (R130, R131) -/

/-- The addresses of a list that a roster takes: those within 1..30, each at its first place. -/
def addressesTaken (addrs : List Nat) : List Nat :=
  (addrs.zipIdx.filter fun p => decide (1 ≤ p.1 ∧ p.1 ≤ 30 ∧ p.1 ∉ addrs.take p.2)).map Prod.fst

theorem addressesTaken_concat (l : List Nat) (a : Nat) : addressesTaken (l ++ [a]) =
    addressesTaken l ++ if 1 ≤ a ∧ a ≤ 30 ∧ a ∉ l then [a] else [] := by
  have hbefore : l.zipIdx.filter (fun p => decide (1 ≤ p.1 ∧ p.1 ≤ 30 ∧ p.1 ∉ (l ++ [a]).take p.2)) =
      l.zipIdx.filter fun p => decide (1 ≤ p.1 ∧ p.1 ≤ 30 ∧ p.1 ∉ l.take p.2) :=
    List.filter_congr fun p hp => by
      have hlt : p.2 < l.length := by simpa using List.snd_lt_of_mem_zipIdx hp
      rw [List.take_append_of_le_length hlt.le]
  unfold addressesTaken
  rw [List.zipIdx_append, List.filter_append, List.map_append, hbefore]
  refine congrArg _ ?_
  rw [List.zipIdx_singleton, Nat.zero_add, List.filter_singleton, List.take_left']
  · by_cases ha : 1 ≤ a ∧ a ≤ 30 ∧ a ∉ l
    · rw [if_pos ha]
      simp [ha]
    · rw [if_neg ha]
      simp [ha]
  · rfl

theorem mem_addressesTaken (l : List Nat) (a : Nat) : a ∈ addressesTaken l ↔ 1 ≤ a ∧ a ≤ 30 ∧ a ∈ l := by
  induction l using List.reverseRecOn with
  | nil => simp [addressesTaken]
  | append_singleton l b ih =>
    rw [addressesTaken_concat, List.mem_append, ih]
    rw [List.mem_append, List.mem_singleton]
    by_cases hb : 1 ≤ b ∧ b ≤ 30 ∧ b ∉ l
    · rw [if_pos hb, List.mem_singleton]
      constructor
      · rintro (⟨hlow, hhigh, ha⟩ | rfl)
        · exact ⟨hlow, hhigh, .inl ha⟩
        · exact ⟨hb.1, hb.2.1, .inr rfl⟩
      · rintro ⟨hlow, hhigh, ha | rfl⟩
        · exact .inl ⟨hlow, hhigh, ha⟩
        · exact .inr rfl
    · rw [if_neg hb]
      constructor
      · rintro (⟨hlow, hhigh, ha⟩ | h)
        · exact ⟨hlow, hhigh, .inl ha⟩
        · cases h
      · rintro ⟨hlow, hhigh, ha | rfl⟩
        · exact .inl ⟨hlow, hhigh, ha⟩
        · exact .inl ⟨hlow, hhigh, by_contra fun hn => hb ⟨hlow, hhigh, hn⟩⟩

theorem addressesTaken_length_le (l : List Nat) : (addressesTaken l).length ≤ l.length := by
  refine (List.length_map ..).trans_le ((List.length_filter_le _ _).trans ?_)
  simp

/-- The entry of a roster for an address: the old one's, or a fresh one (R130). -/
def entryFor (old : List RosterEntry) (a : Nat) : RosterEntry :=
  (old.find? fun e => e.addr == a).getD ⟨a, .unknown, 0, 0⟩

theorem entryFor_addr (old : List RosterEntry) (a : Nat) : (entryFor old a).addr = a := by
  unfold entryFor
  cases h : old.find? fun e => e.addr == a with
  | none => rfl
  | some e => simpa using List.find?_some h

/-- A new roster holds the addresses taken, in list order. -/
theorem newRoster_eq (old : List RosterEntry) (l : List Nat) (h : l.length ≤ 8) :
    newRoster old l = (addressesTaken l).map (entryFor old) := by
  induction l using List.reverseRecOn with
  | nil => rfl
  | append_singleton l a ih =>
    rw [List.length_append, List.length_singleton] at h
    have ih := ih (by omega)
    rw [newRoster, List.foldl_append, ← newRoster, ih, addressesTaken_concat, List.map_append, List.foldl_cons, List.foldl_nil]
    have hany : ((addressesTaken l).map (entryFor old)).any (fun e => e.addr == a) = true ↔ a ∈ addressesTaken l := by
      simp [List.any_eq_true, entryFor_addr]
    have hlen : ¬ Config.rosterCapacity ≤ ((addressesTaken l).map (entryFor old)).length := by
      have := addressesTaken_length_le l
      rw [List.length_map, Config.rosterCapacity]
      omega
    simp only [hany, hlen, or_false, mem_addressesTaken]
    by_cases ha : 1 ≤ a ∧ a ≤ 30 ∧ a ∉ l
    · rw [if_pos ha, if_neg]
      · rfl
      · rintro (h | h | ⟨-, -, h⟩)
        · omega
        · omega
        · exact ha.2.2 h
    · rw [if_neg ha, if_pos, List.map_nil, List.append_nil]
      by_contra hn
      rw [not_or, not_or] at hn
      exact ha ⟨by omega, by omega, fun hm => hn.2.2 ⟨by omega, by omega, hm⟩⟩

/-! ### The five orders -/

theorem State.carry_watchSetup (s : State) (slot : Nat) (b : OrderBody) :
    s.carry ⟨slot, .watchSetup, b⟩ = s.watchSetup slot b := rfl

/-- WATCH_SETUP (R145). -/
theorem State.watchSetup_eq (s : State) (slot : Nat) (b : OrderBody) (p : WatchParams)
    (hp : p = ⟨min (parByte b.p0 0) 200, max (parByte b.p0 1) 1, max 1 (min (parByte b.p0 2) 7), min (parByte b.p0 3) 15,
      max 1 (min (parByte b.p1 0) 7)⟩) : s.watchSetup slot b = ({ s with watch := { s.watch with params := p } },
      ⟨slot, false, .ok, differing [(p.foreign, parByte b.p0 0), (p.error, parByte b.p0 1), (p.confirm, parByte b.p0 2),
          (p.settle, parByte b.p0 3), (p.swapLimit, parByte b.p1 0)], 0⟩) := by
  subst hp
  simp only [differing_cons, differing_nil, Nat.add_zero, ← Nat.add_assoc]
  rfl

/-- A line's new values are off exactly when the divisor given is 0. -/
theorem Line.setUp_eq (l : Line) (d t i : Nat) : l.setUp (readLineValues d t i) =
    if d ≠ 0 then { l with values := readLineValues d t i, pendingSetup := none }
    else queueEnded { l with values := readLineValues d t i, pendingSetup := none, pollDue := false, phase := .quiet } := by
  have hzero : (readLineValues d t i).divisor = 0 ↔ d = 0 := by
    simp [readLineValues]
  unfold Line.setUp Line.apply
  by_cases hd : d = 0
  · rw [if_neg (not_not.2 hd), if_pos (hzero.2 hd), ← Line.drain_eq]
    exact if_neg (by simp [Line.isOn, hzero.2 hd])
  · rw [if_pos hd, if_neg (mt hzero.1 hd)]
    exact if_pos (by simp [Line.isOn, hzero, hd])

/-- LINE_SETUP changes one line (R122). -/
theorem State.lineSetup_state (s : State) (slot : Nat) {b : OrderBody} {k : Fin 4} (hk : k.val = b.p0) :
    (s.lineSetup slot b).1 = s.onLine k fun l =>
      if l.txn.isSome then
        { l with pendingSetup := some (readLineValues (b.p1 % 65536) (parByte b.p2 0) (parByte b.p2 1)) }
      else l.setUp (readLineValues (b.p1 % 65536) (parByte b.p2 0) (parByte b.p2 1)) := by
  rw [← lineOf_eq hk]
  rfl

/-- A line whose roster is loaded (R130, R131). -/
def rosterLoaded (new : List RosterEntry) (l : Line) : Line :=
  { l with
    roster := new, rotation := 0, txn := l.txn.map Transaction.reload
    notices := l.notices ++ (l.roster.filter fun e => decide (e.state = .lost) &&
      !new.any fun n => n.addr == e.addr).map fun e => ⟨false, e.addr⟩ }

/-- The LOST racks that a load of these addresses removes. -/
theorem rosterLoaded_eq (l : Line) (taken : List Nat) : rosterLoaded (taken.map (entryFor l.roster)) l = { l with
    roster := taken.map (entryFor l.roster), rotation := 0, txn := l.txn.map Transaction.reload
    notices := l.notices ++
      (l.roster.filter fun e => decide (e.state = .lost ∧ e.addr ∉ taken)).map fun e => ⟨false, e.addr⟩ } := by
  unfold rosterLoaded
  have hgone : (l.roster.filter fun e => decide (e.state = .lost) &&
        !(taken.map (entryFor l.roster)).any fun n => n.addr == e.addr) =
      l.roster.filter fun e => decide (e.state = .lost ∧ e.addr ∉ taken) := by
    refine List.filter_congr fun e _ => ?_
    rw [Bool.decide_and]
    congr 1
    rw [Bool.eq_iff_iff]
    simp only [Bool.not_eq_true', List.any_map, List.any_eq_false, Function.comp_apply, entryFor_addr, beq_iff_eq,
      decide_eq_true_eq]
    exact ⟨fun h hm => h _ hm rfl, fun h x hx hxe => h (hxe ▸ hx)⟩
  rw [hgone]

/-- RACK_ROSTER on its line (R130, R131). -/
theorem State.rackRoster_eq (s : State) (slot : Nat) {b : OrderBody} (list : List Byte) {k : Fin 4} (hk : k.val = b.p0) :
    s.rackRoster slot b list =
      (let new := newRoster (s.line k).roster (list.map BitVec.toNat)
       let u := s.onLine k (rosterLoaded new)
       ((u.mark (.line k)).markAll (((u.mark (.line k)).stagesServed fun r => decide (r.line = k)).map RecId.stage),
        ⟨slot, false, .ok, new.length, list.length - new.length⟩)) := by
  have hserved : ∀ u : State, (u.mark (.line k)).stagesServed (fun r => decide (r.line = k)) =
      u.stagesServed fun r => decide (r.line = k) := fun u => by simp [State.stagesServed]
  simp only [hserved]
  rw [← lineOf_eq hk]
  rfl

/-- A roster load: its line, and the marks of the line and of the stages that its racks serve. -/
theorem State.loadMarks (u : State) (k : Fin 4) :
    let t := (u.mark (.line k)).markAll (((u.mark (.line k)).stagesServed fun r => decide (r.line = k)).map RecId.stage)
    marksAdded u t (fun r => r = .line k ∨ ∃ e ∈ u.air, e.air = .onAir ∧ r = .stage e.stage ∧
      ∃ x, e.rack = some x ∧ x.line = k) ∧ t = { u with status := t.status } := by
  refine ⟨((u.mark_marksAdded (.line k)).trans (State.markStages_marksAdded _ _)).congr fun r => ?_,
    State.eq_of_fields (by simp)⟩
  simp

/-- WATCH_RELEASE of a carrier that is not ON_AIR (R160). -/
theorem State.watchRelease_of_none {s : State} {slot id : Nat} {b : OrderBody} (hid : lowHalf b.p0 = id)
    (he : s.onAirEntry id = none) : s.watchRelease slot b = (s, ⟨slot, true, .notOnAir, 0, 0⟩) := by
  unfold State.watchRelease
  dsimp only
  rw [hid, he]

/-- WATCH_RELEASE of a carrier that is not watched (R160). -/
theorem State.watchRelease_of_unwatched {s : State} {slot id : Nat} {b : OrderBody} {e : AirEntry}
    (hid : lowHalf b.p0 = id) (he : s.onAirEntry id = some e) (hw : s.watchRec id = none) :
    s.watchRelease slot b = (s, ⟨slot, false, .nothingDone, 0, 0⟩) := by
  unfold State.watchRelease
  dsimp only
  rw [hid, he, hw]

/-- WATCH_RELEASE of a watched carrier (R160). -/
theorem State.watchRelease_of_watched {s : State} {slot id : Nat} {b : OrderBody} {e : AirEntry} {w : WatchRec}
    (hid : lowHalf b.p0 = id) (he : s.onAirEntry id = some e) (hw : s.watchRec id = some w) :
    s.watchRelease slot b =
      (s.released id w.state.isAlert, let n := if w.state.isAlert then 1 else 0
       ⟨slot, false, if n = 0 ∧ w.swaps = 0 then .nothingDone else .ok, n, w.swaps⟩) := by
  unfold State.watchRelease
  dsimp only
  rw [hid, he, hw]
  rfl

/-- Settles O19. -/
theorem immediateOrdersActAtOnce : Obligations.ImmediateOrdersActAtOnce := by
  intro slot b s ok
  refine ⟨s.watchSetup_eq slot b _ rfl, ?release, fun k hk => ?setup, fun list k hk hlen => ?roster, fun k hk => ?tune⟩
  case release =>
    intro id released
    refine ⟨fun he => State.watchRelease_of_none rfl he, fun e he hw => State.watchRelease_of_unwatched rfl he hw,
      fun e w he hw => ?_⟩
    · intro freed
      have hfreed : w.state.isAlert = true ↔ freed := w.state.isAlert_iff
      have hmoves := State.released_moves hw
      generalize hi : id = i at he hw hmoves
      rw [show released = _ from State.watchRelease_of_watched hi he hw]
      dsimp only
      refine ⟨?_, ?_, fun j hj => ?_, ?_, hmoves.rest, ?_⟩
      · by_cases hf : freed
        · rw [hfreed.2 hf]
          simp [hf, ok]
        · rw [Bool.eq_false_iff.2 (mt hfreed.1 hf)]
          by_cases hn : w.swaps = 0 <;> simp [hf, hn, ok]
      · rw [hmoves.records, hw, Option.map_some, if_pos rfl]
        exact congrArg some (if_congr hfreed rfl rfl)
      · rw [hmoves.records]
        simp only [if_neg hj, Option.map_id']
      · exact hmoves.marks.congr fun r => by rw [hfreed]
      · rw [hmoves.frame]
        dsimp only
        rw [hmoves.causes_of_quiet]
  case setup =>
    intro divisor v l ended
    have hstate := s.lineSetup_state slot hk
    refine ⟨(s.lineSetup slot b).1, Prod.ext rfl ?_, ?_, fun j hj => ?_, by rw [hstate]; rfl⟩
    · simp only [differing_cons, differing_nil, Nat.add_zero, ← Nat.add_assoc]
      rfl
    · rw [hstate, State.line_onLine_same]
      split
      · rfl
      · exact Line.setUp_eq l divisor (parByte b.p2 0) (parByte b.p2 1)
    · rw [hstate, State.line_onLine, if_neg hj]
  case roster =>
    intro addrs sound taken l gone
    have htaken : taken = addressesTaken addrs := rfl
    have hnew : newRoster l.roster addrs = taken.map (entryFor l.roster) :=
      newRoster_eq l.roster addrs (by rw [List.length_map]; exact hlen)
    have hroster := s.rackRoster_eq slot list hk
    dsimp only at hroster
    rw [show newRoster (s.line k).roster (list.map BitVec.toNat) = taken.map (entryFor l.roster) from hnew,
      List.length_map] at hroster
    generalize hu : s.onLine k (rosterLoaded (taken.map (entryFor l.roster))) = u at hroster
    obtain ⟨hmarks, hframe⟩ := u.loadMarks k
    generalize (u.mark (.line k)).markAll _ = t at hroster hmarks hframe
    have hlines : ∀ j, t.line j = u.line j := fun j => by rw [hframe]; rfl
    refine ⟨t, hroster, ?_, fun j hj => ?_, ?_, ?_⟩
    · rw [hlines, ← hu, State.line_onLine_same, rosterLoaded_eq]
      have hreload : ∀ x : Option Transaction, x.map Transaction.reload = x.map fun x => match x with
          | .poll a first _ => .poll a first true
          | .tune e n => .tune e n := by
        rintro (_ | ⟨_, _⟩ | ⟨_, _, _⟩) <;> rfl
      rw [hreload]
      rfl
    · rw [hlines, ← hu, State.line_onLine, if_neg hj]
    · rw [← hu] at hmarks
      exact hmarks.of_eq rfl rfl
    · rw [hframe, ← hu]
      rfl
  case tune =>
    intro id e
    have htune : s.rackTune slot b = if (s.airEntry id).isSome then some (s, ⟨slot, true, .notOffAir, 0, 0⟩)
        else (s.offer k e).map fun t => (t, ⟨slot, false, .ok, 1, 0⟩) := by
      rw [← lineOf_eq hk]
      rfl
    rw [htune, State.offer_eq]
    refine ⟨fun h => if_pos h, fun hnone hno => ?_, fun hnone hyes => ?_⟩
    · rw [if_neg (by simp [hnone]), if_neg fun h => hno ((Line.accepts_iff _ _).1 h)]
      rfl
    · rw [if_neg (by simp [hnone]), if_pos ((Line.accepts_iff _ _).2 hyes)]
      refine ⟨_, rfl, State.line_onLine_same .., fun j hj => ?_, rfl⟩
      rw [State.line_onLine, if_neg hj]

end Sys2Proof.Machine
end

section
/-! An exchange judged, and the transaction that goes on or ends with it (chapter 7, 7.3 to 7.6). -/

namespace Sys2Proof.Machine

/-! ### The rack's entry (R132) -/

theorem RosterEntry.judged_eq (e : RosterEntry) (good : Bool) : e.judged good = entryJudged e good := by
  cases good <;> rfl

theorem rackOf_eq (x : Transaction) : rackOf x = x.addr := by
  cases x <;> rfl

/-- An address without an entry: nothing changes. -/
theorem State.judgeRack_of_none {s : State} {k : Fin 4} {addr : Nat} (good : Bool)
    (h : rackEntry (s.line k) addr = none) : s.judgeRack k addr good = s := by
  unfold State.judgeRack
  rw [show (s.line k).roster.find? (fun e => e.addr == addr) = none from h]

theorem State.judgeRack_of_some {s : State} {k : Fin 4} {addr : Nat} {e : RosterEntry} (good : Bool)
    (h : rackEntry (s.line k) addr = some e) : s.judgeRack k addr good =
      State.rackChanged (s.onLine k fun l =>
        { l with roster := l.roster.map fun r => if r.addr = addr then entryJudged e good else r })
        k addr e.state (entryJudged e good).state := by
  unfold State.judgeRack
  rw [show (s.line k).roster.find? (fun e => e.addr == addr) = some e from h]
  simp only [RosterEntry.judged_eq]

/-- The notices that a change of a rack's state gives (R132). -/
def rackNotices (addr : Nat) (old new : RackState) : List RackNotice :=
  if new = .lost ∧ old ≠ .lost then [⟨true, addr⟩] else if old = .lost ∧ new ≠ .lost then [⟨false, addr⟩] else []

/-- What a change of a rack's state tells the rest of the part (R132). -/
theorem State.rackChanged_spec (s : State) (k : Fin 4) (addr : Nat) (old new : RackState) :
    let t := s.rackChanged k addr old new
    t.line k = { s.line k with notices := (s.line k).notices ++ rackNotices addr old new } ∧
    (∀ c, t.hasCause c = true ↔ s.hasCause c = true ∨ c = .alert ∧ new = .lost ∧ old ≠ .lost) ∧
    marksAdded s t (fun r => old ≠ new ∧ (r = .line k ∨ ∃ e ∈ s.air, e.air = .onAir ∧
      r = .stage e.stage ∧ ∃ x, e.rack = some x ∧ x.line = k ∧ x.addr = addr)) ∧ lineAlone k s t := by
  unfold State.rackChanged
  by_cases hsame : old = new
  · rw [if_pos hsame]
    subst hsame
    refine ⟨by simp [rackNotices], fun c => by simp, (marksAdded.of_status_eq rfl).congr (by simp), fun _ _ => rfl, rfl⟩
  · rw [if_neg hsame]
    have hserved : s.stagesServed (fun r => decide (r.line = k ∧ r.addr = addr)) =
        (s.mark (.line k)).stagesServed fun r => decide (r.line = k ∧ r.addr = addr) := by simp [State.stagesServed]
    rw [hserved]
    have hmarks := ((s.mark_marksAdded (.line k)).trans
      ((s.mark (.line k)).markStages_marksAdded fun r => decide (r.line = k ∧ r.addr = addr)))
    have hframe : (s.mark (.line k)).markAll (((s.mark (.line k)).stagesServed
          fun r => decide (r.line = k ∧ r.addr = addr)).map RecId.stage) = { s with
        status := ((s.mark (.line k)).markAll (((s.mark (.line k)).stagesServed
          fun r => decide (r.line = k ∧ r.addr = addr)).map RecId.stage)).status } := State.eq_of_fields (by simp)
    generalize (s.mark (.line k)).markAll _ = u at hmarks hframe
    have hline : ∀ j, u.line j = s.line j := fun j => by rw [hframe]; rfl
    have hcause : ∀ c, u.hasCause c = s.hasCause c := fun c => by rw [hframe]; rfl
    have hmarks : ∀ v : State, v.status = u.status → marksAdded s v (fun r => old ≠ new ∧ (r = .line k ∨ ∃ e ∈ s.air,
        e.air = .onAir ∧ r = .stage e.stage ∧ ∃ x, e.rack = some x ∧ x.line = k ∧ x.addr = addr)) := fun v hv =>
      (hmarks.of_eq rfl hv).congr fun r => by simp [hsame]
    dsimp only
    by_cases hnew : new = .lost
    · have hold : old ≠ .lost := fun h => hsame (h.trans hnew.symm)
      rw [if_pos hnew, show rackNotices addr old new = [⟨true, addr⟩] from if_pos ⟨hnew, hold⟩]
      refine ⟨?_, fun c => ?_, hmarks _ rfl, fun j hj => ?_, ?_⟩
      · rw [State.line_onLine_same, show (u.setCause .alert).line k = u.line k from rfl, hline]
      · refine (Bool.eq_iff_iff.1 (State.hasCause_setCause u .alert c)).trans ?_
        rw [hcause, Bool.or_eq_true, decide_eq_true_eq]
        simp [hnew, hold]
      · rw [State.line_onLine, if_neg hj]
        exact hline j
      · rw [hframe]
        rfl
    · rw [if_neg hnew]
      by_cases hold : old = .lost
      · rw [if_pos hold, show rackNotices addr old new = [⟨false, addr⟩] from
          (if_neg fun h => hnew h.1).trans (if_pos ⟨hold, hnew⟩)]
        refine ⟨by rw [State.line_onLine_same, hline], fun c => ?_, hmarks _ rfl, fun j hj => ?_, ?_⟩
        · rw [show State.hasCause (u.onLine k _) c = u.hasCause c from rfl, hcause]
          simp [hnew]
        · rw [State.line_onLine, if_neg hj]
          exact hline j
        · rw [hframe]
          rfl
      · rw [if_neg hold, show rackNotices addr old new = [] from
          (if_neg fun h => hnew h.1).trans (if_neg fun h => hold h.1)]
        refine ⟨by rw [hline]; simp, fun c => ?_, hmarks _ rfl, fun j _ => hline j, by rw [hframe]⟩
        rw [hcause]
        simp [hnew]

theorem rackMoves_iff (l : Line) (addr : Nat) (good : Bool) (old new : RackState) : rackMoves l addr good old new = true ↔
    ∃ e, rackEntry l addr = some e ∧ e.state = old ∧ (entryJudged e good).state = new ∧ old ≠ new := by
  simp [rackMoves, Option.any_eq_true, and_assoc]

/-- The rack's state changes. -/
theorem rackChanges_iff {l : Line} {addr : Nat} {e : RosterEntry} (good : Bool) (h : rackEntry l addr = some e) :
    (∃ old new, rackMoves l addr good old new = true) ↔ e.state ≠ (entryJudged e good).state := by
  simp [rackMoves_iff, h]

/-- The rack becomes LOST. -/
theorem rackLost_iff {l : Line} {addr : Nat} {e : RosterEntry} (good : Bool) (h : rackEntry l addr = some e) :
    (∃ old, rackMoves l addr good old .lost = true) ↔ (entryJudged e good).state = .lost ∧ e.state ≠ .lost := by
  simp [rackMoves_iff, h]

theorem rackMoves_of_none {l : Line} {addr : Nat} (good : Bool) (h : rackEntry l addr = none) (old new : RackState) :
    rackMoves l addr good old new = false := by
  simp [rackMoves, h]

/-- An exchange judged: the rack's entry, and what that tells the rest of the part (R132). -/
theorem State.judgeRack_spec (s : State) (k : Fin 4) (addr : Nat) (good : Bool) :
    (s.judgeRack k addr good).line k = rackJudged (s.line k) addr good ∧
      judgedOnward k addr good false s (s.judgeRack k addr good) := by
  cases h : rackEntry (s.line k) addr with
  | none =>
    rw [State.judgeRack_of_none good h, rackJudged, h]
    refine ⟨rfl, fun c => ?_, (marksAdded.of_status_eq rfl).congr fun r => ?_, fun _ _ => rfl, rfl⟩ <;>
      simp [rackMoves_of_none good h]
  | some e =>
    rw [State.judgeRack_of_some good h]
    generalize hu : (s.onLine k fun l =>
      { l with roster := l.roster.map fun r => if r.addr = addr then entryJudged e good else r }) = u
    obtain ⟨hline, hcauses, hmarks, hothers, hframe⟩ := u.rackChanged_spec k addr e.state (entryJudged e good).state
    generalize u.rackChanged k addr e.state (entryJudged e good).state = t at hline hcauses hmarks hothers hframe
    refine ⟨?_, fun c => ?_, ?_, fun j hj => ?_, ?_⟩
    · rw [hline, ← hu, State.line_onLine_same, rackJudged, h]
      rfl
    · rw [hcauses, rackLost_iff good h, ← hu]
      rfl
    · rw [← hu] at hmarks
      refine (hmarks.of_eq rfl rfl).congr fun r => ?_
      rw [rackChanges_iff good h, State.onLine_air]
      simp only [Bool.false_eq_true, false_or]
      constructor
      · rintro ⟨hne, hr | hr⟩
        · exact .inl ⟨hr, hne⟩
        · exact .inr ⟨hne, hr⟩
      · rintro (⟨hr, hne⟩ | ⟨hne, hr⟩)
        · exact ⟨hne, .inl hr⟩
        · exact ⟨hne, .inr hr⟩
    · rw [hothers j hj, ← hu, State.line_onLine, if_neg hj]
    · rw [← hu] at hframe
      calc { t with lines := s.lines, status := s.status, causes := s.causes }
          = { ({ t with lines := (s.onLine k _).lines, status := (s.onLine k _).status, causes := (s.onLine k _).causes } :
              State) with lines := s.lines } := rfl
        _ = { s.onLine k _ with lines := s.lines } := by rw [hframe]
        _ = s := rfl

/-! ### The counters (R128) -/

/-- The line after a counter has risen; one at 65535 stays. -/
def Line.raised (l : Line) (c : Counter) : Line := if l.count c < 65535 then l.raise c else l

theorem Line.raised_counts (l : Line) (c : Counter) (h : l.count c ≤ 65535) : failureCounted l c (l.raised c) := by
  unfold Line.raised
  split
  · cases c <;> refine ⟨rfl, fun d hd => ?_⟩ <;> cases d <;> first | rfl | exact absurd rfl hd
  · rename_i hfull
    exact ⟨by omega, fun _ _ => rfl⟩

/-- Only its counters change. -/
theorem Line.raised_eq (l : Line) (c : Counter) : l.raised c = countersOf l (l.raised c) := by
  unfold Line.raised
  split
  · cases c <;> rfl
  · rfl

/-- A counter rises: its line, the mark of the line's record, and nothing else (R128, R141). -/
theorem State.raiseCounter_spec (s : State) (k : Fin 4) (c : Counter) : let t := s.raiseCounter k c
    t.line k = (s.line k).raised c ∧ (∀ j, j ≠ k → t.line j = s.line j) ∧
      marksAdded s t (fun r => r = .line k ∧ (s.line k).count c < 65535) ∧
      { t with lines := s.lines, status := s.status } = s := by
  unfold State.raiseCounter Line.raised
  dsimp only
  by_cases h : (s.line k).count c < 65535
  · rw [if_pos h, if_pos h]
    have hmark := State.mark_eq (s.onLine k fun l => l.raise c) (.line k)
    have hmarks := State.mark_marksAdded (s.onLine k fun l => l.raise c) (.line k)
    generalize (s.onLine k fun l => l.raise c).mark (.line k) = t at hmark hmarks
    refine ⟨?_, fun j hj => ?_, (hmarks.of_eq rfl rfl).congr fun r => by simp [h], ?_⟩
    · rw [hmark]
      exact State.line_onLine_same s k fun l => l.raise c
    · rw [hmark]
      exact (State.line_onLine s k j fun l => l.raise c).trans (if_neg hj)
    · rw [hmark]
      rfl
  · rw [if_neg h, if_neg h]
    exact ⟨rfl, fun _ _ => rfl, (marksAdded.of_status_eq rfl).congr fun r => by simp [h], rfl⟩

/-- What a line's going on to its next work leaves as it is. -/
theorem nextWork_kept (l : Line) : (nextWork l).roster = l.roster ∧ (nextWork l).notices = l.notices ∧
    ∀ d, (nextWork l).count d = l.count d := by
  unfold nextWork
  split
  · exact ⟨rfl, rfl, fun d => by cases d <;> rfl⟩
  · split <;> exact ⟨rfl, rfl, fun d => by cases d <;> rfl⟩

theorem nextWork_kept_of {l m : Line} (hroster : m.roster = l.roster) (hnotices : m.notices = l.notices)
    (hcount : ∀ d, m.count d = l.count d) : (nextWork m).roster = l.roster ∧ (nextWork m).notices = l.notices ∧
      ∀ d, (nextWork m).count d = l.count d := by
  obtain ⟨kroster, knotices, kcount⟩ := nextWork_kept m
  exact ⟨kroster.trans hroster, knotices.trans hnotices, fun d => (kcount d).trans (hcount d)⟩

theorem lineGoesOn_kept (l : Line) : (lineGoesOn l).roster = l.roster ∧ (lineGoesOn l).notices = l.notices ∧
    ∀ d, (lineGoesOn l).count d = l.count d := by
  unfold lineGoesOn
  split
  · exact nextWork_kept_of rfl rfl fun d => by cases d <;> rfl
  · split <;> exact nextWork_kept_of rfl rfl fun d => by cases d <;> rfl

theorem countersOf_congr {r t : Line} (h : ∀ d, t.count d = r.count d) (l : Line) : countersOf l t = countersOf l r := by
  have hn := h .noise
  have hf := h .framing
  have hc := h .check
  have hg := h .gap
  have ht := h .timeout
  have hu := h .unsolicited
  simp only [Line.count] at hn hf hc hg ht hu
  simp only [countersOf, hn, hf, hc, hg, ht, hu]

theorem rackJudged_countersOf (l t : Line) (addr : Nat) (good : Bool) :
    rackJudged (countersOf l t) addr good = countersOf (rackJudged l addr good) t := by
  unfold rackJudged
  rw [show rackEntry (countersOf l t) addr = rackEntry l addr from rfl]
  cases rackEntry l addr <;> rfl

/-! ### A failed exchange (R136, R137) -/

/-- The next attempt of a TUNE. -/
theorem Line.afterFailure_of_tune {l : Line} {e : Tune} {n : Nat} (h : l.txn = some (.tune e n)) (hn : n < 3) :
    l.afterFailure = { l with phase := .failedWait, txn := some (.tune e (n + 1)) } := by
  unfold Line.afterFailure
  rw [h]
  exact if_pos hn

/-- A TUNE whose attempts have ended. -/
theorem Line.afterFailure_of_last {l : Line} {e : Tune} {n : Nat} (h : l.txn = some (.tune e n)) (hn : ¬ n < 3) :
    l.afterFailure = lineGoesOn { l with
      phase := .failedWait
      outcomes := if e.id = 65535 then l.outcomes else l.outcomes ++ [⟨e.id, e.code, .noReply⟩]
      liveOutcomes := if e.live then l.liveOutcomes ++ [⟨e.id, e.code, .noReply⟩] else l.liveOutcomes } := by
  unfold Line.afterFailure
  rw [h]
  exact (if_neg hn).trans (Line.endTxn_eq _)

theorem Line.afterFailure_of_poll {l : Line} {addr first : Nat} {reloaded : Bool}
    (h : l.txn = some (.poll addr first reloaded)) : l.afterFailure = lineGoesOn { l with
      phase := .failedWait
      rotation := if reloaded then l.rotation else if l.rotation + 1 < l.roster.length then l.rotation + 1 else 0 } := by
  unfold Line.afterFailure
  rw [h]
  refine (Line.endTxn_eq _).trans (congrArg lineGoesOn ?_)
  cases reloaded <;> rfl

/-- What judging leaves of a line. -/
theorem rackJudged_kept (l : Line) (addr : Nat) (good : Bool) : (rackJudged l addr good).txn = l.txn ∧
    (rackJudged l addr good).outcomes = l.outcomes ∧ (rackJudged l addr good).liveOutcomes = l.liveOutcomes ∧
    (rackJudged l addr good).rotation = l.rotation ∧ (rackJudged l addr good).reports = l.reports ∧
    (rackJudged l addr good).roster.length = l.roster.length ∧ ∀ d, (rackJudged l addr good).count d = l.count d := by
  unfold rackJudged
  split
  · exact ⟨rfl, rfl, rfl, rfl, rfl, rfl, fun _ => rfl⟩
  · exact ⟨rfl, rfl, rfl, rfl, rfl, List.length_map .., fun d => by cases d <;> rfl⟩

/-- How a failed exchange leaves its line. -/
theorem exchangeLost_afterFailure {l : Line} {x : Transaction} (c : Counter) (hx : l.txn = some x)
    (hc : l.count c ≤ 65535) : exchangeLost l x c ((rackJudged (l.raised c) x.addr false).afterFailure) := by
  have hcounted := l.raised_counts c hc
  rw [l.raised_eq c, rackJudged_countersOf]
  generalize l.raised c = r at hcounted
  obtain ⟨htxn, hout, hlive, hrot, -, hlen, -⟩ := rackJudged_kept l x.addr false
  have hcounts : ∀ (m : Line) (t : Line), (∀ d, t.count d = (countersOf m r).count d) →
      failureCounted l c t ∧ ∀ y, countersOf y t = countersOf y r := fun m t ht => by
    have hsame : ∀ d, t.count d = r.count d := fun d => (ht d).trans (by cases d <;> rfl)
    refine ⟨?_, countersOf_congr hsame⟩
    obtain ⟨hrise, hrest⟩ := hcounted
    exact ⟨(hsame c).trans hrise, fun d hd => (hsame d).trans (hrest d hd)⟩
  cases x with
  | tune e n =>
    generalize hm : countersOf (rackJudged l e.addr false) r = m
    have hmtxn : m.txn = some (.tune e n) := by rw [← hm]; exact htxn.trans hx
    have hmcount : ∀ d, m.count d = (countersOf m r).count d := fun d => by rw [← hm]; rfl
    have hmout : m.outcomes = l.outcomes := by rw [← hm]; exact hout
    have hmlive : m.liveOutcomes = l.liveOutcomes := by rw [← hm]; exact hlive
    rw [show (Transaction.tune e n).addr = e.addr from rfl, hm]
    by_cases hn : n < 3
    · rw [Line.afterFailure_of_tune hmtxn hn]
      obtain ⟨hcounted', hsame⟩ := hcounts m { m with phase := .failedWait, txn := some (.tune e (n + 1)) }
        fun d => (by cases d <;> rfl : _ = m.count d).trans (hmcount d)
      refine ⟨hcounted', fun _ => ?_, fun h => absurd hn (by omega)⟩
      rw [hsame, hm]
    · rw [Line.afterFailure_of_last hmtxn hn, hmout, hmlive]
      obtain ⟨-, -, hkept⟩ := lineGoesOn_kept { m with
        phase := .failedWait
        outcomes := if e.id = 65535 then l.outcomes else l.outcomes ++ [⟨e.id, e.code, .noReply⟩]
        liveOutcomes := if e.live then l.liveOutcomes ++ [⟨e.id, e.code, .noReply⟩] else l.liveOutcomes }
      obtain ⟨hcounted', hsame⟩ := hcounts m _ fun d => ((hkept d).trans (by cases d <;> rfl)).trans (hmcount d)
      refine ⟨hcounted', fun h => absurd h hn, fun _ => ?_⟩
      rw [hsame, hm]
  | poll addr first reloaded =>
    generalize hm : countersOf (rackJudged l addr false) r = m
    have hmtxn : m.txn = some (.poll addr first reloaded) := by rw [← hm]; exact htxn.trans hx
    have hmcount : ∀ d, m.count d = (countersOf m r).count d := fun d => by rw [← hm]; rfl
    have hmrot : m.rotation = l.rotation := by rw [← hm]; exact hrot
    have hmlen : m.roster.length = l.roster.length := by rw [← hm]; exact hlen
    rw [show (Transaction.poll addr first reloaded).addr = addr from rfl, hm, Line.afterFailure_of_poll hmtxn, hmrot, hmlen]
    obtain ⟨-, -, hkept⟩ := lineGoesOn_kept { m with
      phase := .failedWait
      rotation := if reloaded then l.rotation else if l.rotation + 1 < l.roster.length then l.rotation + 1 else 0 }
    obtain ⟨hcounted', hsame⟩ := hcounts m _ fun d => ((hkept d).trans (by cases d <;> rfl)).trans (hmcount d)
    refine ⟨hcounted', ?_⟩
    rw [hsame, hm]

/-- The judging of an exchange, after which its line goes on. -/
theorem judgedOnward.onLine {k : Fin 4} {addr : Nat} {good counts : Bool} {s t : State}
    (h : judgedOnward k addr good counts s t) (f : Line → Line) : judgedOnward k addr good counts s (t.onLine k f) := by
  obtain ⟨hcauses, hmarks, hothers, hframe⟩ := h
  refine ⟨hcauses, hmarks.of_eq rfl rfl, fun j hj => ?_, hframe⟩
  rw [State.line_onLine, if_neg hj]
  exact hothers j hj

theorem rackMoves_raised (l : Line) (c : Counter) (addr : Nat) (good : Bool) :
    rackMoves (l.raised c) addr good = rackMoves l addr good := by
  rw [l.raised_eq c]
  rfl

/-- A failed exchange: its line, and what its judging tells the rest of the part. -/
theorem State.exchangeFailed_spec {s : State} {k : Fin 4} {x : Transaction} (c : Counter)
    (hx : (s.line k).txn = some x) :
    (s.exchangeFailed k c).line k = (rackJudged ((s.line k).raised c) x.addr false).afterFailure ∧
      judgedOnward k (rackOf x) false (decide ((s.line k).count c < 65535)) s (s.exchangeFailed k c) := by
  unfold State.exchangeFailed
  rw [hx, rackOf_eq]
  dsimp only
  obtain ⟨hline, hothers, hmarks, hframe⟩ := s.raiseCounter_spec k c
  generalize s.raiseCounter k c = u at hline hothers hmarks hframe
  obtain ⟨jline, jcauses, jmarks, jothers, jframe⟩ := u.judgeRack_spec k x.addr false
  refine ⟨by rw [State.line_onLine_same, jline, hline], judgedOnward.onLine ⟨fun d => ?_, ?_, fun j hj => ?_, ?_⟩ _⟩
  · rw [jcauses, hline, rackMoves_raised, ← hframe]
    rfl
  · refine (hmarks.trans jmarks).congr fun r => ?_
    rw [hline, rackMoves_raised, show u.air = s.air by rw [← hframe]]
    generalize (∃ old new, rackMoves (s.line k) x.addr false old new = true) = changed
    generalize (∃ e ∈ s.air, _) = served
    simp only [Bool.false_eq_true, false_or, decide_eq_true_eq]
    tauto
  · rw [jothers j hj, hothers j hj]
  · generalize u.judgeRack k x.addr false = t at jframe
    calc { t with lines := s.lines, status := s.status, causes := s.causes }
        = { ({ t with lines := u.lines, status := u.status, causes := u.causes } : State) with
            lines := s.lines, status := s.status, causes := s.causes } := rfl
      _ = { u with lines := s.lines, status := s.status, causes := s.causes } := by rw [jframe]
      _ = { ({ u with lines := s.lines, status := s.status } : State) with causes := s.causes } := rfl
      _ = s := by rw [hframe]

/-- The bytes that name an outcome of a TUNE (R126, R194). -/
theorem ackOutcome_isSome_iff (n : Nat) : (ackOutcome n).isSome = true ↔ 1 ≤ n ∧ n ≤ 3 := by
  match n with
  | 0 => decide
  | 1 => decide
  | 2 => decide
  | 3 => decide
  | n + 4 => exact ⟨fun h => (by cases h), fun h => absurd h.2 (by omega)⟩

/-- The five content tests (R128). -/
theorem replyGood_iff (x : Transaction) (bs : List Byte) : replyGood x bs = true ↔ contentGood x bs := by
  simp only [replyGood, contentGood, rackOf_eq, Bool.and_eq_true, beq_iff_eq, and_assoc, byteSum]
  refine and_congr_right fun _ => and_congr_right fun _ => ?_
  cases x with
  | tune e n =>
    simp only [Bool.and_eq_true, beq_iff_eq, and_assoc, ackOutcome_isSome_iff]
  | poll addr first reloaded =>
    simp only [Bool.and_eq_true, beq_iff_eq, decide_eq_true_eq, and_assoc]
    refine and_congr_right fun _ => ⟨fun ⟨hmod, hle⟩ => ⟨(byteAt bs 1 - 1) / 4, by omega, by omega⟩, ?_⟩
    rintro ⟨n, hn, hbyte⟩
    omega

theorem exec_gapTimeout {k : Fin 4} {a : Assembler} {s : State} (h : (s.line k).phase = .awaiting a)
    (hbytes : a.bytes ≠ []) (hended : a.ended = none) : exec (.gapTimeout k) s = .next (s.exchangeFailed k .gap) := by
  refine congrArg Host.Outcome.next ?_
  rw [h]
  exact if_pos ⟨hbytes, hended⟩

theorem exec_replyTimeout {k : Fin 4} {a : Assembler} {s : State} (h : (s.line k).phase = .awaiting a)
    (hbytes : a.bytes = []) (hended : a.ended = none) :
    exec (.replyTimeout k) s = .next (s.exchangeFailed k .timeout) := by
  refine congrArg Host.Outcome.next ?_
  rw [h]
  exact if_pos ⟨hbytes, hended⟩

/-- A reply frame that has ended, good or failed. -/
theorem exec_replyFrame {k : Fin 4} {a : Assembler} {x : Transaction} {f : FrameEnd} {s : State}
    (h : (s.line k).phase = .awaiting a) (hx : (s.line k).txn = some x) (hended : a.ended = some f) :
    exec (.replyFrame k) s = .next
      (if f = .complete ∧ a.framed = false ∧ a.noisy = false ∧ replyGood x a.bytes = true then s.exchangeGood k a.bytes
      else s.exchangeFailed k (if a.framed then .framing else if a.noisy then .noise else .check)) := by
  refine congrArg Host.Outcome.next ?_
  unfold State.judgeReply
  rw [h, hx]
  dsimp only
  rw [hended]
  rfl

/-- Settles O44: one counter, the rack judged, and the next attempt or the end of the transaction. -/
theorem failedExchangeCounts : Obligations.FailedExchangeCounts := by
  intro k a x s hphase htxn hcounts told
  have hfailed : ∀ c, exchangeLost (s.line k) x c ((s.exchangeFailed k c).line k) ∧ told c (s.exchangeFailed k c) :=
    fun c => by
      obtain ⟨hline, htold⟩ := State.exchangeFailed_spec c htxn
      rw [hline]
      exact ⟨exchangeLost_afterFailure c htxn (hcounts c), htold⟩
  refine ⟨fun hbytes hended => ⟨_, exec_gapTimeout hphase hbytes hended, hfailed _⟩,
    fun hbytes hended => ⟨_, exec_replyTimeout hphase hbytes hended, hfailed _⟩, fun f hended hbad => ?_⟩
  intro c
  refine ⟨_, (exec_replyFrame hphase htxn hended).trans (congrArg _ (if_neg ?_)), hfailed c⟩
  rintro ⟨hcomplete, hframed, hnoisy, hgood⟩
  obtain h | h | h | h := hbad
  · exact h hcomplete
  · simp [hframed] at h
  · simp [hnoisy] at h
  · exact h ((replyGood_iff x a.bytes).1 hgood)

/-! ### A good exchange (R136, R137) -/

/-- A good exchange: its line, and what its judging tells the rest of the part. -/
theorem State.exchangeGood_spec {s : State} {k : Fin 4} {x : Transaction} (bytes : List Byte)
    (hx : (s.line k).txn = some x) :
    (s.exchangeGood k bytes).line k = (rackJudged (s.line k) x.addr true).afterReply bytes ∧
      judgedOnward k (rackOf x) true false s (s.exchangeGood k bytes) := by
  unfold State.exchangeGood
  rw [hx, rackOf_eq]
  dsimp only
  obtain ⟨hline, htold⟩ := s.judgeRack_spec k x.addr true
  exact ⟨by rw [State.line_onLine_same, hline], judgedOnward.onLine htold _⟩

theorem exec_replyFrame_of_good {k : Fin 4} {a : Assembler} {x : Transaction} {s : State}
    (h : (s.line k).phase = .awaiting a) (hx : (s.line k).txn = some x) (hended : a.ended = some .complete)
    (hframed : a.framed = false) (hnoisy : a.noisy = false) (hgood : contentGood x a.bytes) :
    exec (.replyFrame k) s = .next (s.exchangeGood k a.bytes) :=
  (exec_replyFrame h hx hended).trans
    (congrArg _ (if_pos ⟨rfl, hframed, hnoisy, (replyGood_iff x a.bytes).2 hgood⟩))

/-- A TUNE acknowledged. -/
theorem Line.afterReply_of_tune {l : Line} {e : Tune} {n : Nat} {r : TuneOutcome} {bytes : List Byte}
    (h : l.txn = some (.tune e n)) (hr : ackOutcome (byteAt bytes 4) = some r) :
    l.afterReply bytes = lineGoesOn { l with
      phase := .goodWait
      outcomes := if e.id = 65535 then l.outcomes else l.outcomes ++ [⟨e.id, e.code, r⟩]
      liveOutcomes := if e.live then l.liveOutcomes ++ [⟨e.id, e.code, if r = .outOfRange then .refused else r⟩]
        else l.liveOutcomes } := by
  unfold Line.afterReply
  rw [h]
  dsimp only
  rw [hr, Line.endTxn_eq]
  cases r <;> rfl

theorem getLsbD_zero_eq (b : Byte) : b.getLsbD 0 = decide (b.toNat % 2 = 1) := by
  rw [BitVec.getLsbD, Nat.testBit_zero]

/-- The entries of a report, byte by byte (R126). -/
theorem reportEntries_eq {bytes : List Byte} {addr : Nat} (h : byteAt bytes 0 = 128 + addr) :
    reportEntries bytes = (List.range ((byteAt bytes 1 - 1) / 4)).map fun i =>
      ⟨addr, byteAt bytes (3 + 4 * i), min (byteAt bytes (4 + 4 * i)) 200,
        decide (byteAt bytes (5 + 4 * i) % 2 = 1), byteAt bytes (6 + 4 * i)⟩ := by
  unfold reportEntries
  refine List.map_congr_left fun i _ => ?_
  rw [getLsbD_zero_eq, h, show 128 + addr - 0x80 = addr by omega]
  rfl

/-- A POLL answered. -/
theorem Line.afterReply_of_poll {l : Line} {addr first : Nat} {reloaded : Bool} (bytes : List Byte)
    (h : l.txn = some (.poll addr first reloaded)) : l.afterReply bytes = lineGoesOn { l with
      phase := .goodWait
      rotation := if reloaded then l.rotation else if l.rotation + 1 < l.roster.length then l.rotation + 1 else 0
      reports := l.reports ++ (reportEntries bytes).filter fun r => decide (r.slot ≤ 31)
      roster := l.roster.map fun r =>
        if r.addr = addr then { r with cursor := nextCursor r.cursor (reportEntries bytes).length } else r } := by
  unfold Line.afterReply
  rw [h]
  refine (Line.endTxn_eq _).trans (congrArg lineGoesOn ?_)
  cases reloaded
  · simp only [Line.pollEnded, Line.rotate, List.length_map]
    rfl
  · rfl

/-! ### The rack's entry by its address -/

/-- Entries that keep their addresses are found as before. -/
theorem rackEntry_map (l : Line) {f : RosterEntry → RosterEntry} (hf : ∀ r, (f r).addr = r.addr) (b : Nat) :
    (l.roster.map f).find? (fun r => r.addr == b) = (rackEntry l b).map f := by
  rw [List.find?_map, rackEntry]
  simp only [Function.comp_def, hf]

theorem addr_of_rackEntry {l : Line} {addr : Nat} {e : RosterEntry} (h : rackEntry l addr = some e) : e.addr = addr := by
  simpa using List.find?_some h

/-- The entries of a line after an exchange has been judged. -/
theorem rackEntry_judged {l : Line} {addr : Nat} {e : RosterEntry} (good : Bool) (h : rackEntry l addr = some e) :
    rackEntry (rackJudged l addr good) addr = some (entryJudged e good) ∧
      ∀ b, b ≠ addr → rackEntry (rackJudged l addr good) b = rackEntry l b := by
  have haddr := addr_of_rackEntry h
  have hkeep : ∀ r : RosterEntry, (if r.addr = addr then entryJudged e good else r).addr = r.addr := fun r => by
    split
    · rename_i hr
      exact haddr.trans hr.symm
    · rfl
  have hfind : ∀ b, rackEntry (rackJudged l addr good) b =
      (rackEntry l b).map fun r => if r.addr = addr then entryJudged e good else r := fun b => by
    rw [← rackEntry_map l hkeep b, rackJudged, h]
    rfl
  refine ⟨by rw [hfind, h, Option.map_some, if_pos haddr], fun b hb => ?_⟩
  rw [hfind]
  cases hr : rackEntry l b with
  | none => rfl
  | some r => rw [Option.map_some, if_neg fun ha => hb ((addr_of_rackEntry hr).symm.trans ha)]

/-- Settles O45: the outcome or the report handed on, the rack judged, and the line goes on. -/
theorem goodReplyEndsTransaction : Obligations.GoodReplyEndsTransaction := by
  have hcounts : ∀ (l : Line) (addr : Nat) (m : Line), (∀ d, m.count d = (rackJudged l addr true).count d) →
      ∀ d, (lineGoesOn m).count d = l.count d := fun l addr m hm d => by
    obtain ⟨-, -, hkept⟩ := lineGoesOn_kept m
    obtain ⟨-, -, -, -, -, -, hjudged⟩ := rackJudged_kept l addr true
    exact ((hkept d).trans (hm d)).trans (hjudged d)
  refine ⟨fun k a e n r s hphase htxn hended hframed hnoisy hsum haddr hkind hlen hslot hr => ?_,
    fun k a addr first reloaded s _ hphase htxn hended hframed hnoisy hsum haddr hkind hmod hle => ?_⟩
  · have hack : ackOutcome (byteAt a.bytes 4) = some r := by
      obtain ⟨hb, rfl⟩ | ⟨hb, rfl⟩ | ⟨hb, rfl⟩ := hr <;> rw [hb] <;> rfl
    have hcode := (ackOutcome_isSome_iff (byteAt a.bytes 4)).1 (by rw [hack]; rfl)
    obtain ⟨hline, htold⟩ := State.exchangeGood_spec a.bytes htxn
    obtain ⟨jtxn, jout, jlive, -⟩ := rackJudged_kept (s.line k) e.addr true
    rw [show (Transaction.tune e n).addr = e.addr from rfl, Line.afterReply_of_tune (jtxn.trans htxn) hack, jout, jlive]
      at hline
    refine ⟨_, exec_replyFrame_of_good hphase htxn hended hframed hnoisy ⟨hsum, haddr, hkind, hlen, hslot, hcode⟩,
      hline, fun c => ?_, htold⟩
    rw [hline]
    exact hcounts _ e.addr _ (fun d => by cases d <;> rfl) c
  · intro m judged
    obtain ⟨hline, htold⟩ := State.exchangeGood_spec a.bytes htxn
    obtain ⟨jtxn, -, -, jrot, jrep, jlen, -⟩ := rackJudged_kept (s.line k) addr true
    have hcount : (reportEntries a.bytes).length = m := by rw [reportEntries_eq haddr]; simp [m]
    rw [show (Transaction.poll addr first reloaded).addr = addr from rfl, Line.afterReply_of_poll _ (jtxn.trans htxn),
      jrot, jrep, jlen, hcount, reportEntries_eq haddr] at hline
    refine ⟨_, exec_replyFrame_of_good hphase htxn hended hframed hnoisy
      ⟨hsum, haddr, hkind, m, by omega, by omega⟩, hline, fun e he => ?_, fun c => ?_, htold⟩
    · obtain ⟨hentry, -⟩ := rackEntry_judged true he
      rw [hline, rackEntry, (lineGoesOn_kept _).1]
      refine (rackEntry_map judged (fun r => by split <;> rfl) addr).trans ?_
      rw [hentry, Option.map_some, if_pos (addr_of_rackEntry hentry)]
      exact congrArg some (by rw [← addr_of_rackEntry he]; rfl)
    · rw [hline]
      exact hcounts _ addr _ (fun d => by cases d <;> rfl) c

/-! ### The roster after a judged exchange -/

/-- What a judged exchange leaves of its line: its notices, and its entries up to the slot cursor of the rack, which a
TUNE or a failed exchange leaves as it is. -/
def rosterJudged (l : Line) (addr : Nat) (good cursorKept : Bool) (t : Line) : Prop :=
  t.notices = (rackJudged l addr good).notices ∧ ∃ f : RosterEntry → RosterEntry,
    (∀ r, f r = { r with cursor := (f r).cursor }) ∧ (∀ r, r.addr ≠ addr → f r = r) ∧
      (cursorKept = true → ∀ r, f r = r) ∧ t.roster = (rackJudged l addr good).roster.map f

theorem rosterJudged_of_eq {l t : Line} {addr : Nat} {good : Bool} (cursorKept : Bool)
    (hroster : t.roster = (rackJudged l addr good).roster) (hnotices : t.notices = (rackJudged l addr good).notices) :
    rosterJudged l addr good cursorKept t :=
  ⟨hnotices, id, fun _ => rfl, fun _ _ => rfl, fun _ _ => rfl, by rw [List.map_id, hroster]⟩

/-- What a line's going on after a failed exchange leaves as it is. -/
theorem Line.afterFailure_kept (l : Line) :
    l.afterFailure.roster = l.roster ∧ l.afterFailure.notices = l.notices := by
  have hgone : ∀ m : Line, m.roster = l.roster → m.notices = l.notices →
      (lineGoesOn m).roster = l.roster ∧ (lineGoesOn m).notices = l.notices := fun m hr hn =>
    ⟨(lineGoesOn_kept m).1.trans hr, (lineGoesOn_kept m).2.1.trans hn⟩
  cases hx : l.txn with
  | none =>
    unfold Line.afterFailure
    rw [hx]
    exact ⟨rfl, rfl⟩
  | some x =>
    cases x with
    | tune e n =>
      by_cases hn : n < 3
      · rw [Line.afterFailure_of_tune hx hn]
        exact ⟨rfl, rfl⟩
      · rw [Line.afterFailure_of_last hx hn]
        exact hgone _ rfl rfl
    | poll addr first reloaded =>
      rw [Line.afterFailure_of_poll hx]
      exact hgone _ rfl rfl

theorem State.exchangeFailed_roster {s : State} {k : Fin 4} {x : Transaction} (c : Counter) (cursorKept : Bool)
    (hx : (s.line k).txn = some x) :
    rosterJudged (s.line k) x.addr false cursorKept ((s.exchangeFailed k c).line k) := by
  obtain ⟨hline, -⟩ := State.exchangeFailed_spec c hx
  rw [hline, (s.line k).raised_eq c, rackJudged_countersOf]
  obtain ⟨hroster, hnotices⟩ := (countersOf (rackJudged (s.line k) x.addr false) ((s.line k).raised c)).afterFailure_kept
  exact rosterJudged_of_eq _ hroster hnotices

/-- Whether a transaction is a TUNE. -/
def Transaction.isTune : Transaction → Bool
  | .tune _ _ => true
  | .poll _ _ _ => false

theorem State.exchangeGood_roster {s : State} {k : Fin 4} {x : Transaction} {bytes : List Byte}
    (hx : (s.line k).txn = some x) (hgood : contentGood x bytes) :
    rosterJudged (s.line k) x.addr true x.isTune ((s.exchangeGood k bytes).line k) := by
  obtain ⟨hline, -⟩ := State.exchangeGood_spec bytes hx
  obtain ⟨jtxn, -⟩ := rackJudged_kept (s.line k) x.addr true
  rw [hline]
  cases x with
  | tune e n =>
    obtain ⟨-, -, -, -, -, hcode⟩ := hgood
    obtain ⟨r, hr⟩ := Option.isSome_iff_exists.1 ((ackOutcome_isSome_iff _).2 hcode)
    rw [Line.afterReply_of_tune (jtxn.trans hx) hr]
    exact rosterJudged_of_eq _ (lineGoesOn_kept _).1 (lineGoesOn_kept _).2.1
  | poll addr first reloaded =>
    rw [Line.afterReply_of_poll bytes (jtxn.trans hx)]
    refine ⟨(lineGoesOn_kept _).2.1, _, fun r => ?_, fun r hr => if_neg hr, fun h => absurd h (by decide : ¬ false = true),
      (lineGoesOn_kept _).1⟩
    by_cases hr : r.addr = (Transaction.poll addr first reloaded).addr
    · exact (if_pos hr).trans (congrArg (fun c => { r with cursor := c }) (by rw [if_pos hr]))
    · exact (if_neg hr).trans (congrArg (fun c => { r with cursor := c }) (by rw [if_neg hr]))

/-- The rack's entry after a judged exchange, and those of the other racks. -/
theorem rosterJudged.entries {l t : Line} {addr : Nat} {good cursorKept : Bool} {e : RosterEntry}
    (h : rosterJudged l addr good cursorKept t) (he : rackEntry l addr = some e) :
    (∃ cursor, rackEntry t addr = some { entryJudged e good with cursor := cursor } ∧
      (cursorKept = true → cursor = e.cursor)) ∧ ∀ b, b ≠ addr → rackEntry t b = rackEntry l b := by
  obtain ⟨-, f, hcursor, hother, hkept, hroster⟩ := h
  have hfind : ∀ b, rackEntry t b = (rackEntry (rackJudged l addr good) b).map f := fun b => by
    rw [rackEntry, hroster]
    exact rackEntry_map _ (fun r => by rw [hcursor r]) b
  obtain ⟨hentry, hothers⟩ := rackEntry_judged good he
  refine ⟨⟨_, by rw [hfind, hentry, Option.map_some, hcursor], fun hk => by rw [hkept hk]; rfl⟩, fun b hb => ?_⟩
  rw [hfind, hothers b hb]
  cases hr : rackEntry l b with
  | none => rfl
  | some r => rw [Option.map_some, hother r fun ha => hb ((addr_of_rackEntry hr).symm.trans ha)]

/-- An address without an entry: the roster and the notices stay. -/
theorem rosterJudged.of_none {l t : Line} {addr : Nat} {good cursorKept : Bool}
    (h : rosterJudged l addr good cursorKept t) (hnone : rackEntry l addr = none) :
    t.roster = l.roster ∧ t.notices = l.notices := by
  obtain ⟨hnotices, f, -, hother, -, hroster⟩ := h
  rw [rackJudged, hnone] at hnotices hroster
  refine ⟨hroster.trans ?_, hnotices⟩
  refine (List.map_congr_left fun r hr => hother r fun ha => ?_).trans (List.map_id _)
  exact absurd (List.find?_eq_none.1 hnone r hr) (by simp [ha])

/-- Every command that judges an exchange does so once. -/
theorem judgesExchange.spec {c : Instr} {k : Fin 4} {x : Transaction} {good : Bool} {s : State}
    (h : judgesExchange c k x good s) : ∃ t, exec c s = .next t ∧
      rosterJudged (s.line k) (rackOf x) good (x.isTune || !good) (t.line k) ∧
      ∃ counts, judgedOnward k (rackOf x) good counts s t := by
  obtain ⟨htxn, a, hphase, hcmd⟩ := h
  have hfailed : ∀ d, rosterJudged (s.line k) (rackOf x) false (x.isTune || !false) ((s.exchangeFailed k d).line k) ∧
      ∃ counts, judgedOnward k (rackOf x) false counts s (s.exchangeFailed k d) := fun d => by
    rw [rackOf_eq]
    exact ⟨State.exchangeFailed_roster d _ htxn, _, (rackOf_eq x ▸ (State.exchangeFailed_spec d htxn).2)⟩
  obtain ⟨rfl, hbytes, hended, rfl⟩ | ⟨rfl, hbytes, hended, rfl⟩ | ⟨rfl, f, hended, hgood⟩ := hcmd
  · exact ⟨_, exec_gapTimeout hphase hbytes hended, hfailed _⟩
  · exact ⟨_, exec_replyTimeout hphase hbytes hended, hfailed _⟩
  · cases good with
    | true =>
      obtain ⟨rfl, hframed, hnoisy, hcontent⟩ := hgood.1 rfl
      refine ⟨_, exec_replyFrame_of_good hphase htxn hended hframed hnoisy hcontent, ?_,
        _, (State.exchangeGood_spec a.bytes htxn).2⟩
      rw [rackOf_eq, Bool.not_true, Bool.or_false]
      exact State.exchangeGood_roster htxn hcontent
    | false =>
      refine ⟨_, (exec_replyFrame hphase htxn hended).trans (congrArg _ (if_neg fun hall => ?_)), hfailed _⟩
      obtain ⟨hcomplete, hframed, hnoisy, hcontent⟩ := hall
      exact absurd (hgood.2 ⟨hcomplete, hframed, hnoisy, (replyGood_iff x a.bytes).1 hcontent⟩) (by decide)

/-- The cause flags after the judging of an exchange. -/
theorem judgedOnward.hasCause_eq {k : Fin 4} {addr : Nat} {good counts : Bool} {e : RosterEntry} {s t : State}
    (h : judgedOnward k addr good counts s t) (he : rackEntry (s.line k) addr = some e) (c : Cause) :
    t.hasCause c = (s.hasCause c ||
      (decide (c = .alert) && decide ((entryJudged e good).state = .lost ∧ e.state ≠ .lost))) := by
  obtain ⟨hcauses, -⟩ := h
  refine Bool.eq_iff_iff.2 ((hcauses c).trans ?_)
  rw [rackLost_iff good he, Bool.or_eq_true, Bool.and_eq_true, decide_eq_true_eq, decide_eq_true_eq]

/-- Without an entry no cause flag changes. -/
theorem judgedOnward.causes_of_none {k : Fin 4} {addr : Nat} {good counts : Bool} {s t : State}
    (h : judgedOnward k addr good counts s t) (hnone : rackEntry (s.line k) addr = none) : t.causes = s.causes := by
  obtain ⟨hcauses, -⟩ := h
  refine BitVec.eq_of_getLsbD_eq fun i hi => ?_
  obtain ⟨c, rfl⟩ := exists_causeIndex_eq hi
  refine Bool.eq_iff_iff.2 ((hcauses c).trans ?_)
  simp only [rackMoves_of_none good hnone, Bool.false_eq_true, exists_false, and_false, or_false]
  rfl

/-- Settles O46: one rack's entry, the notices, ALERT and the marks. -/
theorem exchangeChangesRosterEntry : Obligations.ExchangeChangesRosterEntry := by
  refine ⟨fun k addr good e s _ he => ?_, fun c k x good s _ hjudges => ?_⟩
  · intro missed new
    obtain ⟨hline, htold⟩ := s.judgeRack_spec k addr good
    generalize s.judgeRack k addr good = t at hline htold
    have he : rackEntry (s.line k) addr = some e := he
    obtain ⟨hentry, hothers⟩ := rackEntry_judged good he
    have hcauses := judgedOnward.hasCause_eq htold he
    obtain ⟨-, hmarks, halone⟩ := htold
    refine ⟨?_, fun b hb => ?_, ?_, hcauses, fun hne => ?_, halone⟩
    · rw [hline]
      exact hentry
    · rw [hline]
      exact hothers b hb
    · rw [hline, rackJudged, he]
      rfl
    · refine (hmarks.1 _).2 (.inr ⟨rfl, .inl ⟨rfl, .inr ?_⟩⟩)
      exact (rackChanges_iff good he).2 (Ne.symm hne)
  · intro addr
    obtain ⟨t, hexec, hroster, counts, htold⟩ := judgesExchange.spec hjudges
    refine ⟨t, hexec, htold.2.2, fun hnone => ?_, fun e he => ?_⟩
    · obtain ⟨hr, hn⟩ := rosterJudged.of_none hroster hnone
      exact ⟨hr, hn, judgedOnward.causes_of_none htold hnone⟩
    · intro missed new
      obtain ⟨⟨cursor, hentry, hcursor⟩, hothers⟩ := rosterJudged.entries hroster he
      refine ⟨⟨cursor, ?_, fun hkept => hcursor ?_⟩, hothers, ?_, judgedOnward.hasCause_eq htold he, fun hne => ?_⟩
      · rw [hentry, ← addr_of_rackEntry he]
        rfl
      · obtain ⟨tune, n, rfl⟩ | rfl := hkept
        · rfl
        · simp
      · rw [hroster.1, rackJudged, he]
        rfl
      · have hchanged := (rackChanges_iff good he).2 (Ne.symm hne)
        obtain ⟨-, hmarks, -⟩ := htold
        exact ⟨(hmarks.1 _).2 (.inr ⟨rfl, .inl ⟨rfl, .inr hchanged⟩⟩), fun a ha hair hrack hexists =>
          (hmarks.1 _).2 (.inr ⟨hexists, .inr ⟨hchanged, a, ha, hair, rfl, hrack⟩⟩)⟩

end Sys2Proof.Machine
end

section
/-! Frames and characters on a line (chapter 7, 7.1 to 7.3). -/

namespace Sys2Proof.Machine

/-! ### A frame, bit by bit (R123, R125) -/

theorem charBits_length (b : Byte) (mark : Bool) : (charBits b mark).length = 11 := rfl

theorem charBits_getElem? (b : Byte) (mark : Bool) {j : Nat} (h : j < 11) : (charBits b mark)[j]? =
    some (if j = 0 then false else if j ≤ 8 then b.getLsbD (j - 1) else if j = 9 then mark else true) := by
  interval_cases j <;> rfl

/-- Blocks of eleven bits, one behind the other. -/
theorem flatMap_getElem? {g : Byte → List Bool} (hg : ∀ b, (g b).length = 11) (bs : List Byte) (i : Nat) {j : Nat}
    (hj : j < 11) : (bs.flatMap g)[11 * i + j]? = bs[i]?.bind fun b => (g b)[j]? := by
  induction bs generalizing i with
  | nil => simp
  | cons b bs ih =>
    rw [List.flatMap_cons]
    cases i with
    | zero => rw [List.getElem?_append_left (by rw [hg]; omega)]; simp
    | succ i =>
      rw [List.getElem?_append_right (by rw [hg]; omega), hg, show 11 * (i + 1) + j - 11 = 11 * i + j by omega, ih,
        List.getElem?_cons_succ]

/-- The bits of a frame: those of its characters, the first alone with mark bit 1. -/
theorem frameBits_getElem? {f : List Byte} {i j : Nat} {b : Byte} (hb : f[i]? = some b) (hj : j < 11) :
    (frameBits f)[11 * i + j]? = (charBits b (decide (i = 0)))[j]? := by
  cases f with
  | nil => simp at hb
  | cons a rest =>
    unfold frameBits
    cases i with
    | zero =>
      obtain rfl : a = b := by simpa using hb
      rw [List.getElem?_append_left (by rw [charBits_length]; omega)]
      simp
    | succ i =>
      rw [List.getElem?_append_right (by rw [charBits_length]; omega), charBits_length,
        show 11 * (i + 1) + j - 11 = 11 * i + j by omega, flatMap_getElem? (fun b => charBits_length b false) _ _ hj,
        show rest[i]? = some b by simpa using hb]
      simp

/-- TXD during a frame. -/
theorem Line.txd_of_sending {l : Line} {f : List Byte} (h : l.phase = .sending f) (n : Nat) :
    l.txd n = (true :: frameBits f).getD n true := by
  unfold Line.txd
  rw [h]

/-- A line that sends nothing. -/
theorem Line.pins_of_silent {l : Line} (h : ∀ f, l.phase ≠ .sending f) : l.dir = false ∧ ∀ n, l.txd n = true := by
  unfold Line.dir Line.txd
  split
  · rename_i f hf
    exact absurd hf (h f)
  · exact ⟨rfl, fun _ => rfl⟩

theorem Line.dir_of_sending {l : Line} {f : List Byte} (h : l.phase = .sending f) : l.dir = true := by
  unfold Line.dir
  rw [h]

/-! ### The waits and the poll timer (R128, R135) -/

theorem State.onLine_congr (s : State) (k : Fin 4) {f g : Line → Line} (h : f (s.line k) = g (s.line k)) :
    s.onLine k f = s.onLine k g := congrArg (s.setLine k) h

/-- The end of a wait after an exchange, with a transaction in hand. -/
theorem Line.startFrame_of_some {l : Line} {x : Transaction} (h : l.txn = some x) :
    l.startFrame = { l with phase := .sending (requestOf x) } := by
  unfold Line.startFrame
  rw [h, ← Transaction.frame_eq]

theorem Line.startFrame_of_none {l : Line} (h : l.txn = none) : l.startFrame = { l with phase := .quiet } := by
  unfold Line.startFrame
  rw [h]

/-- The ends of the two waits. -/
theorem exec_waitEnd {k : Fin 4} {c : Instr} {s : State} (h : c = .failedExchangeWaitEnd k ∧
    (s.line k).phase = .failedWait ∨ c = .goodExchangeWaitEnd k ∧ (s.line k).phase = .goodWait) :
    exec c s = .next (s.onLine k Line.startFrame) := by
  obtain ⟨rfl, hphase⟩ | ⟨rfl, hphase⟩ := h <;> exact congrArg Host.Outcome.next (if_pos hphase)

/-- POLL_TIMER. -/
theorem exec_pollTimer (k : Fin 4) (s : State) : exec (.pollTimer k) s = .next
    (if (s.line k).values.divisor = 0 then s else s.onLine k fun l => Line.choose { l with pollDue := true }) := by
  refine congrArg Host.Outcome.next ?_
  by_cases h : (s.line k).values.divisor = 0 <;> simp [Line.isOn, h]

/-- A POLL begun on a quiet line without an entry queued. -/
theorem nextWork_of_poll {l : Line} {r : RosterEntry} (hon : l.values.divisor ≠ 0) (hlive : l.live = [])
    (hplan : l.plan = []) (hdue : l.pollDue = true) (hr : l.roster[l.rotation]? = some r) : nextWork l =
      workBegun { l with pollDue := false } (.poll r.addr r.cursor false) (pollBytes r.addr r.cursor) := by
  unfold nextWork
  rw [if_neg hon]
  simp only [hlive, hplan, hdue, hr]

theorem pollBytes_eq (addr first : Nat) : pollBytes addr first = [BitVec.ofNat 8 addr, 2, 1, BitVec.ofNat 8 first,
    BitVec.ofNat 8 (256 - ((BitVec.ofNat 8 addr).toNat + 3 + (BitVec.ofNat 8 first).toNat) % 256)] := by
  have hsum : ([BitVec.ofNat 8 addr, 2, 1, BitVec.ofNat 8 first].map BitVec.toNat).sum =
      (BitVec.ofNat 8 addr).toNat + 3 + (BitVec.ofNat 8 first).toNat := by
    change (BitVec.ofNat 8 addr).toNat + (2 + (1 + ((BitVec.ofNat 8 first).toNat + 0))) = _
    omega
  unfold pollBytes
  dsimp only
  rw [hsum]
  rfl

/-- Settles O42: the pins bit by bit, the ends of a frame and of the waits, and the poll timer. -/
theorem linesPollAndSendFrames : Obligations.LinesPollAndSendFrames := by
  refine ⟨fun k s => ⟨fun f hf => ⟨Line.dir_of_sending hf, rfl, ?_, fun i b hb j hj => ?_, ?_⟩,
    Line.pins_of_silent, fun c hc => ⟨fun x hx => ?_, fun hx => ?_⟩⟩,
    fun k s => ⟨fun hoff => ?_, fun hon htxn => ?_, fun r hon htxn hlive hplan hr hphase => ?_⟩⟩
  · rw [Line.txd_of_sending hf]
    rfl
  · rw [Line.txd_of_sending hf, show 1 + 11 * i + j = 11 * i + j + 1 by omega, List.getD_cons_succ,
      List.getD_eq_getElem?_getD, frameBits_getElem? hb hj, charBits_getElem? b _ hj]
    rfl
  · exact congrArg Host.Outcome.next (s.whenDue_of_due _ (Line.dir_of_sending hf))
  · exact (exec_waitEnd hc).trans (congrArg _ (s.onLine_congr k (Line.startFrame_of_some hx)))
  · exact (exec_waitEnd hc).trans (congrArg _ (s.onLine_congr k (Line.startFrame_of_none hx)))
  · exact (exec_pollTimer k s).trans (congrArg _ (if_pos hoff))
  · exact (exec_pollTimer k s).trans (congrArg _ ((if_neg hon).trans (s.onLine_congr k (Line.choose_of_some htxn))))
  · refine (exec_pollTimer k s).trans (congrArg _ ((if_neg hon).trans (s.onLine_congr k ?_)))
    refine (Line.choose_of_none (l := { s.line k with pollDue := true }) htxn).trans ((nextWork_of_poll (l := { s.line k with pollDue := true }) hon hlive hplan rfl hr).trans ?_)
    rw [workBegun, pollBytes_eq]
    simp only [hphase, if_true]

/-! ### A character from its samples (R124) -/

/-- How many of the three samples of bit `i` are 1. -/
def samplesOn (x : BitVec 33) (i : Nat) : Nat := ((List.range 3).filter fun j => x.getLsbD (3 * i + j)).length

theorem samplesOn_eq (x : BitVec 33) (i : Nat) : samplesOn x i =
    (x.getLsbD (3 * i)).toNat + (x.getLsbD (3 * i + 1)).toNat + (x.getLsbD (3 * i + 2)).toNat := by
  have hall : ∀ g : Nat → Bool, ((List.range 3).filter g).length = (g 0).toNat + (g 1).toNat + (g 2).toNat := fun g => by
    rw [show List.range 3 = [0, 1, 2] from rfl]
    cases h0 : g 0 <;> cases h1 : g 1 <;> cases h2 : g 2 <;> simp [h0, h1, h2]
  exact hall _

theorem sampleMajority_eq (x : BitVec 33) (i : Nat) : sampleMajority x i = decide (2 ≤ samplesOn x i) := by
  rw [samplesOn_eq, sampleMajority]
  have hall : ∀ a b c : Bool, (a && b || a && c || b && c) = decide (2 ≤ a.toNat + b.toNat + c.toNat) := by decide
  exact hall _ _ _

theorem samplesDisagree_iff (x : BitVec 33) (i : Nat) :
    samplesDisagree x i = true ↔ samplesOn x i ≠ 0 ∧ samplesOn x i ≠ 3 := by
  rw [samplesOn_eq, samplesDisagree]
  have hall : ∀ a b c : Bool, ((!(a == b && a == c)) = true) ↔
      a.toNat + b.toNat + c.toNat ≠ 0 ∧ a.toNat + b.toNat + c.toNat ≠ 3 := by decide
  exact hall _ _ _

/-- A byte put together from eight bits has these bits. -/
theorem byteOfBits_getLsbD (a b c d e f g h : Bool) : ∀ i : Fin 8,
    (BitVec.ofNat 8 (0 + (if a then 2 ^ 0 else 0) + (if b then 2 ^ 1 else 0) + (if c then 2 ^ 2 else 0) +
      (if d then 2 ^ 3 else 0) + (if e then 2 ^ 4 else 0) + (if f then 2 ^ 5 else 0) + (if g then 2 ^ 6 else 0) +
      (if h then 2 ^ 7 else 0))).getLsbD i.val = [a, b, c, d, e, f, g, h][i] := by
  revert a b c d e f g h
  decide

/-- The character that the samples give. -/
theorem readChar_bits {x : BitVec 33} (h : sampleMajority x 0 = false) : ∃ r, readChar x = some r ∧
    (∀ i < 8, r.byte.getLsbD i = sampleMajority x (1 + i)) ∧ r.mark = sampleMajority x 9 ∧
      (r.noisy = true ↔ ∃ i < 11, samplesOn x i ≠ 0 ∧ samplesOn x i ≠ 3) ∧
      (r.framed = true ↔ sampleMajority x 10 = false) := by
  refine ⟨_, if_neg (by simp [h]), fun i hi => ?_, rfl, ?_, by simp⟩
  · refine (byteOfBits_getLsbD _ _ _ _ _ _ _ _ ⟨i, hi⟩).trans ?_
    interval_cases i <;> rfl
  · simp [List.any_eq_true, samplesDisagree_iff]

/-! ### What a character does on its line (R127, R129) -/

/-- Both commands of a character act by the line's state. -/
theorem exec_character {k : Fin 4} {x : BitVec 33} {c : Instr} (s : State)
    (hc : c = .characterReceived k x ∨ c = .unsolicitedCharacter k x) : exec c s = .next (s.receive k x) := by
  obtain rfl | rfl := hc <;> rfl

theorem State.receive_of_deaf {s : State} {k : Fin 4} {x : BitVec 33}
    (h : (s.line k).dir = true ∨ (s.line k).values.divisor = 0 ∨ readChar x = none) : s.receive k x = s := by
  unfold State.receive
  obtain h | h | h := h
  · simp [h]
  · simp [h, Line.isOn]
  · simp [h]

/-- The line after an unsolicited character has been counted. -/
theorem Line.raised_unsolicited (l : Line) : l.raised .unsolicited = { l with
    unsolicited := if l.unsolicited < 65535 then l.unsolicited + 1 else l.unsolicited } := by
  change (if l.unsolicited < 65535 then { l with unsolicited := raise16 l.unsolicited } else l) = _
  by_cases h : l.unsolicited < 65535
  · rw [if_pos h, if_pos h, raise16, Nat.min_eq_right h]
  · rw [if_neg h, if_neg h]

/-- An unsolicited character is counted, whatever else its line has done. -/
theorem State.raiseUnsolicited_spec (s : State) (k : Fin 4) (l : Line) (hl : l.unsolicited = (s.line k).unsolicited) :
    let t := (s.setLine k l).raiseCounter k .unsolicited
    t.line k = { l with
      unsolicited := if (s.line k).unsolicited < 65535 then (s.line k).unsolicited + 1 else (s.line k).unsolicited } ∧
    (∀ j, j ≠ k → t.line j = s.line j) ∧
    marksAdded s t (fun q => q = .line k ∧ (s.line k).unsolicited < 65535) ∧
    { t with lines := s.lines, status := s.status } = s := by
  intro t
  obtain ⟨hline, hothers, hmarks, hframe⟩ := (s.setLine k l).raiseCounter_spec k .unsolicited
  have hset : (s.setLine k l).line k = l := State.line_onLine_same s k fun _ => l
  rw [hset, Line.raised_unsolicited, hl] at hline
  rw [hset] at hmarks
  refine ⟨hline, fun j hj => (hothers j hj).trans ((State.line_onLine s k j fun _ => l).trans (if_neg hj)), ?_, ?_⟩
  · exact (hmarks.of_eq rfl rfl).congr fun q => by rw [← hl]; rfl
  · exact congrArg (fun u : State => { u with lines := s.lines }) hframe

/-! The cases of a character heard on a line. -/

section Heard

variable {s : State} {k : Fin 4} {x : BitVec 33} {r : RxChar} {a : Assembler}

/-- Outside a frame it is counted. -/
theorem State.receive_of_unsolicited (hdir : (s.line k).dir = false) (hon : (s.line k).values.divisor ≠ 0)
    (hr : readChar x = some r) (h : (∀ a, (s.line k).phase ≠ .awaiting a) ∨
      ∃ a, (s.line k).phase = .awaiting a ∧ (a.ended ≠ none ∨ a.bytes = [] ∧ r.mark = false)) :
    s.receive k x = s.raiseCounter k .unsolicited := by
  unfold State.receive
  rw [if_neg (by simp [hdir, Line.isOn, hon]), hr]
  obtain h | ⟨a, ha, hended | ⟨hbytes, hmark⟩⟩ := h
  · cases hphase : (s.line k).phase with
    | awaiting a => exact absurd hphase (h a)
    | quiet => rfl
    | sending f => rfl
    | failedWait => rfl
    | goodWait => rfl
  · rw [ha]
    exact if_pos (Option.isSome_iff_ne_none.2 hended)
  · simp [ha, hbytes, hmark]

/-- It joins the awaited frame. -/
theorem State.receive_of_joining (hdir : (s.line k).dir = false) (hon : (s.line k).values.divisor ≠ 0)
    (hr : readChar x = some r) (ha : (s.line k).phase = .awaiting a) (hended : a.ended = none)
    (h : a.bytes = [] ↔ r.mark = true) :
    s.receive k x = s.onLine k fun l => { l with phase := .awaiting (a.take r) } := by
  unfold State.receive
  rw [if_neg (by simp [hdir, Line.isOn, hon]), hr, ha]
  by_cases hbytes : a.bytes = []
  · simp [hbytes, hended, h.1 hbytes, State.onLine]
  · simp [hbytes, hended, mt h.2 hbytes, State.onLine]

/-- It breaks the awaited frame. -/
theorem State.receive_of_breaking (hdir : (s.line k).dir = false) (hon : (s.line k).values.divisor ≠ 0)
    (hr : readChar x = some r) (ha : (s.line k).phase = .awaiting a) (hended : a.ended = none)
    (hbytes : a.bytes ≠ []) (hmark : r.mark = true) : s.receive k x =
      (s.setLine k { s.line k with phase := .awaiting { a with ended := some .broken } }).raiseCounter k .unsolicited := by
  unfold State.receive
  simp [hdir, Line.isOn, hon, hr, ha, hended, hbytes, hmark]

end Heard

/-- The first character of the awaited frame. -/
theorem Assembler.take_of_empty {a : Assembler} (r : RxChar) (h : a.bytes = []) :
    a.take r = ⟨[r.byte], a.noisy || r.noisy, a.framed || r.framed, none⟩ := by
  simp [Assembler.take, h]

/-- A further character of the awaited frame, and how the frame then stands. -/
theorem Assembler.take_of_begun {a : Assembler} (r : RxChar) (h : a.bytes ≠ []) : ∃ ended,
    a.take r = ⟨a.bytes ++ [r.byte], a.noisy || r.noisy, a.framed || r.framed, ended⟩ ∧
    let n := byteAt (a.bytes ++ [r.byte]) 1
    (n = 0 ∨ 36 < n → ended = some .badLength) ∧
    (1 ≤ n → n ≤ 36 → a.bytes.length + 1 = n + 3 → ended = some .complete) ∧
    (1 ≤ n → n ≤ 36 → a.bytes.length + 1 ≠ n + 3 → ended = none) := by
  have hlen := List.length_pos_iff.2 h
  refine ⟨_, rfl, ?_⟩
  intro n
  rw [if_neg (by rw [List.length_append]; simp; omega), List.length_append, List.length_singleton]
  refine ⟨fun hn => if_pos hn, fun h1 h36 hc => ?_, fun h1 h36 hc => ?_⟩
  · rw [if_neg (by omega), if_pos hc]
  · rw [if_neg (by omega), if_neg hc]

/-- Settles O43: a character from its samples, and its case on the line. -/
theorem charactersFillTheAwaitedFrame : Obligations.CharactersFillTheAwaitedFrame := by
  refine ⟨fun x => ?_, fun k x c s hc => ?_⟩
  · intro ones bit
    have hbit : ∀ i, bit i = sampleMajority x i := fun i => (sampleMajority_eq x i).symm
    simp only [hbit]
    exact ⟨fun h => if_pos h, readChar_bits⟩
  · intro counted marked
    rw [exec_character s hc]
    refine ⟨fun h => congrArg _ (State.receive_of_deaf h), fun r hdir hon hr =>
      ⟨fun a ha hended hbytes hmark => ?_, fun h => ⟨_, rfl, ?_⟩, fun a ha hended hbytes => ⟨fun hmark => ⟨_, rfl, ?_⟩,
        fun hmark => ?_⟩⟩⟩
    · rw [State.receive_of_joining hdir hon hr ha hended (by simp [hbytes, hmark]), Assembler.take_of_empty r hbytes]
    · rw [State.receive_of_unsolicited hdir hon hr h]
      obtain ⟨hline, hrest⟩ := s.raiseCounter_spec k .unsolicited
      exact ⟨hline.trans (Line.raised_unsolicited _), hrest⟩
    · rw [State.receive_of_breaking hdir hon hr ha hended hbytes hmark]
      exact s.raiseUnsolicited_spec k _ rfl
    · obtain ⟨ended, htake, hended'⟩ := Assembler.take_of_begun r hbytes
      refine ⟨ended, ?_, hended'⟩
      rw [State.receive_of_joining hdir hon hr ha hended (by simp [hbytes, hmark]), htake]

end Sys2Proof.Machine
end

section
/-! The outcomes of TUNEs at the engine, and the TUNEs held for a line (chapter 7, 7.5 and 7.6). -/

namespace Sys2Proof.Machine

/-! ### The kept fields and the Air Set (R36, R175) -/

/-- The kept fields of a carrier with a record are set, and its record is marked. -/
theorem State.keep_spec (s : State) (id : Nat) (v : Kept) : let t := s.keep id v
    (∀ j, t.kept j = if j = id ∧ recordExists (.carrier id) then v else s.kept j) ∧
      marksJoined s t (fun r => r = .carrier id) ∧
      { t.status with marks := s.status.marks, kept := s.status.kept } = s.status ∧
      { t with status := s.status } = s := by
  have hexists : recordExists (.carrier id) = idHasRecord id := recordExists_eq _
  rw [hexists]
  unfold State.keep
  by_cases h : idHasRecord id = true
  · rw [if_pos h]
    generalize hu : ({ s with status := { s.status with kept := sparseSet Kept.reset s.status.kept id v } } : State) = u
    obtain ⟨hmarks, hrest⟩ := u.mark_marksAdded (.carrier id)
    have hframe := u.mark_eq (.carrier id)
    generalize u.mark (.carrier id) = t at hmarks hrest hframe
    have hkept : t.status.kept = u.status.kept := by rw [← hrest]
    refine ⟨fun j => ?_, fun r => (hmarks r).trans (by rw [← hu]), ?_, ?_⟩
    · rw [State.kept, hkept, ← hu]
      by_cases hj : j = id
      · rw [if_pos ⟨hj, h⟩, hj]
        exact sparseGet_set_same _ _ _ _
      · rw [if_neg fun hall => hj hall.1]
        exact sparseGet_set_other _ _ _ _ _ hj
    · rw [← hu] at hrest
      exact congrArg (fun x : StatusWriter => { x with kept := s.status.kept }) hrest
    · rw [hframe, ← hu]
  · rw [if_neg h]
    refine ⟨fun j => by rw [if_neg fun hall => h hall.2], fun r => ⟨.inl, ?_⟩, rfl, rfl⟩
    rintro (hr | ⟨hex, rfl⟩)
    · exact hr
    · exact absurd (hexists.symm.trans hex) h

/-- A changed entry keeps its place. -/
theorem State.airEntry_changeEntry (s : State) (id : Nat) {f : AirEntry → AirEntry} (hf : ∀ e, (f e).id = e.id) (j : Nat) :
    (s.changeEntry id f).airEntry j = (s.airEntry j).map fun e => if e.id = id then f e else e := by
  have hkeep : ∀ e : AirEntry, (if e.id = id then f e else e).id = e.id := fun e => by
    split
    · exact hf e
    · rfl
  unfold State.airEntry
  rw [State.changeEntry_air, List.find?_map]
  simp only [Function.comp_def, hkeep]

theorem State.id_of_airEntry {s : State} {id : Nat} {e : AirEntry} (h : s.airEntry id = some e) : e.id = id := by
  simpa using List.find?_some h

/-- Settles O29: an outcome recorded, kept or dropped. -/
theorem tuneOutcomeIsRecorded : Obligations.TuneOutcomeIsRecorded := by
  intro k m rest s _ houtcomes
  have hexec : exec (.tuneOutcomeRecord k) s =
      .next ((s.onLine k fun l => { l with outcomes := rest }).recordOutcome m) := by
    refine congrArg Host.Outcome.next ((s.whenDue_of_due _ (by simp [houtcomes])).trans ?_)
    unfold State.takeOutcome
    rw [houtcomes]
  generalize hu : (s.onLine k fun l => { l with outcomes := rest }) = u at hexec
  have hconfirm : ({ u.kept m.id with rackConfirm := rackConfirmBy m.outcome } : Kept) =
      { s.kept m.id with rackConfirm := confirmOf m.outcome } := by rw [← hu]; cases m.outcome <;> rfl
  have hkeep : ∀ v : State, v.status = s.status → { v with lines := s.lines, air := s.air } = s →
      let t := v.keep m.id { u.kept m.id with rackConfirm := rackConfirmBy m.outcome }
      t.lines = v.lines ∧ t.air = v.air ∧
      ((∀ id, t.kept id = if id = m.id ∧ recordExists (.carrier id) then
          { s.kept id with rackConfirm := confirmOf m.outcome } else s.kept id) ∧
        marksJoined s t (fun r => r = .carrier m.id) ∧
        { t.status with marks := s.status.marks, kept := s.status.kept } = s.status) ∧
      { t with lines := s.lines, air := s.air, status := s.status } = s := fun v hv hrest => by
    obtain ⟨hkept, hmarks, hstatus, hframe⟩ := v.keep_spec m.id { u.kept m.id with rackConfirm := rackConfirmBy m.outcome }
    rw [hconfirm] at *
    intro t
    refine ⟨by rw [← hframe], by rw [← hframe], ⟨fun id => ?_, fun r => ?_, ?_⟩, ?_⟩
    · have hsame : v.kept id = s.kept id := congrArg (fun x : StatusWriter => sparseGet Kept.reset x.kept id) hv
      rw [hkept, hsame]
      by_cases hid : id = m.id
      · subst hid
        rfl
      · rw [if_neg fun h => hid h.1, if_neg fun h => hid h.1]
    · rw [← hv]
      exact hmarks r
    · rw [← hv]
      exact hstatus
    · calc { t with lines := s.lines, air := s.air, status := s.status }
          = { ({ t with status := v.status } : State) with lines := s.lines, air := s.air, status := s.status } := rfl
        _ = { v with lines := s.lines, air := s.air, status := s.status } := by rw [hframe]
        _ = { ({ v with lines := s.lines, air := s.air } : State) with status := s.status } := rfl
        _ = s := by rw [hrest]
  have hair : u.air = s.air := by rw [← hu]; rfl
  have hstatus : u.status = s.status := by rw [← hu]; rfl
  have hback : { u with lines := s.lines, air := s.air } = s := by rw [← hu]; rfl
  have hfind : u.airEntry m.id = s.airEntry m.id := by rw [← hu]; rfl
  refine ⟨_, hexec, ?_⟩
  unfold State.recordOutcome
  rw [hfind]
  cases hentry : s.airEntry m.id with
  | none =>
    obtain ⟨hlines, hair', hkept, hframe⟩ := hkeep u hstatus hback
    exact ⟨hlines, ⟨fun e he => (nomatch he), fun _ => ⟨hair'.trans hair, hkept⟩⟩, fun e he => (nomatch he), hframe⟩
  | some e =>
    dsimp only
    by_cases hcode : e.air = .onAir ∧ e.code = m.code
    · rw [if_pos hcode]
      obtain ⟨hlines, hair', hkept, hframe⟩ := hkeep
        (u.changeEntry m.id fun e => { e with confirmed := confirmedBy m.outcome }) hstatus hback
      generalize State.keep _ m.id _ = t at hlines hair' hkept hframe
      have hfound : ∀ j, t.airEntry j = (s.airEntry j).map fun e =>
          if e.id = m.id then { e with confirmed := confirmedBy m.outcome } else e := fun j => by
        rw [← State.airEntry_changeEntry s m.id (f := fun e => { e with confirmed := confirmedBy m.outcome })
          (fun _ => rfl) j, State.airEntry, hair', State.changeEntry_air, hair]
        rfl
      refine ⟨hlines, ⟨fun e' he _ _ => ⟨?_, fun j hj => ?_, ?_, hkept⟩, fun h => nomatch h⟩, fun e' he hbad => ?_, hframe⟩
      · cases he
        rw [hfound, hentry, Option.map_some, if_pos (State.id_of_airEntry hentry)]
        cases m.outcome <;> rfl
      · rw [hfound]
        cases hj' : s.airEntry j with
        | none => rfl
        | some a => rw [Option.map_some, if_neg fun ha => hj ((State.id_of_airEntry hj').symm.trans ha)]
      · rw [hair', State.changeEntry_air, List.length_map, hair]
      · cases he
        obtain hpending | hother := hbad
        · rw [hcode.1] at hpending
          exact nomatch hpending
        · exact absurd hcode.2 hother
    · rw [if_neg hcode]
      refine ⟨rfl, ⟨fun e' he hon hc => ?_, fun h => nomatch h⟩, fun e' he _ => ⟨hair, hstatus⟩, ?_⟩
      · cases he
        exact absurd ⟨hon, hc⟩ hcode
      · calc { u with lines := s.lines, air := s.air, status := s.status }
            = { ({ u with lines := s.lines, air := s.air } : State) with status := s.status } := rfl
          _ = s := by rw [hback]

/-! ### The TUNEs held by the Watch Unit (R159) -/

theorem State.onLine_self (s : State) (k : Fin 4) : s.onLine k (fun _ => s.line k) = s := by
  have h : s.lines.set k.val (s.line k) k.isLt = s.lines := Vector.set_getElem_self _
  exact State.eq_of_fields (by simp [h])

theorem State.onLine_onLine_const (s : State) (k : Fin 4) (f : Line → Line) (l : Line) :
    (s.onLine k f).onLine k (fun _ => l) = s.onLine k fun _ => l :=
  State.eq_of_fields (by simp)

theorem Line.accepts_live_iff (l : Line) : l.accepts true = true ↔ l.live.length + l.plan.length < 8 := by
  simp [Line.accepts, Line.queued, Config.queueCapacity]

/-- The TUNEs held for a line, offered oldest first. -/
theorem offerHeld_eq (k : Fin 4) (hs : List HeldTune) (s : State) (hlive : ∀ h ∈ hs, h.tune.live = true)
    (hids : (hs.map fun h => h.tune.id).Nodup)
    (hone : ∀ h ∈ hs, ∀ x ∈ s.watch.heldTunes, x.tune.id = h.tune.id → x = h) :
    offerHeld k hs s =
      let mine := hs.filter fun h => decide (h.line = k)
      let offered := offersTaken (s.line k) (mine.map HeldTune.tune)
      { s.onLine k fun _ => offered.1 with
        watch := { s.watch with heldTunes := s.watch.heldTunes.filter fun h => decide (h ∉ mine.take offered.2) } } := by
  have hnone : ∀ s : State, { s.onLine k fun _ => s.line k with watch := { s.watch with
      heldTunes := s.watch.heldTunes.filter fun h => decide (h ∉ ([] : List HeldTune)) } } = s := fun s => by
    rw [State.onLine_self]
    simp
  induction hs generalizing s with
  | nil => exact (hnone s).symm
  | cons h hs ih =>
    rw [List.map_cons, List.nodup_cons] at hids
    obtain ⟨hfresh, hids⟩ := hids
    have hlive' := fun x hx => hlive x (List.mem_cons_of_mem h hx)
    unfold offerHeld
    by_cases hline : h.line = k
    · rw [if_pos hline, List.filter_cons_of_pos (by simpa using hline), State.offer_eq, hlive h List.mem_cons_self]
      dsimp only
      rw [List.map_cons, offersTaken]
      by_cases hroom : (s.line k).live.length + (s.line k).plan.length < 8
      · rw [if_pos ((Line.accepts_live_iff _).2 hroom), if_pos hroom]
        dsimp only
        refine (ih _ hlive' hids fun x hx y hy => hone x (List.mem_cons_of_mem h hx) y (List.mem_of_mem_filter hy)).trans ?_
        have hline' : ∀ w, State.line { s.onLine k (fun l => lineTakes l h.tune) with watch := w } k =
            lineTakes (s.line k) h.tune := fun w => s.line_onLine_same k fun l => lineTakes l h.tune
        dsimp only
        rw [hline', State.onLine_watch, List.filter_filter]
        generalize offersTaken (lineTakes (s.line k) h.tune) _ = offered
        have hfilter : (s.watch.heldTunes.filter fun x =>
            decide (x ∉ (hs.filter fun h => decide (h.line = k)).take offered.2) && (x.tune.id != h.tune.id)) =
              s.watch.heldTunes.filter fun x =>
                decide (x ∉ (h :: hs.filter fun h => decide (h.line = k)).take (offered.2 + 1)) := by
          refine List.filter_congr fun x hx => ?_
          have hsame : x.tune.id = h.tune.id ↔ x = h := ⟨hone h List.mem_cons_self x hx, fun e => by rw [e]⟩
          rw [List.take_succ_cons, Bool.eq_iff_iff]
          simp [hsame, and_comm]
        rw [hfilter]
        generalize (s.watch.heldTunes.filter fun x =>
          decide (x ∉ (h :: hs.filter fun h => decide (h.line = k)).take (offered.2 + 1))) = left
        exact congrArg (fun t : State => { t with watch := { s.watch with heldTunes := left } })
          (s.onLine_onLine_const k (fun l => lineTakes l h.tune) offered.1)
      · rw [if_neg (mt (Line.accepts_live_iff _).1 hroom), if_neg hroom]
        exact (hnone s).symm
    · rw [if_neg hline, List.filter_cons_of_neg (by simpa using hline)]
      exact ih s hlive' hids (fun x hx => hone x (List.mem_cons_of_mem h hx))

/-! ### The TUNE held by the engine (R83, R134) -/

theorem exec_queueRoomNotice {k : Fin 4} (first : Bool) {s : State} (h : (s.line k).roomNotices ≠ 0) :
    let told := s.onLine k fun l => { l with roomNotices := l.roomNotices - 1 }
    exec (.queueRoomNotice k first) s =
      .next (if first then (told.engineRoom k).watchRoom k else (told.watchRoom k).engineRoom k).serveBus := by
  refine congrArg Host.Outcome.next ((s.whenDue_of_due _ (by simp [h])).trans ?_)
  cases first <;> rfl

theorem State.readsBins_of_none {s : State} (h : s.engine.reading = none) : s.readsBins = false := by
  rw [State.readsBins, h]
  rfl

/-- The engine at its order, outside a service and a reading. -/
theorem State.engineMicro_of_order {s : State} {o : EngineOrder} (hservice : s.engine.service = none)
    (hreading : s.engine.reading = none) (ho : s.engine.order = some o) : s.engineMicro = s.orderMicro o := by
  unfold State.engineMicro
  rw [State.readsBins_of_none hreading, hservice, ho]
  rfl

/-- An entry with a rack: its plan-class TUNE is offered. -/
theorem State.tuneNext_eq {s : State} {id : Nat} {e : AirEntry} {r : Rack} (o : EngineOrder) (rest : List Nat)
    (he : s.airEntry id = some e) (hr : e.rack = some r) : s.tuneNext o (id :: rest) =
      if (s.line r.line).accepts false = true then
        { s.onLine r.line fun l => lineTakes l ⟨false, r.addr, r.slot, id, e.code⟩ with
          engine := { s.engine with pos := .tune rest false } }
      else { s with engine := { s.engine with pos := .tuneHeld (id :: rest) } } := by
  unfold State.tuneNext
  by_cases h : (s.line r.line).accepts false = true
  · simp only [he, Option.bind_some, hr, Option.map_some, State.offer_eq, if_pos h]
    rfl
  · simp only [he, Option.bind_some, hr, Option.map_some, State.offer_eq, if_neg h]
    rfl

theorem Line.accepts_plan_iff (l : Line) : l.accepts false = true ↔ queueAccepts l false := by
  simp [Line.accepts, Line.queued, Config.planLimit, queueAccepts]

/-- Settles O30: the TUNEs held by the engine and by the Watch Unit are offered. -/
theorem roomNoticeOffersHeldTune : Obligations.RoomNoticeOffersHeldTune := by
  refine ⟨fun k b s h => exec_queueRoomNotice b h, fun k s hlive hids => ?_, fun k s hpos => ?_,
    fun k id rest o e r s hpos ho he hr => ⟨fun h => ?_, fun hline hservice hreading => ?_,
      fun u hservice hreading ho hpos => ?_⟩⟩
  · refine offerHeld_eq k _ s hlive hids fun h hh x hx hid => ?_
    exact List.inj_on_of_nodup_map hids hx hh hid
  · unfold State.engineRoom
    split
    · rename_i id rest h
      exact absurd h (hpos _)
    · rfl
  · unfold State.engineRoom
    rw [hpos]
    refine if_neg fun ⟨hheld, hnone⟩ => ?_
    obtain h | h := h
    · simp [State.heldLine, he, hr, h] at hheld
    · simp [hnone] at h
  · intro goesOn
    subst hline
    have hroom : s.engineRoom r.line = (s.setPos (.tune (id :: rest) true)).engineGo := by
      unfold State.engineRoom
      rw [hpos]
      exact if_pos ⟨by simp [State.heldLine, he, hr], hservice⟩
    generalize hu : s.setPos (.tune (id :: rest) true) = u at hroom
    have hmicro : u.engineMicro = some (if s.engine.requests = [] then u.tuneNext o (id :: rest) else u.serveHead) := by
      rw [← hu]
      exact State.engineMicro_of_order (s := s.setPos _) hservice hreading ho
    have hgo : u.engineGo = goesOn (if s.engine.requests = [] then u.tuneNext o (id :: rest) else u.serveHead) :=
      runMicro_some hmicro (Config.microSteps - 1)
    have hnext := State.tuneNext_eq (s := u) o rest (by rw [← hu]; exact he) hr
    have hu' : ∀ l, (u.line l).accepts false = true ↔ queueAccepts (s.line l) false := fun l => by
      rw [← hu]
      exact Line.accepts_plan_iff _
    rw [hroom, hgo]
    refine ⟨fun hreq hno => ?_, fun hreq hyes => ?_, fun hreq => ?_⟩
    · rw [if_pos hreq, hnext, if_neg (mt (hu' _).1 hno), ← hu]
      have hback : ({ s.setPos (.tune (id :: rest) true) with
          engine := { (s.setPos (.tune (id :: rest) true)).engine with pos := .tuneHeld (id :: rest) } } : State) = s := by
        rw [← hpos]
        rfl
      rw [hback]
      refine runMicro_none ((State.engineMicro_of_order hservice hreading ho).trans ?_) _
      unfold State.orderMicro
      rw [hpos]
      exact if_pos hreq
    · rw [if_pos hreq, hnext, if_pos ((hu' _).2 hyes), ← hu]
      rfl
    · rw [if_neg hreq, ← hu]
      rfl
  · rw [State.engineMicro_of_order hservice hreading ho]
    unfold State.orderMicro
    rw [hpos]
    rfl

end Sys2Proof.Machine
end

section
/-! The candidate walk, point by point (chapter 4, 4.5 and 4.9). -/

namespace Sys2Proof.Machine

/-! ### The points -/

theorem Walk.point_zero (w : Walk) : w.point 0 = w.start := rfl

theorem Walk.point_up (w : Walk) (d : Nat) : w.point (2 * d + 1) = w.start + (d + 1) * w.step := by
  unfold Walk.point
  rw [if_neg (by omega), if_pos (by omega), show (2 * d + 1 + 1) / 2 = d + 1 by omega]
  push_cast
  rfl

theorem Walk.point_down (w : Walk) (d : Nat) : w.point (2 * d + 2) = w.start - (d + 1) * w.step := by
  unfold Walk.point
  rw [if_neg (by omega), if_neg (by omega), show (2 * d + 2) / 2 = d + 1 by omega]
  push_cast
  rfl

/-! ### What a walk has passed over -/

/-- Point i lies outside the range. -/
def Walk.outside (w : Walk) (i : Nat) : Prop := w.point i < w.low ∨ w.high < w.point i

/-- The upward direction is exhausted before point j. -/
def Walk.upOver (w : Walk) (j : Nat) : Prop :=
  w.upDone = true ∨ ∃ i, w.index ≤ i ∧ i < j ∧ i % 2 = 1 ∧ w.outside i

/-- The downward direction is exhausted before point j. -/
def Walk.downOver (w : Walk) (j : Nat) : Prop :=
  w.downDone = true ∨ ∃ i, w.index ≤ i ∧ i < j ∧ i % 2 = 0 ∧ i ≠ 0 ∧ w.outside i

/-- Point j is not examined. -/
def Walk.passed (w : Walk) (j : Nat) : Prop :=
  w.outside j ∨ w.skip = some (w.point j) ∨ (w.point j - w.lattice) % (w.step : Int) ≠ 0 ∨
    (j % 2 = 1 ∧ w.upOver j ∨ j % 2 = 0 ∧ j ≠ 0 ∧ w.downOver j)

/-- The walk after its next point: one outside the range exhausts its direction. -/
def Walk.advanced (w : Walk) : Walk :=
  let out := decide (w.point w.index < w.low ∨ w.high < w.point w.index)
  { w with
    index := w.index + 1
    upDone := w.upDone || (decide (w.index % 2 = 1) && out)
    downDone := w.downDone || (decide (w.index % 2 = 0 ∧ w.index ≠ 0) && out) }

theorem Walk.upOver_index (w : Walk) : w.upOver w.index ↔ w.upDone = true := by
  refine ⟨?_, .inl⟩
  rintro (h | ⟨i, hle, hlt, -⟩)
  · exact h
  · omega

theorem Walk.downOver_index (w : Walk) : w.downOver w.index ↔ w.downDone = true := by
  refine ⟨?_, .inl⟩
  rintro (h | ⟨i, hle, hlt, -⟩)
  · exact h
  · omega

theorem Walk.upOver_advanced {w : Walk} {j : Nat} (h : w.index < j) : w.advanced.upOver j ↔ w.upOver j := by
  have hdone : w.advanced.upDone = true ↔ w.upDone = true ∨ w.index % 2 = 1 ∧ w.outside w.index := by
    simp [Walk.advanced, Walk.outside]
  rw [Walk.upOver, hdone]
  constructor
  · rintro ((hup | hout) | ⟨i, hle, hlt, hi⟩)
    · exact .inl hup
    · exact .inr ⟨w.index, le_rfl, h, hout⟩
    · exact .inr ⟨i, Nat.le_of_succ_le hle, hlt, hi⟩
  · rintro (hup | ⟨i, hle, hlt, hi⟩)
    · exact .inl (.inl hup)
    · obtain rfl | hne := eq_or_lt_of_le hle
      · exact .inl (.inr hi)
      · exact .inr ⟨i, hne, hlt, hi⟩

theorem Walk.downOver_advanced {w : Walk} {j : Nat} (h : w.index < j) : w.advanced.downOver j ↔ w.downOver j := by
  have hdone : w.advanced.downDone = true ↔
      w.downDone = true ∨ w.index % 2 = 0 ∧ w.index ≠ 0 ∧ w.outside w.index := by
    simp [Walk.advanced, Walk.outside, and_assoc]
  rw [Walk.downOver, hdone]
  constructor
  · rintro ((hdown | hout) | ⟨i, hle, hlt, hi⟩)
    · exact .inl hdown
    · exact .inr ⟨w.index, le_rfl, h, hout⟩
    · exact .inr ⟨i, Nat.le_of_succ_le hle, hlt, hi⟩
  · rintro (hdown | ⟨i, hle, hlt, hi⟩)
    · exact .inl (.inl hdown)
    · obtain rfl | hne := eq_or_lt_of_le hle
      · exact .inl (.inr hi)
      · exact .inr ⟨i, hne, hlt, hi⟩

theorem Walk.passed_advanced {w : Walk} {j : Nat} (h : w.index < j) : w.advanced.passed j ↔ w.passed j := by
  rw [Walk.passed, Walk.upOver_advanced h, Walk.downOver_advanced h]
  rfl

/-- A point that is examined lies inside the range, and its direction is not exhausted by it. -/
theorem Walk.advanced_of_not_passed {w : Walk} (h : ¬ w.passed w.index) :
    w.advanced = { w with index := w.index + 1 } := by
  have hin : ¬ (w.point w.index < w.low ∨ w.high < w.point w.index) := fun hout => h (.inl hout)
  simp only [Walk.advanced, decide_eq_false hin, Bool.and_false, Bool.or_false]

/-! ### The walk goes on -/

theorem walkNext_of_done {w : Walk} (fuel : Nat) (hup : w.upDone = true) (hdown : w.downDone = true) :
    walkNext fuel w = (none, w) := by
  cases fuel with
  | zero => rfl
  | succ n => simp [walkNext, hup, hdown]

/-- A point that is not examined. -/
theorem walkNext_of_passed {w : Walk} (fuel : Nat) (hopen : ¬ (w.upDone = true ∧ w.downDone = true))
    (h : w.passed w.index) : walkNext (fuel + 1) w = walkNext fuel w.advanced := by
  unfold Walk.passed at h
  rw [Walk.upOver_index, Walk.downOver_index] at h
  rw [walkNext]
  dsimp only
  rw [if_neg (by simpa using hopen)]
  by_cases hdir : w.index % 2 = 1 ∧ w.upDone = true ∨ (w.index % 2 = 0 ∧ w.index ≠ 0) ∧ w.downDone = true
  · rw [if_pos (by simpa using hdir)]
    refine congrArg (walkNext fuel) ?_
    obtain ⟨hodd, hup⟩ | ⟨⟨heven, -⟩, hdown⟩ := hdir
    · simp [Walk.advanced, hup, hodd]
    · simp [Walk.advanced, hdown, heven]
  · rw [if_neg (by simpa using hdir)]
    by_cases hout : w.point w.index < w.low ∨ w.high < w.point w.index
    · rw [if_pos hout]
      simp only [Walk.advanced, decide_eq_true hout, Bool.and_true]
    · have hsame : w.advanced = { w with index := w.index + 1 } := by
        simp only [Walk.advanced, decide_eq_false hout, Bool.and_false, Bool.or_false]
      rw [if_neg hout, hsame]
      by_cases hskip : w.skip = some (w.point w.index)
      · rw [if_pos hskip]
      · rw [if_neg hskip]
        refine if_pos ?_
        obtain h | h | h | h := h
        · exact absurd h hout
        · exact absurd h hskip
        · exact h
        · exact absurd (h.imp id fun ⟨heven, hpos, hdown⟩ => ⟨⟨heven, hpos⟩, hdown⟩) hdir

/-- A point that is examined. -/
theorem walkNext_of_examined {w : Walk} (fuel : Nat) (hopen : ¬ (w.upDone = true ∧ w.downDone = true))
    (h : ¬ w.passed w.index) : walkNext (fuel + 1) w = (some (w.point w.index).toNat, w.advanced) := by
  rw [Walk.advanced_of_not_passed h]
  unfold Walk.passed at h
  rw [Walk.upOver_index, Walk.downOver_index] at h
  simp only [not_or] at h
  obtain ⟨hin, hskip, hlattice, hup, hdown⟩ := h
  have hin : ¬ (w.point w.index < w.low ∨ w.high < w.point w.index) := hin
  have hdir : ¬ (w.index % 2 = 1 ∧ w.upDone = true ∨ (w.index % 2 = 0 ∧ w.index ≠ 0) ∧ w.downDone = true) := by
    rintro (h | ⟨⟨heven, hpos⟩, h⟩)
    · exact hup h
    · exact hdown ⟨heven, hpos, h⟩
  rw [walkNext]
  dsimp only
  rw [if_neg (by simpa using hopen), if_neg (by simpa using hdir), if_neg hin, if_neg hskip, if_neg hlattice]

/-- What a walk has done when it stops: the flags it carries, and every point before the one it gives passed over. -/
def Walk.stops (w : Walk) (r : Option Nat) (w' : Walk) : Prop :=
  { w' with index := w.index, upDone := w.upDone, downDone := w.downDone } = w ∧ w.index ≤ w'.index ∧
    (w'.upDone = true ↔ w.upOver w'.index) ∧ (w'.downDone = true ↔ w.downOver w'.index) ∧
    (r = none → ∀ j, w.index ≤ j → j < w'.index → w.passed j) ∧
    ∀ x, r = some x → ¬ (w'.upDone = true ∧ w'.downDone = true) ∧
      ∃ k, w.index ≤ k ∧ w'.index = k + 1 ∧ x = (w.point k).toNat ∧ ¬ w.passed k ∧
        ∀ j, w.index ≤ j → j < k → w.passed j

/-- A walk that stops where it stands. -/
theorem Walk.stops_here (w : Walk) : w.stops none w :=
  ⟨rfl, le_rfl, w.upOver_index.symm, w.downOver_index.symm, fun _ j hle hlt => absurd hle (by omega),
    fun x h => nomatch h⟩

/-- A walk that gives its next point. -/
theorem Walk.stops_examined {w : Walk} (hopen : ¬ (w.upDone = true ∧ w.downDone = true)) (h : ¬ w.passed w.index) :
    w.stops (some (w.point w.index).toNat) w.advanced := by
  have hindex : w.index < w.advanced.index := Nat.lt_succ_self _
  refine ⟨rfl, hindex.le, ?_, ?_, fun h => absurd h (Option.some_ne_none _), fun x hx => ⟨?_, w.index, le_rfl, rfl, ?_, h,
    fun j hle hlt => absurd hle (by omega)⟩⟩
  · rw [← Walk.upOver_index, Walk.upOver_advanced hindex]
  · rw [← Walk.downOver_index, Walk.downOver_advanced hindex]
  · rw [Walk.advanced_of_not_passed h]
    exact hopen
  · exact (Option.some.inj hx).symm

/-- A walk that goes on behind a point passed over. -/
theorem Walk.stops_of_advanced {w w' : Walk} {r : Option Nat} (h : w.passed w.index) (hw : w.advanced.stops r w') :
    w.stops r w' := by
  obtain ⟨hframe, hle, hup, hdown, hnone, hsome⟩ := hw
  have hindex : w.index < w'.index := hle
  have hpassed : ∀ j, w.index ≤ j → (w.advanced.index ≤ j → w.advanced.passed j) → w.passed j := fun j hj hnext => by
    obtain rfl | hlt := eq_or_lt_of_le hj
    · exact h
    · exact (Walk.passed_advanced hlt).1 (hnext hlt)
  refine ⟨?_, hindex.le, hup.trans (Walk.upOver_advanced hindex), hdown.trans (Walk.downOver_advanced hindex),
    fun hr j hj hlt => hpassed j hj fun hj' => hnone hr j hj' hlt, fun x hr => ?_⟩
  · exact congrArg (fun v : Walk => { v with index := w.index, upDone := w.upDone, downDone := w.downDone }) hframe
  · obtain ⟨hopen, k, hk, hindex', hx, hexamined, hbefore⟩ := hsome x hr
    have hk' : w.index < k := hk
    exact ⟨hopen, k, hk'.le, hindex', hx, mt (Walk.passed_advanced hk').2 hexamined,
      fun j hj hlt => hpassed j hj fun hj' => hbefore j hj' hlt⟩

/-- A walk of so many points: it stops as stated, and gives none only when both directions are exhausted or its points
are used up. -/
theorem walkNext_stops (fuel : Nat) (w : Walk) : w.stops (walkNext fuel w).1 (walkNext fuel w).2 ∧
    ((walkNext fuel w).1 = none → ((walkNext fuel w).2.upDone = true ∧ (walkNext fuel w).2.downDone = true) ∨
      (walkNext fuel w).2.index = w.index + fuel) := by
  induction fuel generalizing w with
  | zero => exact ⟨w.stops_here, fun _ => .inr rfl⟩
  | succ n ih =>
    by_cases hdone : w.upDone = true ∧ w.downDone = true
    · rw [walkNext_of_done _ hdone.1 hdone.2]
      exact ⟨w.stops_here, fun _ => .inl hdone⟩
    · by_cases hpassed : w.passed w.index
      · rw [walkNext_of_passed n hdone hpassed]
        obtain ⟨hstops, hnone⟩ := ih w.advanced
        refine ⟨Walk.stops_of_advanced hpassed hstops, fun h => (hnone h).imp id fun hindex => hindex.trans ?_⟩
        exact Nat.add_right_comm w.index 1 n
      · rw [walkNext_of_examined n hdone hpassed]
        exact ⟨Walk.stops_examined hdone hpassed, fun h => nomatch h⟩

/-! ### Both directions leave the grid -/

/-- Of points far enough apart in one direction one lies outside the grid. -/
theorem Walk.far_outside {w : Walk} {a b : Int} {n : Nat} (hstep : 1 ≤ w.step) (hlow : 0 ≤ w.low)
    (hhigh : w.high ≤ 8959) (hn : 8960 ≤ n) (hab : b = a + n * w.step ∨ b = a - n * w.step) :
    (a < w.low ∨ w.high < a) ∨ b < w.low ∨ w.high < b := by
  have hfar : (8960 : Int) ≤ n * w.step := by exact_mod_cast Nat.le_trans hn (Nat.le_mul_of_pos_right n hstep)
  omega

/-- Upward, some point among so many lies outside. -/
theorem Walk.upOver_far {w : Walk} (hstep : 1 ≤ w.step) (hlow : 0 ≤ w.low) (hhigh : w.high ≤ 8959) :
    w.upOver (w.index + walkFuel) := by
  have hfuel : walkFuel = 17928 := rfl
  obtain ⟨d, hle, hlt⟩ : ∃ d, w.index ≤ 2 * d + 1 ∧ 2 * d + 1 ≤ w.index + 1 := ⟨w.index / 2, by omega, by omega⟩
  have hpoints : w.point (2 * (d + 8960) + 1) = w.point (2 * d + 1) + (8960 : Nat) * w.step := by
    rw [Walk.point_up, Walk.point_up]
    push_cast
    ring
  obtain hout | hout := Walk.far_outside hstep hlow hhigh le_rfl (.inl hpoints)
  · exact .inr ⟨2 * d + 1, hle, by omega, by omega, hout⟩
  · exact .inr ⟨2 * (d + 8960) + 1, by omega, by omega, by omega, hout⟩

/-- Downward, some point among so many lies outside. -/
theorem Walk.downOver_far {w : Walk} (hstep : 1 ≤ w.step) (hlow : 0 ≤ w.low) (hhigh : w.high ≤ 8959) :
    w.downOver (w.index + walkFuel) := by
  have hfuel : walkFuel = 17928 := rfl
  obtain ⟨d, hle, hlt⟩ : ∃ d, w.index ≤ 2 * d + 2 ∧ 2 * d + 2 ≤ w.index + 2 :=
    ⟨(w.index - 1) / 2, by omega, by omega⟩
  have hpoints : w.point (2 * (d + 8960) + 2) = w.point (2 * d + 2) - (8960 : Nat) * w.step := by
    rw [Walk.point_down, Walk.point_down]
    push_cast
    ring
  obtain hout | hout := Walk.far_outside hstep hlow hhigh le_rfl (.inr hpoints)
  · exact .inr ⟨2 * d + 2, hle, by omega, by omega, by omega, hout⟩
  · exact .inr ⟨2 * (d + 8960) + 2, by omega, by omega, by omega, by omega, hout⟩

/-- Settles O31, by induction on the number of points that a walk may generate. -/
theorem walkGivesNextLatticePoint : Obligations.WalkGivesNextLatticePoint := by
  refine ⟨fun p low high step limit skip => by simp [startWalk, Config.codes], fun w d => ⟨w.point_zero, w.point_up d, w.point_down d⟩,
    fun w w' r hnext => ?_⟩
  intro outside upOver downOver dirOver passed
  obtain ⟨hstops, hused⟩ := walkNext_stops walkFuel w
  rw [show walkNext walkFuel w = (r, w') from hnext] at hstops hused
  obtain ⟨hframe, hle, hup, hdown, hnone, hsome⟩ := hstops
  refine ⟨hframe, hle, hup, hdown, fun hstep hlow hhigh => ⟨fun hr => ?_, fun hdone => ?_⟩, hnone, fun x hx hlow => ?_⟩
  · obtain hdone | hindex := hused hr
    · exact hdone
    · rw [hindex] at hup hdown
      exact ⟨hup.2 (Walk.upOver_far hstep hlow hhigh), hdown.2 (Walk.downOver_far hstep hlow hhigh)⟩
  · cases r with
    | none => rfl
    | some x => exact absurd hdone (hsome x rfl).1
  · obtain ⟨-, k, hk, hindex, rfl, hexamined, hbefore⟩ := hsome x hx
    have hin : ¬ w.outside k := fun h => hexamined (.inl h)
    unfold Walk.outside at hin
    exact ⟨k, hk, hindex, Int.toNat_of_nonneg (by omega), hexamined, hbefore⟩

end Sys2Proof.Machine
end

section
/-! The compatibility arithmetic: the conflicts of an entry, and tests 2 to 6 (chapter 1). -/

namespace Sys2Proof.Machine

/-! ### One product (R8 to R11) -/

theorem within_iff (g : Nat) (y x : Int) : within g y x = true ↔ near g y x := by
  simp only [within, near, decide_eq_true_eq]
  omega

theorem State.spacingHit_iff (s : State) (v u : Tx) : s.spacingHit v u = true ↔
    near s.params.gcc u.code v.code ∧ s.isolation u.stage v.stage < s.params.reuse := by
  simp [State.spacingHit, within_iff]

theorem State.t3Hit_iff (s : State) (v a b : Tx) : s.t3Hit v a b = true ↔ t3Conflict s v a b := by
  rw [State.t3Hit, Bool.and_eq_true, within_iff, decide_eq_true_eq]
  rfl

theorem State.t3xHit_iff (s : State) (v a b c : Tx) : s.t3xHit v a b c = true ↔ t3xConflict s v a b c := by
  rw [State.t3xHit, Bool.and_eq_true, Bool.and_eq_true, within_iff, decide_eq_true_eq, and_assoc]
  rfl

theorem State.t5Hit_iff (s : State) (v a b : Tx) : s.t5Hit v a b = true ↔ t5Conflict s v a b := by
  rw [State.t5Hit, Bool.and_eq_true, Bool.and_eq_true, within_iff, decide_eq_true_eq, and_assoc]
  rfl

/-- The two constituents that a T3X product adds may change places. -/
theorem t3xConflict_comm (s : State) (v a b c : Tx) : t3xConflict s v a b c ↔ t3xConflict s v b a c := by
  unfold t3xConflict
  rw [add_comm (a.code : Int), add_comm (signal s a v.stage)]

/-! ### Pairs and thirds of a list -/

theorem mem_orderedPairs {l : List Tx} {p : Tx × Tx} :
    p ∈ orderedPairs l ↔ p.1 ∈ l ∧ p.2 ∈ l ∧ p.1.id ≠ p.2.id := by
  obtain ⟨a, b⟩ := p
  simp only [orderedPairs, List.mem_flatMap, List.mem_map, List.mem_filter, bne_iff_ne, Prod.mk.injEq]
  constructor
  · rintro ⟨a, ha, b, ⟨hb, hne⟩, rfl, rfl⟩
    exact ⟨ha, hb, hne.symm⟩
  · rintro ⟨ha, hb, hne⟩
    exact ⟨a, ha, b, ⟨hb, hne.symm⟩, rfl, rfl⟩

theorem mem_thirds {l : List Tx} {a b c : Tx} : c ∈ thirds l a b ↔ c ∈ l ∧ c.id ≠ a.id ∧ c.id ≠ b.id := by
  simp [thirds]

/-- The pairs of a list in order are those in which the order holds from the first to the second. -/
theorem mem_unorderedPairs {R : Tx → Tx → Prop} (hR : ∀ a b, R a b → ¬ R b a) {l : List Tx} (hl : l.Pairwise R)
    {p : Tx × Tx} : p ∈ unorderedPairs l ↔ p.1 ∈ l ∧ p.2 ∈ l ∧ R p.1 p.2 := by
  induction l with
  | nil => simp [unorderedPairs]
  | cons x l ih =>
    obtain ⟨hx, hl⟩ := List.pairwise_cons.1 hl
    have hself : ¬ R x x := fun h => hR x x h h
    rw [unorderedPairs, List.mem_append, List.mem_map, ih hl, List.mem_cons, List.mem_cons]
    constructor
    · rintro (⟨b, hb, rfl⟩ | ⟨h1, h2, h⟩)
      · exact ⟨.inl rfl, .inr hb, hx b hb⟩
      · exact ⟨.inr h1, .inr h2, h⟩
    · obtain ⟨a, b⟩ := p
      dsimp only
      rintro ⟨rfl | h1, rfl | h2, h⟩
      · exact absurd h hself
      · exact .inl ⟨b, h2, rfl⟩
      · exact absurd h (hR _ _ (hx a h1))
      · exact .inr ⟨h1, h2, h⟩

/-- Of two members of an ordered list one comes first. -/
theorem pairwise_or_flip {R : Tx → Tx → Prop} {l : List Tx} (hl : l.Pairwise R) {a b : Tx} (ha : a ∈ l) (hb : b ∈ l)
    (hne : a ≠ b) : R a b ∨ R b a := by
  induction l with
  | nil => exact nomatch ha
  | cons x l ih =>
    obtain ⟨hx, hl⟩ := List.pairwise_cons.1 hl
    obtain rfl | ha' := List.mem_cons.1 ha <;> obtain rfl | hb' := List.mem_cons.1 hb
    · exact absurd rfl hne
    · exact .inl (hx b hb')
    · exact .inr (hx a ha')
    · exact ih hl ha' hb'

/-- The ordered pairs come by the first, then by the second. -/
theorem orderedPairs_pairwise {R : Tx → Tx → Prop} {l : List Tx} (h : l.Pairwise R) :
    (orderedPairs l).Pairwise fun p q => R p.1 q.1 ∨ p.1 = q.1 ∧ R p.2 q.2 := by
  refine List.pairwise_flatMap.2 ⟨fun a _ => ?_, h.imp fun {a b} hab x hx y hy => ?_⟩
  · exact List.pairwise_map.2 ((h.filter _).imp fun hR => .inr ⟨rfl, hR⟩)
  · obtain ⟨_, -, rfl⟩ := List.mem_map.1 hx
    obtain ⟨_, -, rfl⟩ := List.mem_map.1 hy
    exact .inl hab

/-- The unordered pairs come by the first, then by the second. -/
theorem unorderedPairs_pairwise {R : Tx → Tx → Prop} {l : List Tx} (h : l.Pairwise R) :
    (unorderedPairs l).Pairwise fun p q => R p.1 q.1 ∨ p.1 = q.1 ∧ R p.2 q.2 := by
  induction l with
  | nil => exact List.Pairwise.nil
  | cons x l ih =>
    obtain ⟨hx, hl⟩ := List.pairwise_cons.1 h
    have hfirst : ∀ q ∈ unorderedPairs l, q.1 ∈ l := by
      clear ih h hx hl
      induction l with
      | nil => simp [unorderedPairs]
      | cons y l ih =>
        intro q hq
        obtain hq | hq := List.mem_append.1 hq
        · obtain ⟨_, -, rfl⟩ := List.mem_map.1 hq
          exact List.mem_cons_self
        · exact List.mem_cons_of_mem _ (ih q hq)
    refine List.pairwise_append.2 ⟨List.pairwise_map.2 (hl.imp fun hR => .inr ⟨rfl, hR⟩), ih hl, fun p hp q hq => ?_⟩
    obtain ⟨_, -, rfl⟩ := List.mem_map.1 hp
    exact .inl (hx _ (hfirst q hq))

/-! ### The constituents of an entry's conflicts, in Air Set order -/

/-- The place of a carrier in the Air Set. -/
def State.place (s : State) (id : Nat) : Nat := s.air.findIdx fun e => e.id == id

/-- The Air Set stands in the order of its places, and of its codes and IDs. -/
theorem airOrdered {s : State} (h : s.airOk) : s.air.Pairwise fun a b =>
    s.place a.id < s.place b.id ∧ (a.code < b.code ∨ a.code = b.code ∧ a.id < b.id) ∧ a.id ≠ b.id := by
  obtain ⟨-, hids, horder, -⟩ := h
  have hplace : ∀ i (hi : i < s.air.length), s.place s.air[i].id = i := fun i hi => by
    refine (List.findIdx_eq hi).2 ⟨by simp, fun j hji => ?_⟩
    have hne := (List.pairwise_iff_getElem.1 (List.nodup_iff_pairwise_ne.1 hids)) j i
      (by rw [List.length_map]; omega) (by rw [List.length_map]; omega) hji
    simpa using hne
  rw [List.pairwise_iff_getElem] at horder ⊢
  intro i j hi hj hij
  refine ⟨by rw [hplace, hplace]; exact hij, by simpa [airBefore] using horder i j hi hj hij, fun hid => ?_⟩
  have := hplace i hi
  rw [hid, hplace] at this
  omega

/-- The other entries stand in the same order. -/
theorem othersOrdered {s : State} (h : s.airOk) (id : Nat) : (othersThan s id).Pairwise fun a b =>
    s.place a.id < s.place b.id ∧ (a.code < b.code ∨ a.code = b.code ∧ a.id < b.id) ∧ a.id ≠ b.id :=
  List.pairwise_map.2 ((airOrdered h).filter _)

theorem airRemove_eq (s : State) (id : Nat) : (airRemove id s.air).map AirEntry.tx = othersThan s id :=
  congrArg (List.map AirEntry.tx) (List.filter_congr fun e _ => Bool.eq_iff_iff.2 (by simp))

/-! ### The conflicts of one victim (R95) -/

section Victim

variable (s : State) (name : Nat) (v : Tx) (l : List Tx)

/-- The records of the SPACING conflicts. -/
def spacingRecords : List Conflict :=
  (l.filter fun u => s.spacingHit v u).map fun u => ⟨.spacing, name, v.stage, u.id, 65535, 65535, u.code, 0⟩

/-- The records of the T3 conflicts. -/
def t3Records : List Conflict :=
  ((orderedPairs l).filter fun p => s.t3Hit v p.1 p.2).map fun p =>
    ⟨.t3, name, v.stage, p.1.id, p.2.id, 65535, t3Product p.1 p.2, s.t3Weight v p.1 p.2⟩

/-- The records of the T3X conflicts. -/
def t3xRecords : List Conflict :=
  (unorderedPairs l).flatMap fun p => ((thirds l p.1 p.2).filter fun c => s.t3xHit v p.1 p.2 c).map fun c =>
    ⟨.t3x, name, v.stage, p.1.id, p.2.id, c.id, t3xProduct p.1 p.2 c, s.t3xWeight v p.1 p.2 c⟩

/-- The records of the T5 conflicts. -/
def t5Records : List Conflict :=
  ((orderedPairs l).filter fun p => s.t5Hit v p.1 p.2).map fun p =>
    ⟨.t5, name, v.stage, p.1.id, p.2.id, 65535, t5Product p.1 p.2, s.t5Weight v p.1 p.2⟩

/-- The record of the OCCUPIED conflict. -/
def occupiedRecords (taken : Bool) : List Conflict :=
  if taken then [⟨.occupied, name, v.stage, 65535, 65535, 65535, v.code, 0⟩] else []

theorem conflictsOf_eq (taken : Bool) : s.conflictsOf name v l taken =
    spacingRecords s name v l ++ t3Records s name v l ++ t3xRecords s name v l ++ t5Records s name v l ++
      occupiedRecords name v taken := rfl

variable {s name v l} {c : Conflict}

theorem mem_spacingRecords : c ∈ spacingRecords s name v l ↔ ∃ u ∈ l, near s.params.gcc u.code v.code ∧
    s.isolation u.stage v.stage < s.params.reuse ∧ c = ⟨.spacing, name, v.stage, u.id, 65535, 65535, u.code, 0⟩ := by
  simp only [spacingRecords, List.mem_map, List.mem_filter, State.spacingHit_iff, and_assoc, eq_comm (a := c)]

theorem mem_t3Records : c ∈ t3Records s name v l ↔ ∃ a ∈ l, ∃ b ∈ l, a.id ≠ b.id ∧ t3Conflict s v a b ∧
    c = ⟨.t3, name, v.stage, a.id, b.id, 65535, t3Product a b, s.t3Weight v a b⟩ := by
  simp only [t3Records, List.mem_map, List.mem_filter, mem_orderedPairs, State.t3Hit_iff, and_assoc, Prod.exists,
    eq_comm (a := c), exists_and_left]

theorem mem_t5Records : c ∈ t5Records s name v l ↔ ∃ a ∈ l, ∃ b ∈ l, a.id ≠ b.id ∧ t5Conflict s v a b ∧
    c = ⟨.t5, name, v.stage, a.id, b.id, 65535, t5Product a b, s.t5Weight v a b⟩ := by
  simp only [t5Records, List.mem_map, List.mem_filter, mem_orderedPairs, State.t5Hit_iff, and_assoc, Prod.exists,
    eq_comm (a := c), exists_and_left]

theorem mem_occupiedRecords {taken : Bool} : c ∈ occupiedRecords name v taken ↔
    taken = true ∧ c = ⟨.occupied, name, v.stage, 65535, 65535, 65535, v.code, 0⟩ := by
  cases taken <;> simp [occupiedRecords]

theorem mem_t3xRecords {R : Tx → Tx → Prop} (hR : ∀ a b, R a b → ¬ R b a) (hl : l.Pairwise R) :
    c ∈ t3xRecords s name v l ↔ ∃ a ∈ l, ∃ b ∈ l, ∃ d ∈ l, R a b ∧ d.id ≠ a.id ∧ d.id ≠ b.id ∧
      t3xConflict s v a b d ∧
      c = ⟨.t3x, name, v.stage, a.id, b.id, d.id, t3xProduct a b d, s.t3xWeight v a b d⟩ := by
  simp only [t3xRecords, List.mem_flatMap, List.mem_map, List.mem_filter, mem_unorderedPairs hR hl, mem_thirds,
    State.t3xHit_iff, and_assoc, Prod.exists, eq_comm (a := c), exists_and_left]
  refine exists_congr fun a => and_congr_right fun _ => exists_congr fun b => and_congr_right fun _ => ⟨?_, ?_⟩
  · rintro ⟨hab, d, hd, hrest⟩
    exact ⟨d, hd, hab, hrest⟩
  · rintro ⟨d, hd, hab, hrest⟩
    exact ⟨hab, d, hd, hrest⟩

/-! The order of the records: by their kinds, and within one kind by the places of the constituents. -/

theorem takenBefore_of_kind {c d : Conflict} (h : kindRank c.kind < kindRank d.kind) : takenBefore s c d := .inl h

theorem takenBefore_of_place {c d : Conflict} (hkind : c.kind = d.kind)
    (h : s.place c.c1 < s.place d.c1 ∨ c.c1 = d.c1 ∧
      (s.place c.c2 < s.place d.c2 ∨ c.c2 = d.c2 ∧ s.place c.c3 < s.place d.c3)) : takenBefore s c d := .inr ⟨hkind, h⟩

theorem takenBefore_irrefl (s : State) (c : Conflict) : ¬ takenBefore s c c := by
  rintro (h | ⟨-, h | ⟨-, h | ⟨-, h⟩⟩⟩) <;> exact lt_irrefl _ h

/-- The conflicts of a victim come in their order, when its constituents do. -/
theorem conflictsOf_pairwise (taken : Bool) (hl : l.Pairwise fun a b => s.place a.id < s.place b.id) :
    (s.conflictsOf name v l taken).Pairwise (takenBefore s) := by
  have kind1 : ∀ c ∈ spacingRecords s name v l, c.kind = .spacing := fun c hc => by
    obtain ⟨_, -, rfl⟩ := List.mem_map.1 hc
    rfl
  have kind2 : ∀ c ∈ t3Records s name v l, c.kind = .t3 := fun c hc => by
    obtain ⟨_, -, rfl⟩ := List.mem_map.1 hc
    rfl
  have kind3 : ∀ c ∈ t3xRecords s name v l, c.kind = .t3x := fun c hc => by
    obtain ⟨_, -, hc⟩ := List.mem_flatMap.1 hc
    obtain ⟨_, -, rfl⟩ := List.mem_map.1 hc
    rfl
  have kind4 : ∀ c ∈ t5Records s name v l, c.kind = .t5 := fun c hc => by
    obtain ⟨_, -, rfl⟩ := List.mem_map.1 hc
    rfl
  have kind5 : ∀ c ∈ occupiedRecords name v taken, c.kind = .occupied := fun c hc => by
    obtain ⟨-, rfl⟩ := mem_occupiedRecords.1 hc
    rfl
  have order1 : (spacingRecords s name v l).Pairwise (takenBefore s) := by
    refine List.pairwise_map.2 (List.Pairwise.imp ?_ (hl.filter _))
    exact fun h => takenBefore_of_place rfl (.inl h)
  have order2 : (t3Records s name v l).Pairwise (takenBefore s) := by
    refine List.pairwise_map.2 (List.Pairwise.imp ?_ ((orderedPairs_pairwise hl).filter _))
    exact fun h => takenBefore_of_place rfl (h.imp id fun ⟨hfst, hsnd⟩ => ⟨congrArg Tx.id hfst, .inl hsnd⟩)
  have order3 : (t3xRecords s name v l).Pairwise (takenBefore s) := by
    refine List.pairwise_flatMap.2 ⟨fun p _ => ?_, (unorderedPairs_pairwise hl).imp fun {p q} hpq x hx y hy => ?_⟩
    · refine List.pairwise_map.2 (List.Pairwise.imp ?_ ((hl.filter _).filter _))
      exact fun h => takenBefore_of_place rfl (.inr ⟨rfl, .inr ⟨rfl, h⟩⟩)
    · obtain ⟨_, -, rfl⟩ := List.mem_map.1 hx
      obtain ⟨_, -, rfl⟩ := List.mem_map.1 hy
      exact takenBefore_of_place rfl (hpq.imp id fun ⟨hfst, hsnd⟩ => ⟨congrArg Tx.id hfst, .inl hsnd⟩)
  have order4 : (t5Records s name v l).Pairwise (takenBefore s) := by
    refine List.pairwise_map.2 (List.Pairwise.imp ?_ ((orderedPairs_pairwise hl).filter _))
    exact fun h => takenBefore_of_place rfl (h.imp id fun ⟨hfst, hsnd⟩ => ⟨congrArg Tx.id hfst, .inl hsnd⟩)
  have order5 : (occupiedRecords name v taken).Pairwise (takenBefore s) := by
    cases taken <;> simp [occupiedRecords]
  have across : ∀ {x y : Conflict} {j k : ConflictKind}, x.kind = j → y.kind = k → kindRank j < kindRank k →
      takenBefore s x y := fun hx hy h => takenBefore_of_kind (by rw [hx, hy]; exact h)
  rw [conflictsOf_eq]
  refine List.pairwise_append.2 ⟨List.pairwise_append.2 ⟨List.pairwise_append.2 ⟨List.pairwise_append.2
    ⟨order1, order2, fun x hx y hy => ?_⟩, order3, fun x hx y hy => ?_⟩, order4, fun x hx y hy => ?_⟩, order5,
    fun x hx y hy => ?_⟩
  · exact across (kind1 x hx) (kind2 y hy) (by decide)
  · obtain hx | hx := List.mem_append.1 hx
    · exact across (kind1 x hx) (kind3 y hy) (by decide)
    · exact across (kind2 x hx) (kind3 y hy) (by decide)
  · obtain hx | hx := List.mem_append.1 hx
    · obtain hx | hx := List.mem_append.1 hx
      · exact across (kind1 x hx) (kind4 y hy) (by decide)
      · exact across (kind2 x hx) (kind4 y hy) (by decide)
    · exact across (kind3 x hx) (kind4 y hy) (by decide)
  · obtain hx | hx := List.mem_append.1 hx
    · obtain hx | hx := List.mem_append.1 hx
      · obtain hx | hx := List.mem_append.1 hx
        · exact across (kind1 x hx) (kind5 y hy) (by decide)
        · exact across (kind2 x hx) (kind5 y hy) (by decide)
      · exact across (kind3 x hx) (kind5 y hy) (by decide)
    · exact across (kind4 x hx) (kind5 y hy) (by decide)

end Victim

/-- Settles O33: the five kinds in their order, each by the places of its constituents. -/
theorem conflictsAreTheFiveKinds : Obligations.ConflictsAreTheFiveKinds := by
  intro e taken s hair he v others record
  have hothers : others.Pairwise _ := othersOrdered hair e.id
  have heq : s.entryConflicts e taken = s.conflictsOf e.id v others taken := by
    rw [State.entryConflicts, airRemove_eq]
    rfl
  have hordered := conflictsOf_pairwise (s := s) (name := e.id) (v := v) taken (hothers.imp fun h => h.1)
  rw [heq]
  refine ⟨List.nodup_iff_pairwise_ne.2 (List.Pairwise.imp ?_ hordered), hordered, fun c => ?_⟩
  · rintro a b h rfl
    exact takenBefore_irrefl s a h
  have hR : ∀ a b : Tx,
      s.place a.id < s.place b.id ∧ (a.code < b.code ∨ a.code = b.code ∧ a.id < b.id) ∧ a.id ≠ b.id →
      ¬ (s.place b.id < s.place a.id ∧ (b.code < a.code ∨ b.code = a.code ∧ b.id < a.id) ∧ b.id ≠ a.id) := by omega
  rw [conflictsOf_eq]
  simp only [List.mem_append, or_assoc, mem_spacingRecords, mem_t3Records, mem_t3xRecords hR hothers, mem_t5Records,
    mem_occupiedRecords]
  refine or_congr Iff.rfl (or_congr Iff.rfl (or_congr ?_ Iff.rfl))
  constructor
  · rintro ⟨a, ha, b, hb, d, hd, ⟨-, hbefore, hab⟩, hda, hdb, hrest⟩
    exact ⟨a, ha, b, hb, d, hd, hab, hda, hdb, hbefore, hrest⟩
  · rintro ⟨a, ha, b, hb, d, hd, hab, hda, hdb, hbefore, hrest⟩
    obtain hR | ⟨-, hflip, -⟩ := pairwise_or_flip hothers ha hb fun h => hab (congrArg Tx.id h)
    · exact ⟨a, ha, b, hb, d, hd, hR, hda, hdb, hrest⟩
    · omega

/-! ### Tests 2 to 6 (R17 to R22) -/

section Tests

variable {l : List Tx}

theorem ids_pairwise (h : (l.map Tx.id).Nodup) : l.Pairwise fun a b => a.id ≠ b.id :=
  List.pairwise_map.1 (List.nodup_iff_pairwise_ne.1 h)

/-- A pair of distinct members stands among the unordered pairs, one way or the other. -/
theorem unorderedPairs_complete {a b : Tx} (ha : a ∈ l) (hb : b ∈ l) (hne : a.id ≠ b.id) :
    (a, b) ∈ unorderedPairs l ∨ (b, a) ∈ unorderedPairs l := by
  induction l with
  | nil => exact nomatch ha
  | cons x l ih =>
    simp only [unorderedPairs, List.mem_append, List.mem_map]
    obtain rfl | ha' := List.mem_cons.1 ha <;> obtain rfl | hb' := List.mem_cons.1 hb
    · exact absurd rfl hne
    · exact .inl (.inl ⟨b, hb', rfl⟩)
    · exact .inr (.inl ⟨a, ha', rfl⟩)
    · exact (ih ha' hb').imp .inr .inr

theorem unorderedPairs_sound (h : (l.map Tx.id).Nodup) {p : Tx × Tx} (hp : p ∈ unorderedPairs l) :
    p.1 ∈ l ∧ p.2 ∈ l ∧ p.1.id ≠ p.2.id := by
  induction l with
  | nil => exact nomatch hp
  | cons x l ih =>
    obtain ⟨hx, hl⟩ := List.nodup_cons.1 h
    obtain hp | hp := List.mem_append.1 hp
    · obtain ⟨b, hb, rfl⟩ := List.mem_map.1 hp
      exact ⟨List.mem_cons_self, List.mem_cons_of_mem _ hb, fun he => hx (List.mem_map.2 ⟨b, hb, he.symm⟩)⟩
    · obtain ⟨h1, h2, hne⟩ := ih hl hp
      exact ⟨List.mem_cons_of_mem _ h1, List.mem_cons_of_mem _ h2, hne⟩

/-- Some unordered pair has a property that does not depend on the order, exactly when some two members have it. -/
theorem exists_unorderedPairs {P : Tx → Tx → Prop} (h : (l.map Tx.id).Nodup) (hP : ∀ a b, P a b → P b a) :
    (∃ p ∈ unorderedPairs l, P p.1 p.2) ↔ ∃ a ∈ l, ∃ b ∈ l, a.id ≠ b.id ∧ P a b := by
  constructor
  · rintro ⟨p, hp, hPp⟩
    obtain ⟨h1, h2, hne⟩ := unorderedPairs_sound h hp
    exact ⟨_, h1, _, h2, hne, hPp⟩
  · rintro ⟨a, ha, b, hb, hne, hab⟩
    obtain hp | hp := unorderedPairs_complete ha hb hne
    · exact ⟨_, hp, hab⟩
    · exact ⟨_, hp, hP _ _ hab⟩

theorem State.test3_iff (s : State) (x : Nat) (exempt : Option Nat) : s.test3 x exempt = true ↔
    ∀ sp ∈ s.spares, sp.state = .available → exempt ≠ some sp.code → ¬ near s.params.gcc x sp.code := by
  simp only [State.test3, List.all_eq_true, Bool.or_eq_true, decide_eq_true_eq, Bool.not_eq_true', ← within_iff,
    Bool.not_eq_true]
  refine forall₂_congr fun sp _ => ?_
  tauto

theorem State.test4_iff (s : State) (j : Tx) : s.test4 j l = true ↔ ∀ u ∈ l, near s.params.gcc u.code j.code →
    s.params.reuse ≤ s.isolation u.stage j.stage ∧ s.params.reuse ≤ s.isolation j.stage u.stage := by
  simp only [State.test4, List.all_eq_true, Bool.or_eq_true, Bool.and_eq_true, decide_eq_true_eq, Bool.not_eq_true',
    ← within_iff, ← Bool.not_eq_true]
  refine forall₂_congr fun u _ => ?_
  tauto

/-- Products of other carriers alone (test 5). -/
theorem State.productHits_iff (s : State) (v : Tx) (h : (l.map Tx.id).Nodup) :
    s.productHits v l = true ↔ productHit s v l fun _ => True := by
  simp only [State.productHits, Bool.or_eq_true, List.any_eq_true, State.t3Hit_iff, State.t5Hit_iff, State.t3xHit_iff]
  refine or_congr ?_ ?_
  · simp only [mem_orderedPairs, Prod.exists, true_and]
    constructor
    · rintro ⟨a, b, ⟨ha, hb, hne⟩, hhit⟩
      exact ⟨a, ha, b, hb, hne, hhit⟩
    · rintro ⟨a, ha, b, hb, hne, hhit⟩
      exact ⟨a, b, ⟨ha, hb, hne⟩, hhit⟩
  · rw [exists_unorderedPairs (P := fun a b => ∃ c ∈ thirds l a b, t3xConflict s v a b c) h]
    · simp only [mem_thirds, true_and]
      constructor
      · rintro ⟨a, ha, b, hb, hne, c, ⟨hc, hca, hcb⟩, hhit⟩
        exact ⟨a, ha, b, hb, c, hc, hne, hca.symm, hcb.symm, hhit⟩
      · rintro ⟨a, ha, b, hb, c, hc, hne, hac, hbc, hhit⟩
        exact ⟨a, ha, b, hb, hne, c, ⟨hc, hac.symm, hbc.symm⟩, hhit⟩
    · rintro a b ⟨c, hc, hhit⟩
      obtain ⟨hc, hca, hcb⟩ := mem_thirds.1 hc
      exact ⟨c, mem_thirds.2 ⟨hc, hcb, hca⟩, (t3xConflict_comm s v a b c).1 hhit⟩

/-- Products with j among their constituents (test 6). -/
theorem State.productHitsWith_iff (s : State) (v j : Tx) (h : (l.map Tx.id).Nodup) (hj : j.id ∉ l.map Tx.id) :
    s.productHitsWith v j l = true ↔ productHit s v (j :: l) fun ids => j.id ∈ ids := by
  have hother : ∀ u ∈ l, u.id ≠ j.id := fun u hu he => hj (List.mem_map.2 ⟨u, hu, he⟩)
  simp only [State.productHitsWith, Bool.or_eq_true, List.any_eq_true, State.t3Hit_iff, State.t5Hit_iff,
    State.t3xHit_iff, or_assoc]
  rw [exists_unorderedPairs (P := fun a b => t3xConflict s v a b j) h fun a b => (t3xConflict_comm s v a b j).1]
  refine or_congr ?_ ?_
  · constructor
    · rintro ⟨b, hb, hhit | hhit | hhit | hhit⟩
      · exact ⟨j, by simp, b, by simp [hb], (hother b hb).symm, by simp, .inl hhit⟩
      · exact ⟨b, by simp [hb], j, by simp, hother b hb, by simp, .inl hhit⟩
      · exact ⟨j, by simp, b, by simp [hb], (hother b hb).symm, by simp, .inr hhit⟩
      · exact ⟨b, by simp [hb], j, by simp, hother b hb, by simp, .inr hhit⟩
    · rintro ⟨a, ha, b, hb, hne, hmem, hhit⟩
      obtain rfl | ha' := List.mem_cons.1 ha
      · obtain rfl | hb' := List.mem_cons.1 hb
        · exact absurd rfl hne
        · exact ⟨b, hb', hhit.elim .inl fun h => .inr (.inr (.inl h))⟩
      · obtain rfl | hb' := List.mem_cons.1 hb
        · exact ⟨a, ha', hhit.elim (fun h => .inr (.inl h)) fun h => .inr (.inr (.inr h))⟩
        · simp [(hother a ha').symm, (hother b hb').symm] at hmem
  · constructor
    · rintro (⟨⟨b, c⟩, hp, hhit⟩ | ⟨a, ha, b, hb, hne, hhit⟩)
      · obtain ⟨hb, hc, hne⟩ := mem_orderedPairs.1 hp
        exact ⟨j, by simp, b, by simp [hb], c, by simp [hc], (hother b hb).symm, (hother c hc).symm, hne, by simp, hhit⟩
      · exact ⟨a, by simp [ha], b, by simp [hb], j, by simp, hne, hother a ha, hother b hb, by simp, hhit⟩
    · rintro ⟨a, ha, b, hb, c, hc, hab, hac, hbc, hmem, hhit⟩
      obtain rfl | ha' := List.mem_cons.1 ha
      · have hb := (List.mem_cons.1 hb).resolve_left fun he => hab (by rw [he])
        have hc := (List.mem_cons.1 hc).resolve_left fun he => hac (by rw [he])
        exact .inl ⟨(b, c), mem_orderedPairs.2 ⟨hb, hc, hbc⟩, hhit⟩
      · obtain rfl | hb' := List.mem_cons.1 hb
        · have hc := (List.mem_cons.1 hc).resolve_left fun he => hbc (by rw [he])
          exact .inl ⟨(a, c), mem_orderedPairs.2 ⟨ha', hc, hac⟩, (t3xConflict_comm s v a b c).1 hhit⟩
        · obtain rfl | hc' := List.mem_cons.1 hc
          · exact .inr ⟨a, ha', b, hb', hab, hhit⟩
          · simp [(hother a ha').symm, (hother b hb').symm, (hother c hc').symm] at hmem

end Tests

/-- Settles O34: each test by itself, and the first that fails decides. -/
theorem testsTwoToSixDecideInOrder : Obligations.TestsTwoToSixDecideInOrder := by
  intro j l exempt taken s hids hj three four five six first
  have h3 : s.test3 j.code exempt = true ↔ three := s.test3_iff j.code exempt
  have h4 : s.test4 j l = true ↔ four := s.test4_iff j
  have h5 : s.test5 j l = true ↔ five := by
    rw [State.test5, Bool.not_eq_true', ← Bool.not_eq_true, s.productHits_iff j hids]
  have h6 : s.test6 j l = true ↔ six := by
    rw [State.test6, List.all_eq_true]
    refine forall₂_congr fun v hv => ?_
    have hfilter : (l.filter fun u => u.id != v.id) = l.filter fun u => decide (u.id ≠ v.id) :=
      List.filter_congr fun u _ => Bool.eq_iff_iff.2 (by simp)
    rw [Bool.not_eq_true', ← Bool.not_eq_true, hfilter, s.productHitsWith_iff v j]
    · exact (List.filter_sublist.map Tx.id).nodup hids
    · exact fun h => hj ((List.filter_sublist.map Tx.id).mem h)
  have hfirst : first = if taken then some 2 else if s.test3 j.code exempt = false then some 3
      else if s.test4 j l = false then some 4 else if s.test5 j l = false then some 5
      else if s.test6 j l = false then some 6 else none := rfl
  rw [hfirst, ← h3, ← h4, ← h5, ← h6]
  generalize s.test3 j.code exempt = b3
  generalize s.test4 j l = b4
  generalize s.test5 j l = b5
  generalize s.test6 j l = b6
  cases taken with
  | true => simp
  | false =>
    cases b3 with
    | false => simp
    | true =>
      cases b4 with
      | false => simp
      | true =>
        cases b5 with
        | false => simp
        | true => cases b6 <;> simp

end Sys2Proof.Machine
end

section
/-! The status records: their fields, and their writes (chapter 9, 9.6). -/

namespace Sys2Proof.Machine

/-! ### The fields of a record (R177, R178) -/

theorem RecId.place_eq (r : RecId) : r.place = recordPlace r := by
  cases r <;> rfl

/-- A sequence as two bytes. -/
theorem halfBytes_seq (x : BitVec 16) : halfBytes x.toNat = [x.extractLsb' 0 8, x.extractLsb' 8 8] := by
  have hlow : BitVec.ofNat 8 x.toNat = x.extractLsb' 0 8 := BitVec.eq_of_toNat_eq (by simp)
  have hhigh : BitVec.ofNat 8 (x.toNat / 256) = x.extractLsb' 8 8 :=
    BitVec.eq_of_toNat_eq (by simp [Nat.shiftRight_eq_div_pow])
  rw [halfBytes, hlow, hhigh]

theorem rackStateCode_eq (r : RackState) : rackStateCode r = rackCode r := by
  cases r <;> rfl

theorem watchStateCode_eq (w : Option WatchState) : watchStateCode w = watchCode w := by
  rcases w with _ | w
  · rfl
  · cases w <;> rfl

/-- The code of the worst of some rack states, by their names. -/
def worstCode (racks : List RackState) : Nat :=
  if .lost ∈ racks then 3 else if .silent ∈ racks then 2 else if .unknown ∈ racks then 0 else 1

/-- The worst rack state is found one by one. -/
theorem rackStateCode_foldl_worse (a : RackState) (rest : List RackState) :
    rackStateCode (rest.foldl RackState.worse a) = worstCode (a :: rest) := by
  induction rest generalizing a with
  | nil => cases a <;> rfl
  | cons b rest ih =>
    have hworse : worstCode (a.worse b :: rest) = worstCode (a :: b :: rest) := by
      cases a <;> cases b <;> simp [worstCode, RackState.worse, RackState.rank]
    rw [List.foldl_cons, ih, hworse]

theorem State.racks_eq (s : State) (stage : Nat) :
    (s.air.filterMap fun e => if e.stage = stage ∧ e.air = .onAir then e.rack else none).map s.rackState =
      racksServing s stage := by
  unfold racksServing
  rw [List.filterMap_filter, List.map_filterMap]
  refine List.filterMap_congr fun e _ => ?_
  by_cases h : e.stage = stage ∧ e.air = .onAir
  · simp only [h]
    rfl
  · simp [h]

theorem State.rackSummary_eq (s : State) (stage : Nat) : oneByte (s.rackSummary stage) =
    if racksServing s stage = [] then 255 else if .lost ∈ racksServing s stage then 3
    else if .silent ∈ racksServing s stage then 2 else if .unknown ∈ racksServing s stage then 0 else 1 := by
  unfold State.rackSummary
  dsimp only
  rw [State.racks_eq]
  cases h : racksServing s stage with
  | nil => rfl
  | cons a rest =>
    dsimp only
    rw [rackStateCode_foldl_worse, worstCode, if_neg (List.cons_ne_nil a rest)]
    split_ifs <;> rfl

theorem State.stageFields_eq (s : State) (n : Nat) : s.stageFields n = statusBytes s (.stage n) := by
  have hair : s.carriersOnAir n = (s.air.filter fun e => decide (e.stage = n ∧ e.air = .onAir)).length :=
    congrArg List.length (List.filter_congr fun e _ => by simp)
  have halerts : s.alertsActive n = (s.watch.records.filter fun w =>
      decide (w.id / 256 = n ∧ (w.state = .alerted ∨ w.state = .held))).length :=
    congrArg List.length (List.filter_congr fun w _ => Bool.eq_iff_iff.2 (by simp [WatchState.isAlert_iff]))
  rw [State.stageFields, State.rackSummary_eq, hair, halerts]
  rfl

theorem State.spareIndex_eq (s : State) (id : Nat) :
    s.spareIndex id = (s.spares.findIdx? fun sp => decide (sp.user = some id)).getD 255 := by
  rw [List.findIdx?_eq_fst_find?_zipIdx]
  rfl

theorem airStateCode_eq (e : Option AirEntry) : oneByte (airStateCode e) =
    e.elim 0 fun e => if e.air = .pending then 1 else 2 := by
  rcases e with _ | e
  · rfl
  · obtain h | h : e.air = .pending ∨ e.air = .onAir := by cases e.air <;> simp
    · simp [airStateCode, h]
      rfl
    · simp [airStateCode, h]
      rfl

theorem State.rackConfirm_eq (s : State) (id : Nat) : oneByte (rackConfirmCode (s.rackConfirm id)) =
    if (s.airEntry id).any (fun e => decide (e.confirmed = .unconfirmed)) then 0
    else oneByte (rackConfirmCode (s.kept id).rackConfirm) := by
  unfold State.rackConfirm
  rcases s.airEntry id with _ | e
  · rfl
  · by_cases h : e.confirmed = .unconfirmed
    · simp only [h, if_true, Option.any_some, decide_true]
      rfl
    · simp only [h, if_false, Option.any_some, decide_false, Bool.false_eq_true]

theorem State.carrierFields_eq (s : State) (id : Nat) : s.carrierFields id = statusBytes s (.carrier id) := by
  unfold State.carrierFields statusBytes
  dsimp only
  rw [airStateCode_eq, State.rackConfirm_eq, State.spareIndex_eq, watchStateCode_eq]
  have hkept : ∀ c : RackConfirm, oneByte (rackConfirmCode c) = (match c with
      | .unconfirmed => 0
      | .applied => 1
      | .refused => 2
      | .noReply => 3
      | .outOfRange => 4 : Byte) := fun c => by cases c <;> rfl
  rw [hkept]
  cases s.airEntry id <;> rfl

theorem State.lineFields_eq (s : State) (k : Fin 4) : s.lineFields k = statusBytes s (.line k) := by
  have hroster : rosterBytes (s.line k) = fun i => match (s.line k).roster[i]? with
      | some e => [BitVec.ofNat 8 e.addr, BitVec.ofNat 8 (rackCode e.state)]
      | none => [0, 0] := by
    funext i
    unfold rosterBytes
    cases (s.line k).roster[i]? with
    | none => rfl
    | some e => simp only [rackStateCode_eq]; rfl
  unfold State.lineFields
  dsimp only
  rw [hroster]
  rfl

theorem State.spareFields_eq (s : State) (i : Nat) : s.spareFields i = statusBytes s (.spare i) := by
  unfold State.spareFields statusBytes
  dsimp only
  cases s.spares[i]? with
  | none => rfl
  | some sp =>
    obtain ⟨code, mask, state, user⟩ := sp
    cases state <;> rfl

theorem State.recordFields_eq (s : State) (r : RecId) : s.recordFields r = statusBytes s r := by
  cases r with
  | stage n => exact s.stageFields_eq n
  | carrier id => exact s.carrierFields_eq id
  | line k => exact s.lineFields_eq k
  | spare i => exact s.spareFields_eq i

/-- Every record is as long as its place. -/
theorem statusBytes_length (s : State) (r : RecId) : (statusBytes s r).length + 2 = (recordPlace r).2 := by
  rw [← State.recordFields_eq]
  cases r with
  | stage n => rfl
  | carrier id => rfl
  | line k =>
    have hroster : ∀ i, (rosterBytes (s.line k) i).length = 2 := fun i => by
      unfold rosterBytes
      split <;> rfl
    change (s.lineFields k).length + 2 = 32
    unfold State.lineFields
    simp only [List.length_append, List.length_flatMap, hroster]
    rfl
  | spare i =>
    change (s.spareFields i).length + 2 = 8
    unfold State.spareFields
    split <;> rfl

/-! ### The sequences (R176) -/

/-- Records that exist have sequences of their own. -/
theorem RecId.index_inj {r q : RecId} (hr : recordExists r = true) (hq : recordExists q = true) (h : q ≠ r) :
    q.index ≠ r.index := by
  cases r <;> cases q <;> simp [recordExists, RecId.index] at * <;> omega

theorem State.seq_bumpSeq (s : State) (r q : RecId) :
    (s.bumpSeq r).seq q = if q.index = r.index then s.seq r + 1 else s.seq q := sparseGet_set ..

theorem State.seq_bumpSeq_same (s : State) (r : RecId) : (s.bumpSeq r).seq r = s.seq r + 1 := by
  rw [State.seq_bumpSeq, if_pos rfl]

theorem State.seq_bumpSeq_other (s : State) {r q : RecId} (hr : recordExists r = true) (hq : recordExists q = true)
    (h : q ≠ r) : (s.bumpSeq r).seq q = s.seq q := by
  rw [State.seq_bumpSeq, if_neg (RecId.index_inj hr hq h)]

/-! ### The micro-steps of a status write -/

theorem State.statusMicro_of_idle {s : State} (h : s.status.job = .idle) : s.statusMicro = none := by
  unfold State.statusMicro
  rw [h]

theorem State.statusMicro_of_waiting {s : State} (h : s.mail.status = none) : s.statusMicro = none := by
  unfold State.statusMicro
  rw [h]
  cases s.status.job <;> rfl

section Writes

variable {s : State} {r : RecId} {b : Bool} {base : Nat}

theorem State.statusMicro_of_written {bs : List Byte} (hjob : s.status.job = .recordWait r b)
    (hmail : s.mail.status = some (.ok bs)) (hbase : s.latch.statusAddr = some base) :
    s.statusMicro = some ((s.setMail .status none).recordWritten r b base) := by
  unfold State.statusMicro
  rw [hjob, hmail, hbase]

theorem State.statusMicro_of_lost (hjob : s.status.job = .recordWait r b) (hmail : s.mail.status = some .fault)
    (hbase : s.latch.statusAddr = some base) :
    s.statusMicro = some (((s.setMail .status none).setStatusJob .idle).rewriteDone r b) := by
  unfold State.statusMicro
  rw [hjob, hmail, hbase]

theorem State.statusMicro_of_stage {a : Answer} (hjob : s.status.job = .stageWait r b) (hmail : s.mail.status = some a)
    (hbase : s.latch.statusAddr = some base) : s.statusMicro = some ((s.setMail .status none).announced r b) := by
  unfold State.statusMicro
  rw [hjob, hmail, hbase]

theorem State.rewriteDone_eq : s.rewriteDone r b =
    { s with rewrite := if b then s.rewrite.map fun l => l.filter fun x => decide (x ≠ r) else s.rewrite } := by
  cases b <;> rfl

/-- A record announced: the epoch, STATUS_CHANGED, and the rewrite. -/
theorem State.announced_eq : s.announced r b = { s with
    status := { s.status with epoch := s.status.epoch + 1, job := .idle }
    causes := (s.setCause .statusChanged).causes
    rewrite := if b then s.rewrite.map fun l => l.filter fun x => decide (x ≠ r) else s.rewrite } := by
  cases b <;> rfl

end Writes

/-- The writer goes on once and waits. -/
theorem State.statusGo_one {s t : State} (h : s.statusMicro = some t) (hw : t.statusMicro = none) : s.statusGo = t :=
  runMicro_one h hw

/-- Two micro-steps, and the writer waits. -/
theorem State.statusGo_two {s t u : State} (h : s.statusMicro = some t) (h' : t.statusMicro = some u)
    (hw : u.statusMicro = none) : s.statusGo = u :=
  (runMicro_some h 8191).trans (runMicro_one h' hw)

/-! ### The head of the mark list is written -/

/-- STATUS_RECORD_WRITE takes the head of the mark list. -/
theorem exec_statusRecordWrite {r : RecId} {rest : List RecId} {base : Nat} {s : State} (hjob : s.status.job = .idle)
    (hmarks : s.status.marks = r :: rest) (hbase : s.latch.statusAddr = some base) :
    exec .statusRecordWrite s = .next (s.writeRecord r rest base).statusGo.serveBus := by
  refine congrArg Host.Outcome.next ((s.whenDue_of_due _ (by simp [State.writeDue, hjob, hmarks, hbase])).trans ?_)
  unfold State.writeHead
  rw [hmarks, hbase]

/-- The record's bytes, the new sequence last. -/
def recordBytes (s : State) (r : RecId) : List Byte :=
  statusBytes s r ++ [(s.seq r + 1).extractLsb' 0 8, (s.seq r + 1).extractLsb' 8 8]

/-- The state in which the head of the mark list has been taken up, its sequence advanced. -/
def recordTaken (s : State) (r : RecId) (rest : List RecId) : State :=
  State.bumpSeq { s with status := { s.status with marks := rest } } r

theorem State.writeRecord_eq (s : State) (r : RecId) (rest : List RecId) (base : Nat) :
    s.writeRecord r rest base = ((recordTaken s r rest).presentWrite .status (base + (recordPlace r).1)
      (recordBytes s r)).setStatusJob (.recordWait r ((s.rewrite.getD []).contains r)) := by
  have hfields : (recordTaken s r rest).recordFields r = s.recordFields r := by cases r <;> rfl
  have hseq : (recordTaken s r rest).seq r = s.seq r + 1 := State.seq_bumpSeq_same _ r
  unfold State.writeRecord
  dsimp only
  rw [← recordTaken, hfields, hseq, halfBytes_seq, State.recordFields_eq, RecId.place_eq]
  rfl

theorem recordBytes_length (s : State) (r : RecId) : (recordBytes s r).length = (recordPlace r).2 := by
  rw [recordBytes, List.length_append, ← statusBytes_length s r]
  rfl

theorem recordTaken_seq (s : State) (r : RecId) (rest : List RecId) : (recordTaken s r rest).seq r = s.seq r + 1 ∧
    (recordExists r → ∀ q, recordExists q → q ≠ r → (recordTaken s r rest).seq q = s.seq q) :=
  ⟨State.seq_bumpSeq_same _ r, fun hr _ hq hne => State.seq_bumpSeq_other _ hr hq hne⟩

/-- Settles O51: the record taken up and presented as one write. -/
theorem statusWriteTakesOldestMark : Obligations.StatusWriteTakesOldestMark := by
  intro r rest base s hjob hmarks hbase hmail place hallowed
  have hpresent := State.presentWrite_of_allowed (s := recordTaken s r rest) .status (recordBytes_length s r)
    ((State.allowed_congr rfl ..).trans hallowed)
  have hexec := exec_statusRecordWrite hjob hmarks hbase
  have hgo : (s.writeRecord r rest base).statusGo = s.writeRecord r rest base := by
    refine runMicro_none (State.statusMicro_of_waiting ?_) _
    rw [State.writeRecord_eq, hpresent]
    exact hmail
  rw [hgo, State.writeRecord_eq, hpresent] at hexec
  obtain ⟨hsame, hothers⟩ := recordTaken_seq s r rest
  generalize hw : State.setStatusJob _ _ = w at hexec
  have hserve := w.serveBus_frame
  generalize w.serveBus = t at hexec hserve
  have hseq : ∀ q, t.seq q = (recordTaken s r rest).seq q := fun q => by
    have h : t.seq q = w.seq q := by rw [← hserve]; rfl
    rw [h, ← hw]
    rfl
  have hstatus : t.status = w.status := by rw [← hserve]
  have htransfers : t.port.transfers = w.port.transfers := by rw [← hserve]
  refine ⟨t, hexec, (hseq r).trans hsame, fun hr q hq hne => (hseq q).trans (hothers hr q hq hne), ?_, ?_,
    statusBytes_length s r, ?_⟩
  · rw [hstatus, ← hw]
    rfl
  · rw [htransfers, ← hw]
    rfl
  · calc { t with status := s.status, port := s.port }
        = { ({ t with port := { t.port with phase := w.port.phase } } : State) with status := s.status, port := s.port } :=
          rfl
      _ = s := by rw [hserve, ← hw]; rfl

/-! ### The end of a status write -/

/-- A recorded fault changes the causes and the fault record alone. -/
theorem State.recordFault_eq (s : State) (a : Nat) (kind : FaultKind) (q : Requester) : s.recordFault a kind q =
    { s with causes := (s.recordFault a kind q).causes, fault := (s.recordFault a kind q).fault } := by
  unfold State.recordFault
  split <;> rfl

theorem State.presentWrite_of_refused {s : State} {addr n : Nat} {data : List Byte} {o : Owner} (hn : data.length = n)
    (ho : o ≠ .anchor) (h : s.allowed true addr n = false) :
    s.presentWrite o addr data = (s.recordFault addr .window o.requester).setMail o (some .fault) := by
  subst hn
  exact if_pos ⟨ho, h⟩

/-- What has changed besides the writer's own state in the course of its write: the named causes, the fault record, the
port, memory and the answers. -/
structure StatusKept (s : State) (more : List Cause) (v : State) : Prop where
  status : v.status = { s.status with seqs := v.status.seqs, job := v.status.job }
  causes : ∀ c, v.hasCause c = (s.hasCause c || decide (c ∈ more))
  frame : { v with
    status := s.status, causes := s.causes, fault := s.fault, port := s.port, mem := s.mem, mail := s.mail } = s

/-- The Status Writer has been told the end of its write. -/
structure StatusTold (s : State) (a : Answer) (more : List Cause) (v : State) : Prop extends StatusKept s more v where
  mail : v.mail.status = some a

/-- A record announced: the epoch, STATUS_CHANGED with the causes of the write, and the rewrite. -/
def recordAnnounced (s : State) (r : RecId) (b : Bool) (more : List Cause) (t : State) : Prop :=
  t.status = { s.status with seqs := t.status.seqs, epoch := s.status.epoch + 1, job := .idle } ∧
    (∀ c, t.hasCause c = (s.hasCause c || decide (c = .statusChanged) || decide (c ∈ more))) ∧
    t.rewrite = if b then s.rewrite.map fun l => l.filter fun x => decide (x ≠ r) else s.rewrite

/-- All but the Status Writer, the port, memory, the fault record and the rewrite is as before. -/
def statusFrame (s t : State) : Prop :=
  { t with
    status := s.status, causes := s.causes, fault := s.fault, port := s.port, mem := s.mem, mail := s.mail
    rewrite := s.rewrite } = s

section Told

variable {s v : State} {a : Answer} {more : List Cause} (r : RecId) (b : Bool)

theorem StatusKept.latch (h : StatusKept s more v) : v.latch = s.latch := by
  have := congrArg State.latch h.frame
  exact this

theorem StatusKept.rewrite (h : StatusKept s more v) : v.rewrite = s.rewrite := by
  have := congrArg State.rewrite h.frame
  exact this

theorem StatusTold.announced (h : StatusTold s a more v) : let t := (v.setMail .status none).announced r b
    recordAnnounced s r b more t ∧ t.status.seqs = v.status.seqs ∧ t.fault = v.fault ∧ t.port = v.port ∧
      statusFrame s t := by
  have hrewrite := h.rewrite
  dsimp only
  rw [State.announced_eq]
  refine ⟨⟨?_, fun c => ?_, by rw [← hrewrite]; rfl⟩, rfl, rfl, rfl, ?_⟩
  · exact congrArg (fun x : StatusWriter => { x with epoch := x.epoch + 1, job := .idle }) h.status
  · refine (State.hasCause_setCause (v.setMail .status none) .statusChanged c).trans ?_
    rw [show (v.setMail .status none).hasCause c = v.hasCause c from rfl, h.causes, Bool.or_right_comm]
  · exact congrArg (fun u : State => { u with rewrite := s.rewrite }) h.frame

/-- A lost record: the sequence stands, and nothing is announced. -/
theorem StatusTold.lost (h : StatusTold s a more v) :
    let t := ((v.setMail .status none).setStatusJob .idle).rewriteDone r b
    t.status = { s.status with seqs := v.status.seqs, job := .idle } ∧
      (∀ c, t.hasCause c = (s.hasCause c || decide (c ∈ more))) ∧ t.port = v.port ∧
      (t.rewrite = if b then s.rewrite.map fun l => l.filter fun x => decide (x ≠ r) else s.rewrite) ∧
      statusFrame s t := by
  have hrewrite := h.rewrite
  dsimp only
  rw [State.rewriteDone_eq]
  refine ⟨congrArg (fun x : StatusWriter => { x with job := .idle }) h.status, h.causes, rfl,
    by rw [← hrewrite]; rfl, ?_⟩
  exact congrArg (fun u : State => { u with rewrite := s.rewrite }) h.frame

/-- What has been told of a state that stands for another but for its writer is told of that other. -/
theorem StatusTold.trans {w : State} (h : StatusKept s [] w) (hv : StatusTold w a more v) : StatusTold s a more v := by
  refine ⟨⟨?_, fun c => ?_, ?_⟩, hv.mail⟩
  · refine hv.status.trans ?_
    rw [h.status]
  · rw [hv.causes, h.causes]
    simp
  · calc { v with
          status := s.status, causes := s.causes, fault := s.fault, port := s.port, mem := s.mem, mail := s.mail }
        = { ({ v with status := w.status, causes := w.causes, fault := w.fault, port := w.port, mem := w.mem,
                      mail := w.mail } : State) with
            status := s.status, causes := s.causes, fault := s.fault, port := s.port, mem := s.mem, mail := s.mail } := rfl
      _ = s := by rw [hv.frame, h.frame]

end Told

/-- The last burst of the only write of a port. -/
theorem exec_burstComplete_status {s : State} {x : Transfer} (hphase : s.port.phase = .granted .status)
    (hx : s.port.transfers = [x]) (howner : x.owner = .status) (hwrite : x.write = true)
    (hlast : x.left ≤ burstLength s.beatBytes x.addr x.left) :
    ∃ v, exec .burstComplete s = .next v.statusGo.serveBus ∧ StatusTold s (.ok []) [] v ∧ v.status = s.status ∧
      v.fault = s.fault ∧ v.causes = s.causes ∧ v.port = ⟨[], .free, .status⟩ := by
  have hexec := exec_burstComplete hphase (State.inProgress_single hphase hx (by rw [howner]; rfl))
  rw [howner, show (s.endBurst x).wake .status = (s.endBurst x).statusGo from rfl, State.endBurst_of_last hlast,
    Port.release_drop_single hphase hx, howner, hwrite] at hexec
  exact ⟨_, hexec, ⟨⟨rfl, fun c => (Bool.or_false _).symm, rfl⟩, rfl⟩, rfl, rfl, rfl, rfl⟩

/-- A fault on the only write of a port. -/
theorem exec_fault_status {s : State} {x : Transfer} {c : Instr} (hphase : s.port.phase = .granted .status)
    (hx : s.port.transfers = [x]) (howner : x.owner = .status)
    (hc : ∃ k, c = .transferTimeout k ∨ c = .busError k) :
    ∃ v, exec c s = .next v.statusGo.serveBus ∧ StatusTold s .fault [.memoryFault] v ∧ v.status = s.status ∧
      v.port = ⟨[], .free, .status⟩ := by
  have hprog := State.inProgress_single hphase hx (by rw [howner]; rfl)
  have hfault : ∃ n addr kind, exec c s = .next (((s.faultBurst x n addr kind).wake x.owner).serveBus) := by
    obtain ⟨k, rfl | rfl⟩ := hc
    · exact ⟨_, _, _, exec_transferTimeout_of_granted k hphase hprog⟩
    · exact ⟨_, _, _, exec_busError k hphase hprog⟩
  obtain ⟨n, addr, kind, hexec⟩ := hfault
  unfold State.faultBurst at hexec
  dsimp only at hexec
  rw [Port.release_drop_single hphase hx, howner] at hexec
  generalize hm : x.store s.mem _ = m at hexec
  have hcauses := State.recordFault_hasCause { s with mem := m, port := ⟨[], .free, .status⟩ } addr kind
    Owner.status.requester
  have hframe := State.recordFault_eq { s with mem := m, port := ⟨[], .free, .status⟩ } addr kind Owner.status.requester
  generalize State.recordFault _ addr kind _ = u at hexec hcauses hframe
  refine ⟨_, hexec, ⟨⟨?_, fun d => (hcauses d).trans ?_, ?_⟩, rfl⟩, ?_, ?_⟩
  · rw [State.setMail_status, hframe]
  · simp
    rfl
  · rw [hframe]
    rfl
  · rw [State.setMail_status, hframe]
  · rw [State.setMail_port, hframe]

/-- A write of the Status Writer that the windows refuse tells it so at once. -/
theorem presentWrite_told {s : State} {addr n : Nat} {data : List Byte} (j : StatusJob) (hn : data.length = n)
    (h : s.allowed true addr n = false) :
    StatusTold s .fault [.memoryFault] ((s.presentWrite .status addr data).setStatusJob j) ∧
      ((s.presentWrite .status addr data).setStatusJob j).status = { s.status with job := j } ∧
      ((s.presentWrite .status addr data).setStatusJob j).port = s.port := by
  rw [State.presentWrite_of_refused hn (by decide) h]
  have hcauses := s.recordFault_hasCause addr .window Owner.status.requester
  have hframe := s.recordFault_eq addr .window Owner.status.requester
  generalize s.recordFault addr .window _ = u at hcauses hframe
  refine ⟨⟨⟨?_, fun d => (hcauses d).trans (by simp), ?_⟩, rfl⟩, ?_, ?_⟩
  · rw [hframe]
    rfl
  · rw [hframe]
    rfl
  · rw [hframe]
    rfl
  · rw [State.setStatusJob_port, State.setMail_port, hframe]

/-- A carrier's record has been written: its stage's sequence is presented. -/
theorem State.recordWritten_carrier (s : State) (id : Nat) (b : Bool) (base : Nat) :
    s.recordWritten (.carrier id) b base = ((s.bumpSeq (.stage (id / 256))).presentWrite .status
      (base + (8 * (id / 256) + 6)) [(s.seq (.stage (id / 256)) + 1).extractLsb' 0 8,
        (s.seq (.stage (id / 256)) + 1).extractLsb' 8 8]).setStatusJob (.stageWait (.carrier id) b) := by
  unfold State.recordWritten
  dsimp only
  rw [State.seq_bumpSeq_same, halfBytes_seq, RecId.place_eq, Nat.add_assoc]
  rfl

/-- Settles O52: a record written, lost, or announced. -/
theorem writtenRecordMovesEpoch : Obligations.WrittenRecordMovesEpoch := by
  unfold Obligations.WrittenRecordMovesEpoch
  intro memory frame waits
  refine ⟨fun r b base x s hbase hphase hx howner hwrite hlast => ?_, fun r rest base s hjob hmarks hbase hrefused => ?_⟩
  · intro announced faults
    obtain ⟨v, hdone, htold, hstatus, hfault, hcauses, hport⟩ :=
      exec_burstComplete_status hphase hx howner hwrite hlast
    have hvbase := (congrArg Latch.statusAddr htold.latch).trans hbase
    have hannounced : ∀ {u : State} {a : Answer} {more : List Cause}, StatusTold s a more u →
        u.port = ⟨[], .free, .status⟩ →
        announced ((u.setMail .status none).announced r b) more ∧
          ((u.setMail .status none).announced r b).serveBus = (u.setMail .status none).announced r b := by
      intro u a more hu hp
      obtain ⟨⟨htstatus, htcauses, htrewrite⟩, -, -, htport, -⟩ := hu.announced r b
      exact ⟨⟨htstatus, htcauses, htport.trans hp, htrewrite⟩, State.serveBus_of_empty (by rw [htport, hp])⟩
    have hidle : ∀ u : State, (u.announced r b).statusMicro = none := fun u =>
      State.statusMicro_of_idle (by rw [State.announced_eq])
    refine ⟨fun hjob hr => ?_, fun hjob c hc => ?_, fun id hr hjob => ?_, fun hjob => ⟨?_, fun c hc => ?_⟩⟩
    · have hmicro := State.statusMicro_of_written (by rw [hstatus, hjob]) htold.mail hvbase
      have hwritten : (v.setMail .status none).recordWritten r b base = (v.setMail .status none).announced r b := by
        cases r with
        | carrier id => exact absurd rfl (hr id)
        | stage n => rfl
        | line k => rfl
        | spare i => rfl
      rw [hwritten] at hmicro
      obtain ⟨hann, hserve⟩ := hannounced htold hport
      rw [State.statusGo_one hmicro (hidle _), hserve] at hdone
      obtain ⟨-, hseqs, hkept, -, hframe⟩ := htold.announced r b
      exact ⟨_, hdone, hann, hseqs.trans (by rw [hstatus]), hkept.trans hfault, hframe⟩
    · obtain ⟨u, hexec, hlost, hustatus, huport⟩ := exec_fault_status hphase hx howner hc
      have hmicro := State.statusMicro_of_lost (by rw [hustatus, hjob]) hlost.mail
        ((congrArg Latch.statusAddr hlost.latch).trans hbase)
      obtain ⟨htstatus, htcauses, htport, htrewrite, hframe⟩ := hlost.lost r b
      rw [State.statusGo_one hmicro (State.statusMicro_of_idle (by rw [htstatus])),
        State.serveBus_of_empty (by rw [htport, huport])] at hexec
      exact ⟨_, hexec, htstatus.trans (by rw [hustatus]), fun d => (htcauses d).trans (by simp), htport.trans huport,
        htrewrite, hframe⟩
    · intro advanced
      subst hr
      have hmicro := State.statusMicro_of_written (by rw [hstatus, hjob]) htold.mail hvbase
      have hseq : ∀ q, (v.setMail .status none).seq q = s.seq q := fun q =>
        congrArg (fun x : StatusWriter => sparseGet 0 x.seqs q.index) hstatus
      rw [State.recordWritten_carrier, hseq] at hmicro
      have hadvanced : ∀ t : State, t.status.seqs = ((v.setMail .status none).bumpSeq (.stage (id / 256))).status.seqs →
          advanced t := fun t ht => by
        have hq : ∀ q, t.seq q = ((v.setMail .status none).bumpSeq (.stage (id / 256))).seq q := fun q =>
          congrArg (fun m => sparseGet 0 m q.index) ht
        refine ⟨(hq _).trans ((State.seq_bumpSeq_same _ _).trans (by rw [hseq])), fun hid q hex hne => ?_⟩
        rw [hq, State.seq_bumpSeq_other _ (by simpa [recordExists] using hid) hex hne, hseq]
      have hwindows : ((v.setMail .status none).bumpSeq (.stage (id / 256))).windows = s.windows := by
        have := congrArg State.windows htold.frame
        exact this
      have hkept : StatusKept s [] ((v.setMail .status none).bumpSeq (.stage (id / 256))) :=
        ⟨congrArg (fun x : StatusWriter =>
          { x with seqs := ((v.setMail .status none).bumpSeq (.stage (id / 256))).status.seqs }) htold.status,
          htold.causes, htold.frame⟩
      have hstand : ∀ w, w = (v.setMail .status none).bumpSeq (.stage (id / 256)) → w.port = ⟨[], .free, .status⟩ ∧
          w.mail.status = none ∧ w.causes = s.causes ∧ w.fault = s.fault := by
        rintro w rfl
        exact ⟨hport, rfl, hcauses, hfault⟩
      generalize (v.setMail .status none).bumpSeq (.stage (id / 256)) = w at hmicro hadvanced hwindows hkept hstand
      obtain ⟨hwport, hwmail, hwcauses, hwfault⟩ := hstand w rfl
      refine ⟨fun hallowed => ?_, fun hrefused => ?_⟩
      · rw [State.presentWrite_of_allowed .status rfl ((State.allowed_congr hwindows ..).trans hallowed)] at hmicro
        rw [State.statusGo_one hmicro (State.statusMicro_of_waiting hwmail), State.serveBus_single
          (show _ = BusPhase.free by rw [State.setStatusJob_port, hwport])
          (show _ = [_] by rw [State.setStatusJob_port, hwport]; rfl)] at hdone
        refine ⟨_, hdone, hadvanced _ rfl, ?_, ?_, hwcauses, hwfault, hkept.rewrite, ?_⟩
        · exact congrArg (fun x : StatusWriter => { x with job := .stageWait (.carrier id) b }) hkept.status
        · simp [hwport]
        · exact congrArg (fun u : State => { u with rewrite := s.rewrite }) hkept.frame
      · obtain ⟨htoldu, hustatus, huport⟩ := presentWrite_told (s := w) (n := 2)
          (data := [(s.seq (.stage (id / 256)) + 1).extractLsb' 0 8, (s.seq (.stage (id / 256)) + 1).extractLsb' 8 8])
          (.stageWait (.carrier id) b) rfl
          ((State.allowed_congr hwindows ..).trans hrefused)
        have hu := StatusTold.trans hkept htoldu
        have hmicro' := State.statusMicro_of_stage (by rw [hustatus]) hu.mail
          ((congrArg Latch.statusAddr hu.latch).trans hbase)
        obtain ⟨hann, hserve⟩ := hannounced hu (huport.trans hwport)
        rw [State.statusGo_two hmicro hmicro' (hidle _), hserve] at hdone
        obtain ⟨-, hseqs, -, -, hframe⟩ := hu.announced (.carrier id) b
        exact ⟨_, hdone, hadvanced _ (hseqs.trans (by rw [hustatus])), hann, hframe⟩
    · have hmicro := State.statusMicro_of_stage (by rw [hstatus, hjob]) htold.mail hvbase
      obtain ⟨hann, hserve⟩ := hannounced htold hport
      rw [State.statusGo_one hmicro (hidle _), hserve] at hdone
      obtain ⟨-, hseqs, hkept, -, hframe⟩ := htold.announced r b
      exact ⟨_, hdone, hann, hseqs.trans (by rw [hstatus]), hkept.trans hfault, hframe⟩
    · obtain ⟨u, hexec, hlost, hustatus, huport⟩ := exec_fault_status hphase hx howner hc
      have hmicro := State.statusMicro_of_stage (by rw [hustatus, hjob]) hlost.mail
        ((congrArg Latch.statusAddr hlost.latch).trans hbase)
      obtain ⟨hann, hserve⟩ := hannounced hlost huport
      rw [State.statusGo_one hmicro (hidle _), hserve] at hexec
      obtain ⟨-, hseqs, -, -, hframe⟩ := hlost.announced r b
      exact ⟨_, hexec, hann, hseqs.trans (by rw [hustatus]), hframe⟩
  · have hwindows : (recordTaken s r rest).allowed true (base + (recordPlace r).1) (recordPlace r).2 = false :=
      (State.allowed_congr rfl ..).trans hrefused
    obtain ⟨hlost, hwstatus, hwport⟩ := presentWrite_told (.recordWait r ((s.rewrite.getD []).contains r))
      (recordBytes_length s r) hwindows
    have hexec := exec_statusRecordWrite hjob hmarks hbase
    rw [State.writeRecord_eq] at hexec
    have htakenBase : (recordTaken s r rest).latch.statusAddr = some base := hbase
    have hmicro := State.statusMicro_of_lost (by rw [hwstatus]) hlost.mail
      ((congrArg Latch.statusAddr hlost.latch).trans htakenBase)
    obtain ⟨htstatus, htcauses, htport, htrewrite, hframe⟩ := hlost.lost r ((s.rewrite.getD []).contains r)
    rw [State.statusGo_one hmicro (State.statusMicro_of_idle (by rw [htstatus]))] at hexec
    generalize State.rewriteDone _ r _ = u at hexec htstatus htcauses htport htrewrite hframe
    have hserve := u.serveBus_frame
    generalize u.serveBus = t at hexec hserve
    have ht : t.status = u.status ∧ t.port.transfers = u.port.transfers ∧ t.rewrite = u.rewrite ∧
        (∀ c, t.hasCause c = u.hasCause c) := by
      refine ⟨?_, ?_, ?_, fun c => ?_⟩ <;> rw [← hserve]
      rfl
    obtain ⟨hsu, hxu, hru, hcu⟩ := ht
    have hseqs : t.status.seqs = (recordTaken s r rest).status.seqs := by
      have hseqs := congrArg StatusWriter.seqs hwstatus
      rw [hsu, htstatus]
      exact hseqs
    have hseq : ∀ q, t.seq q = (recordTaken s r rest).seq q := fun q => congrArg (fun m => sparseGet 0 m q.index) hseqs
    obtain ⟨hsame, hothers⟩ := recordTaken_seq s r rest
    refine ⟨t, hexec, ?_, (hseq r).trans hsame, fun hr q hq hne => (hseq q).trans (hothers hr q hq hne), fun c => ?_, ?_,
      ?_, ?_⟩
    · rw [hseqs, hsu, htstatus, hwstatus]
      exact congrArg (fun x : StatusWriter => { x with marks := rest, seqs := (recordTaken s r rest).status.seqs })
        (show { s.status with job := .idle } = s.status by rw [← hjob])
    · rw [hcu, htcauses]
      simp
      rfl
    · rw [hxu, htport, hwport]
      rfl
    · change t.rewrite = s.rewrite.map fun l => l.filter fun x => decide (x ≠ r)
      rw [hru, htrewrite]
      change (if (s.rewrite.getD []).contains r = true then s.rewrite.map _ else s.rewrite) = _
      split
      · rfl
      · rename_i hnot
        cases hrewrite : s.rewrite with
        | none => rfl
        | some l =>
          have hr : r ∉ l := by simpa [hrewrite] using hnot
          refine congrArg some (List.filter_eq_self.2 fun x hx => ?_).symm
          have hne : x ≠ r := fun he => hr (he ▸ hx)
          exact decide_eq_true hne
    · calc { t with
            status := s.status, causes := s.causes, fault := s.fault, port := s.port, mem := s.mem, mail := s.mail
            rewrite := s.rewrite }
          = { ({ t with port := { t.port with phase := u.port.phase } } : State) with
              status := s.status, causes := s.causes, fault := s.fault, port := s.port, mem := s.mem, mail := s.mail
              rewrite := s.rewrite } := rfl
        _ = { ({ u with status := (recordTaken s r rest).status, causes := (recordTaken s r rest).causes,
                        fault := (recordTaken s r rest).fault, port := (recordTaken s r rest).port,
                        mem := (recordTaken s r rest).mem, mail := (recordTaken s r rest).mail,
                        rewrite := (recordTaken s r rest).rewrite } : State) with status := s.status } := by rw [hserve]; rfl
        _ = s := by rw [hframe]; rfl

end Sys2Proof.Machine
end

section
/-! The Carrier Cache: lookups and write-backs (chapter 3). -/

namespace Sys2Proof.Machine

/-! ### What is read from memory (R45, R47) -/

/-- A carrier record is taken in field by field. -/
theorem carrierInfo_eq (bs : List Byte) : carrierInfo bs = recordRead bs := by
  have hpower : ((bs.getD 0 0).extractLsb' 1 2).toNat = byteAt bs 0 / 2 % 4 := by
    simp [byteAt, Nat.shiftRight_eq_div_pow]
  have hstep : readStep (byteAt bs 8) = if byteAt bs 8 = 0 then 1 else min 64 (byteAt bs 8) := by
    rw [readStep, min_comm]
  have hrack : readRack (byteAt bs 2) (byteAt bs 3) (byteAt bs 1 % 32) =
      if byteAt bs 2 ≤ 3 ∧ 1 ≤ byteAt bs 3 ∧ byteAt bs 3 ≤ 30 then
        some ⟨Fin.ofNat 4 (byteAt bs 2), byteAt bs 3, byteAt bs 1 % 32⟩ else none := by
    unfold readRack
    by_cases hline : byteAt bs 2 < 4
    · have hfin : (⟨byteAt bs 2, hline⟩ : Fin 4) = Fin.ofNat 4 (byteAt bs 2) :=
        Fin.ext (Nat.mod_eq_of_lt hline).symm
      rw [dif_pos hline, hfin]
      refine if_congr ⟨fun h => ⟨by omega, h⟩, fun h => h.2⟩ rfl rfl
    · rw [dif_neg hline, if_neg (by omega)]
  unfold carrierInfo recordRead
  dsimp only
  rw [hpower, hstep, hrack]
  rfl

theorem recordAddr_of_named {dir : List Byte} {id : Nat} (h : dirNames dir id) :
    recordAddr dir (id % 256) = some (word dir 4 / 4 * 4 + id % 256 * 32) := by
  obtain ⟨hvalid, hcount⟩ := h
  unfold recordAddr
  rw [if_neg (by simp only [Config.numbers]; omega), align4_eq]

theorem recordAddr_of_not_named {dir : List Byte} {id : Nat} (h : ¬ dirNames dir id) :
    recordAddr dir (id % 256) = none := by
  refine if_pos ?_
  by_contra hn
  simp only [not_or, Config.numbers] at hn
  exact h ⟨hn.1, by omega⟩

theorem recordPasses_iff (bs : List Byte) : recordPasses bs = true ↔ byteSum (bs.take 24) % 256 = 0 := by
  simp [recordPasses]

/-! ### The ways of a carrier's set (R52, R54) -/

section Ways

variable {s : State} {id : Nat}

theorem State.holds_iff (b : Bool) : ((s.way (cacheSet id) b).any fun w => w.tag == cacheTag id) = true ↔
    ∃ w, s.way (cacheSet id) b = some w ∧ holdsCarrier id w := by
  simp [Option.any_eq_true, holdsCarrier, cacheTag]

/-- A miss: no way holds the carrier. -/
theorem State.hitWay_of_miss (h : ∀ b w, s.way (cacheSet id) b = some w → ¬ holdsCarrier id w) : s.hitWay id = none := by
  have hno : ∀ b, ¬ ((s.way (cacheSet id) b).any fun w => w.tag == cacheTag id) = true := fun b hb => by
    obtain ⟨w, hw, hholds⟩ := (State.holds_iff b).1 hb
    exact h b w hw hholds
  unfold State.hitWay
  rw [if_neg (hno false), if_neg (hno true)]

/-- A hit: the way that holds the carrier is the only one. -/
theorem State.hitWay_of_hit {b : Bool} {w : CacheWay} (hc : s.cacheOk) (hw : s.way (cacheSet id) b = some w)
    (hholds : holdsCarrier id w) : s.hitWay id = some b ∧
      ∀ c x, s.way (cacheSet id) c = some x → holdsCarrier id x → c = b := by
  have honly : ∀ c x, s.way (cacheSet id) c = some x → holdsCarrier id x → c = b := fun c x hx hxholds => by
    have htags : w.tag = x.tag := hholds.trans hxholds.symm
    cases b <;> cases c
    · rfl
    · exact absurd htags (hc _ _ _ hw hx)
    · exact absurd htags.symm (hc _ _ _ hx hw)
    · rfl
  refine ⟨?_, honly⟩
  have hb := (State.holds_iff b).2 ⟨w, hw, hholds⟩
  unfold State.hitWay
  cases b with
  | false => rw [if_pos hb]
  | true =>
    rw [if_neg fun hf => ?_, if_pos hb]
    obtain ⟨x, hx, hxholds⟩ := (State.holds_iff false).1 hf
    exact nomatch honly false x hx hxholds

theorem State.hitWay_cases (s : State) (id : Nat) (hc : s.cacheOk) :
    (s.hitWay id = none ∧ ∀ b w, s.way (cacheSet id) b = some w → ¬ holdsCarrier id w) ∨
    ∃ b w, s.hitWay id = some b ∧ s.way (cacheSet id) b = some w ∧ holdsCarrier id w ∧
      ∀ c x, s.way (cacheSet id) c = some x → holdsCarrier id x → c = b := by
  by_cases h : ∃ b w, s.way (cacheSet id) b = some w ∧ holdsCarrier id w
  · obtain ⟨b, w, hw, hholds⟩ := h
    obtain ⟨hhit, honly⟩ := State.hitWay_of_hit hc hw hholds
    exact .inr ⟨b, w, hhit, hw, hholds, honly⟩
  · have hno : ∀ b w, s.way (cacheSet id) b = some w → ¬ holdsCarrier id w := fun b w hw hholds => h ⟨b, w, hw, hholds⟩
    exact .inl ⟨State.hitWay_of_miss hno, hno⟩

end Ways

/-! ### A lookup (R54 to R58) -/

theorem State.idInBounds_iff (s : State) (id : Nat) : s.idInBounds id = true ↔
    id / 256 < 12 ∧ id / 256 < s.latch.stages ∧ id % 256 < 96 := by
  simp only [State.idInBounds, Bool.and_eq_true, decide_eq_true_eq, and_assoc]
  rfl

section Fill

variable {s : State} {id : Nat} (i : CarrierInfo)

theorem State.fillWay_of_emptyA (hmiss : s.hitWay id = none) (hA : s.way (cacheSet id) false = none) :
    s.fillWay id i = s.setWay (cacheSet id) false (some ⟨cacheTag id, i⟩) := by
  unfold State.fillWay
  dsimp only
  rw [hmiss, hA]
  rfl

theorem State.fillWay_of_emptyB {x : CacheWay} (hmiss : s.hitWay id = none) (hA : s.way (cacheSet id) false = some x)
    (hB : s.way (cacheSet id) true = none) :
    s.fillWay id i = s.setWay (cacheSet id) true (some ⟨cacheTag id, i⟩) := by
  unfold State.fillWay
  dsimp only
  rw [hmiss, hA, hB]
  rfl

theorem State.fillWay_of_full {x y : CacheWay} (hmiss : s.hitWay id = none) (hA : s.way (cacheSet id) false = some x)
    (hB : s.way (cacheSet id) true = some y) : s.fillWay id i =
      { s.setWay (cacheSet id) (sparseGet false s.alt (cacheSet id)) (some ⟨cacheTag id, i⟩) with
        alt := sparseSet false s.alt (cacheSet id) !sparseGet false s.alt (cacheSet id) } := by
  unfold State.fillWay
  dsimp only
  rw [hmiss, hA, hB]
  rfl

/-- A fill on a miss. -/
theorem State.fillWay_spec (hmiss : ∀ b w, s.way (cacheSet id) b = some w → ¬ holdsCarrier id w) :
    let full := (s.way (cacheSet id) false).isSome = true ∧ (s.way (cacheSet id) true).isSome = true
    let bit := fun (u : State) (n : Nat) => sparseGet false u.alt n
    let b := if full then bit s (cacheSet id) else (s.way (cacheSet id) false).isSome
    (∀ n c, (s.fillWay id i).way n c = if n = cacheSet id ∧ c = b then some ⟨cacheTag id, i⟩ else s.way n c) ∧
    (∀ n, bit (s.fillWay id i) n = if n = cacheSet id ∧ full then !bit s n else bit s n) ∧
    { s.fillWay id i with cache := s.cache, alt := s.alt } = s := by
  intro full bit b
  have hnone := State.hitWay_of_miss hmiss
  obtain hA | ⟨x, hA⟩ := Option.eq_none_or_eq_some (s.way (cacheSet id) false)
  · have hfull : ¬ full := by simp [full, hA]
    have hb : b = false := by simp [b, hfull, hA]
    rw [State.fillWay_of_emptyA i hnone hA, hb]
    exact ⟨fun n c => State.way_setWay .., fun n => (if_neg fun h => hfull h.2).symm, rfl⟩
  · obtain hB | ⟨y, hB⟩ := Option.eq_none_or_eq_some (s.way (cacheSet id) true)
    · have hfull : ¬ full := by simp [full, hB]
      have hb : b = true := by simp [b, hfull, hA]
      rw [State.fillWay_of_emptyB i hnone hA hB, hb]
      exact ⟨fun n c => State.way_setWay .., fun n => (if_neg fun h => hfull h.2).symm, rfl⟩
    · have hfull : full := by simp [full, hA, hB]
      have hb : b = sparseGet false s.alt (cacheSet id) := if_pos hfull
      rw [State.fillWay_of_full i hnone hA hB, hb]
      refine ⟨fun n c => s.way_setWay (cacheSet id) (sparseGet false s.alt (cacheSet id)) (some ⟨cacheTag id, i⟩) n c,
        fun n => ?_, rfl⟩
      refine (sparseGet_set ..).trans ?_
      by_cases hn : n = cacheSet id
      · rw [if_pos hn, if_pos ⟨hn, hfull⟩, hn]
      · rw [if_neg hn, if_neg fun h => hn h.1]

end Fill

/-- Settles O35, stage by stage of a lookup. -/
theorem lookupAnswersAndFills : Obligations.LookupAnswersAndFills := by
  intro id s hc set inside taken put reads found
  have hinside : s.idInBounds id = true ↔ inside := s.idInBounds_iff id
  have hfound : ∀ bs, (s.setMail .cache none).lookupFound id bs = found bs := fun bs => by
    unfold State.lookupFound
    rw [carrierInfo_eq]
    rfl
  refine ⟨fun hask => ⟨fun hout => ?_, fun b w hin hon hw hholds => ?_, fun hin hmiss => ?_⟩,
    fun dir hstage hmail => ⟨fun hno => ?_, fun hnamed => ?_⟩, fun a bs hstage hmail => ?_,
    fun a bs hstage hmail => ?_, fun l hstage hne hmail => ?_, fun hmiss i => State.fillWay_spec i hmiss⟩
  all_goals unfold State.lookupStep
  · rw [hask]
    exact if_pos (Bool.eq_false_iff.2 (mt hinside.1 hout))
  · rw [hask]
    dsimp only
    rw [if_neg (by simp [hinside.2 hin]), hon, (State.hitWay_of_hit hc hw hholds).1]
    simp only [Bool.false_eq_true, if_false]
    rw [show s.way (cacheSet id) b = some w from hw]
    rfl
  · rw [hask]
    dsimp only
    have hnone : (if s.params.cacheOff = true then none else s.hitWay id) = none := by
      obtain hoff | hmiss := hmiss
      · exact if_pos hoff
      · rw [State.hitWay_of_miss hmiss, ite_self]
    rw [if_neg (by simp [hinside.2 hin]), hnone]
    rfl
  · rw [hstage, hmail]
    dsimp only
    rw [recordAddr_of_not_named hno]
    rfl
  · rw [hstage, hmail]
    dsimp only
    rw [recordAddr_of_named hnamed]
    rfl
  · rw [hstage, hmail]
    simp only [recordPasses_iff, hfound]
    rfl
  · rw [hstage, hmail]
    simp only [recordPasses_iff, hfound]
    rfl
  · rw [hstage]
    cases l with
    | ask => exact absurd rfl hne
    | dirWait => rw [hmail]; rfl
    | recordWait a => rw [hmail]; rfl
    | rereadWait a => rw [hmail]; rfl

/-! ### A write-back (R61, R62) -/

/-- The ways after a write-back: those of the carrier's set that hold it are changed, and no other. -/
def waysChanged (s : State) (id : Nat) (f : CacheWay → Option CacheWay) (t : State) : Prop :=
  ∀ n b, (n ≠ cacheSet id → t.way n b = s.way n b) ∧
    ∀ x, (s.way (cacheSet id) b = some x → holdsCarrier id x → t.way (cacheSet id) b = f x) ∧
      (s.way (cacheSet id) b = some x → ¬ holdsCarrier id x → t.way (cacheSet id) b = some x) ∧
      (s.way (cacheSet id) b = none → t.way (cacheSet id) b = none)

/-- A miss changes no way. -/
theorem waysChanged_of_miss {s : State} {id : Nat} (f : CacheWay → Option CacheWay)
    (h : ∀ b w, s.way (cacheSet id) b = some w → ¬ holdsCarrier id w) : waysChanged s id f s :=
  fun _ b => ⟨fun _ => rfl, fun x => ⟨fun hx hholds => absurd hholds (h b x hx), fun hx _ => hx, fun hx => hx⟩⟩

/-- A hit changes the one way that holds the carrier. -/
theorem waysChanged_of_hit {s : State} {id : Nat} {c : Bool} {w : CacheWay} (f : CacheWay → Option CacheWay)
    (hw : s.way (cacheSet id) c = some w) (hholds : holdsCarrier id w)
    (honly : ∀ b x, s.way (cacheSet id) b = some x → holdsCarrier id x → b = c) :
    waysChanged s id f (s.setWay (cacheSet id) c (f w)) := by
  intro n b
  refine ⟨fun hn => (State.way_setWay ..).trans (if_neg fun h => hn h.1), fun x => ⟨fun hx hxholds => ?_,
    fun hx hno => ?_, fun hx => ?_⟩⟩
  · obtain rfl := honly b x hx hxholds
    obtain rfl : w = x := Option.some.inj (hw.symm.trans hx)
    exact (State.way_setWay ..).trans (if_pos ⟨rfl, rfl⟩)
  · refine ((State.way_setWay ..).trans (if_neg ?_)).trans hx
    rintro ⟨-, rfl⟩
    obtain rfl : w = x := Option.some.inj (hw.symm.trans hx)
    exact hno hholds
  · refine ((State.way_setWay ..).trans (if_neg ?_)).trans hx
    rintro ⟨-, rfl⟩
    exact nomatch hw.symm.trans hx

theorem State.dropWay_spec (s : State) (id : Nat) (hc : s.cacheOk) : waysChanged s id (fun _ => none) (s.dropWay id) ∧
    { s.dropWay id with cache := s.cache } = s := by
  unfold State.dropWay
  obtain ⟨hhit, hno⟩ | ⟨b, w, hhit, hw, hholds, honly⟩ := s.hitWay_cases id hc
  · rw [hhit]
    exact ⟨waysChanged_of_miss _ hno, rfl⟩
  · rw [hhit]
    exact ⟨waysChanged_of_hit (fun _ => none) hw hholds honly, rfl⟩

theorem State.updateWay_spec (s : State) (id code source : Nat) (hc : s.cacheOk) :
    waysChanged s id (fun x => some { x with info := { x.info with assigned := code, source := source } })
      (s.updateWay id code source) ∧ { s.updateWay id code source with cache := s.cache } = s := by
  unfold State.updateWay
  obtain ⟨hhit, hno⟩ | ⟨b, w, hhit, hw, hholds, honly⟩ := s.hitWay_cases id hc
  · rw [hhit]
    exact ⟨waysChanged_of_miss _ hno, rfl⟩
  · rw [hhit]
    dsimp only
    rw [hw]
    exact ⟨waysChanged_of_hit (fun x => some { x with info := { x.info with assigned := code, source := source } })
      hw hholds honly, rfl⟩

/-- The part area as written. -/
theorem partArea_eq (code : Nat) (swap : Bool) : partArea code swap =
    [BitVec.ofNat 8 code, BitVec.ofNat 8 (code / 256), BitVec.ofNat 8 (if swap then 3 else 2), 0, 0, 0, 0, 0] := by
  cases swap <;> rfl

/-- Settles O36, stage by stage of a write-back. -/
theorem writeBackKeepsCacheAndRecordAgreed : Obligations.WriteBackKeepsCacheAndRecordAgreed := by
  intro w s hc hwb set source taken put ends
  have hfails : ∀ (u : State) (a : WriteBackAnswer), u.cache = s.cache → s.wbStep = u.wbFails w a →
      ends u a fun _ => none := fun u a hu hstep => by
    obtain ⟨hways, hframe⟩ := u.dropWay_spec w.id (by unfold State.cacheOk State.way; rw [hu]; exact hc)
    refine ⟨_, hstep, ?_, ?_⟩
    · unfold waysChanged State.way at hways
      rw [hu] at hways
      exact hways
    · exact congrArg (fun t : State => t.setWb none) hframe
  refine ⟨fun hstage hout => ?_, fun hstage hin => ?_, fun dir hstage hmail => ⟨fun hno => ?_, fun hnamed => ?_⟩,
    fun hstage hmail => ?_, fun d hstage hmail => ?_⟩
  · refine hfails s _ rfl ?_
    unfold State.wbStep
    rw [hwb]
    dsimp only
    rw [hstage]
    exact if_pos hout
  · unfold State.wbStep
    rw [hwb]
    dsimp only
    rw [hstage]
    exact if_neg (by omega)
  · refine hfails taken _ rfl ?_
    unfold State.wbStep
    rw [hwb]
    dsimp only
    rw [hstage, hmail]
    dsimp only
    rw [recordAddr_of_not_named hno]
    rfl
  · unfold State.wbStep
    rw [hwb]
    dsimp only
    rw [hstage, hmail]
    dsimp only
    rw [recordAddr_of_named hnamed, partArea_eq]
    rfl
  · refine hfails taken _ rfl ?_
    unfold State.wbStep
    rw [hwb]
    dsimp only
    cases hs : w.stage with
    | ask => exact absurd hs hstage
    | dirWait => rw [hmail]; rfl
    | writeWait => rw [hmail]; rfl
  · obtain ⟨hways, hframe⟩ := taken.updateWay_spec w.id w.code source hc
    refine ⟨(taken.updateWay w.id w.code source).setWb none, ?_, hways, ?_⟩
    · unfold State.wbStep
      rw [hwb]
      dsimp only
      rw [hstage, hmail]
      rfl
    · exact congrArg (fun t : State => t.setWb none) hframe

end Sys2Proof.Machine
end

section
/-! The engine's orders without boundaries: the tables that they load (chapters 2 to 4). -/

namespace Sys2Proof.Machine

/-- Only records that exist are marked. -/
theorem marksAdded.congr_of_exists {s t : State} {p q : RecId → Prop} (h : marksAdded s t p)
    (hpq : ∀ r : RecId, r.exists = true → (p r ↔ q r)) : marksAdded s t q := by
  obtain ⟨hmarks, hrest⟩ := marksAdded_iff.1 h
  exact marksAdded_iff.2 ⟨fun r => (hmarks r).trans (or_congr_right (and_congr_right (hpq r))), hrest⟩

/-! ### Ends and list reads (R67, R72) -/

/-- An order without items has no outcome list. -/
theorem State.finish_of_no_outcomes {o : EngineOrder} (h : o.allOutcomes = []) (s : State) (failed : Bool)
    (r : ResultCode) (c1 c2 : Nat) : s.finish o failed r c1 c2 = handedOver s ⟨o.slot, failed, r, c1, c2⟩ := by
  unfold State.finish
  rw [h]
  rfl

/-- A list read that the windows allow. -/
theorem State.readListA_of_allowed {s : State} {o : EngineOrder} {n : Nat} (hn : o.body.listACount * itemSize o.kind = n)
    (h : s.allowed false o.body.listA n = true) : s.readListA o = { s with
      engine := { s.engine with pos := .listAWait, order := some o }
      port := { s.port with transfers := s.port.transfers ++ [⟨.engine, false, o.body.listA, n, []⟩] } } := by
  subst hn
  unfold State.readListA State.presentRead
  rw [State.present_of_allowed (s := s.setOrder o) .engine [] ((State.allowed_congr rfl ..).trans h)]
  rfl

/-! ### SET_PARAMS (R43) -/

theorem signed8_eq {n : Nat} (h : n < 256) : signed8 n = signedByte n := by
  have htoNat : (BitVec.ofNat 8 n).toNat = n := by rw [BitVec.toNat_ofNat, Nat.mod_eq_of_lt h]
  rw [signed8, signedByte, BitVec.toInt_eq_toNat_cond, htoNat]
  refine if_congr (by omega) rfl rfl

theorem paramByte_lt (p n : Nat) : paramByte p n < 256 := Nat.mod_lt _ (by decide)

theorem differing_cons_int (a b : Int) (l : List (Int × Int)) :
    differing ((a, b) :: l) = (if a = b then 0 else 1) + differing l := by
  unfold differing
  by_cases h : a = b
  · simp [h]
  · simp [h, Nat.add_comm]

/-! ### LOAD_COUPLING (R40) -/

/-- The cells of a table after a coupling list from index k on. -/
theorem sparseGet_loadCells (k : Nat) (bs : List Byte) (t : Sparse Nat) (j : Nat) : sparseGet 0 (loadCells k bs t) j =
    if k ≤ j ∧ j < k + bs.length ∧ onDiagonal j = false then min (bs.getD (j - k) 0).toNat 63 else sparseGet 0 t j := by
  induction bs generalizing k t with
  | nil => exact (if_neg (by simp; omega)).symm
  | cons b bs ih =>
    rw [loadCells, ih, List.length_cons]
    by_cases hj : j = k
    · subst hj
      rw [if_neg (by omega), Nat.sub_self, List.getD_cons_zero]
      by_cases hd : onDiagonal j = true
      · rw [if_pos hd, if_neg (by simp [hd])]
      · rw [if_neg hd, sparseGet_set_same, if_pos ⟨le_rfl, by omega, by simpa using hd⟩]
    · have hcell : sparseGet 0 (if onDiagonal k = true then t else sparseSet 0 t k (min b.toNat 63)) j =
          sparseGet 0 t j := by
        split
        · rfl
        · exact sparseGet_set_other _ _ _ _ _ hj
      rw [hcell]
      by_cases hle : k + 1 ≤ j
      · rw [show j - k = j - (k + 1) + 1 by omega, List.getD_cons_succ]
        exact if_congr ⟨fun h => ⟨by omega, by omega, h.2.2⟩, fun h => ⟨by omega, by omega, h.2.2⟩⟩ rfl rfl
      · rw [if_neg (by omega), if_neg (by omega)]

theorem onDiagonal_iff (k : Nat) : onDiagonal k = true ↔ k / 12 = k % 12 := by
  simp [onDiagonal]

/-- The bytes of a coupling list that are not stored as given. -/
theorem cellsClamped_eq (k : Nat) (bs : List Byte) : cellsClamped k bs = ((List.range bs.length).filter fun i =>
    if (k + i) / 12 = (k + i) % 12 then decide ((bs.getD i 0).toNat ≠ 0) else decide (63 < (bs.getD i 0).toNat)).length := by
  induction bs generalizing k with
  | nil => rfl
  | cons b bs ih =>
    rw [cellsClamped, ih, List.length_cons, List.range_succ_eq_map, List.filter_cons, List.filter_map, List.getD_cons_zero]
    have hrest : ((fun i => if (k + i) / 12 = (k + i) % 12 then decide (((b :: bs).getD i 0).toNat ≠ 0)
        else decide (63 < ((b :: bs).getD i 0).toNat)) ∘ Nat.succ) = fun i =>
          if (k + 1 + i) / 12 = (k + 1 + i) % 12 then decide ((bs.getD i 0).toNat ≠ 0)
          else decide (63 < (bs.getD i 0).toNat) := by
      funext i
      rw [Function.comp_apply, List.getD_cons_succ, show k + Nat.succ i = k + 1 + i by omega]
    rw [hrest]
    have hdiag := onDiagonal_iff k
    rw [Nat.add_zero k]
    by_cases hd : k / 12 = k % 12
    · rw [if_pos (hdiag.2 hd), if_pos hd]
      by_cases hz : b.toNat = 0
      · rw [if_neg (by simp [hz]), List.length_map, clamped, if_pos hz.symm, Nat.zero_add]
      · rw [if_pos (by simp [hz]), List.length_cons, List.length_map, clamped, if_neg fun h => hz h.symm, Nat.add_comm]
    · rw [if_neg (mt hdiag.1 hd), if_neg hd]
      by_cases hz : 63 < b.toNat
      · rw [if_pos (by simp [hz]), List.length_cons, List.length_map, clamped, if_neg (by omega), Nat.add_comm]
      · rw [if_neg (by simp [hz]), List.length_map, clamped, if_pos (by omega), Nat.zero_add]

/-- The off-diagonal cells named by a list. -/
theorem cellsWritten_eq (n : Nat) : cellsWritten n = ((List.range n).filter fun i => decide (i / 12 ≠ i % 12)).length :=
  congrArg List.length (List.filter_congr fun i _ => Bool.eq_iff_iff.2 (by simp [onDiagonal]))

/-! ### SPARES_LOAD and SPARES_RELEASE (R79, R80) -/

theorem hasRepeat_iff (l : List Nat) : hasRepeat l = true ↔ ¬ l.Nodup := by
  induction l with
  | nil => simp [hasRepeat]
  | cons a l ih =>
    rw [hasRepeat, Bool.or_eq_true, decide_eq_true_eq, ih, List.nodup_cons]
    tauto

/-- A loaded list replaces the Spare List, and its records and those of the former users are marked. -/
theorem State.loadSpares_spec (s : State) (list : List (Nat × BitVec 12)) : let t := s.loadSpares list
    t.spares = list.map (fun e => ⟨e.1, e.2, .available, none⟩) ∧
      marksAdded s t (fun r => (∃ i, r = .spare i) ∨ ∃ sp ∈ s.spares, ∃ u, sp.user = some u ∧ r = .carrier u) ∧
      { t with spares := s.spares, status := s.status } = s := by
  unfold State.loadSpares
  dsimp only
  generalize hv : ({ s with spares := list.map fun e => ⟨e.1, e.2, .available, none⟩ } : State) = v
  have hmarks := (v.markAll_marksAdded ((List.range Config.spareRecords).map RecId.spare)).trans
    (State.markAll_marksAdded _ (s.spareUsers.map RecId.carrier))
  have hframe : ∀ u, u = (v.markAll ((List.range Config.spareRecords).map RecId.spare)).markAll
      (s.spareUsers.map RecId.carrier) → u.spares = v.spares ∧ { u with status := v.status } = v := by
    rintro u rfl
    exact ⟨by simp, State.eq_of_fields (by simp)⟩
  generalize State.markAll _ (s.spareUsers.map RecId.carrier) = t at hmarks hframe
  obtain ⟨hspares, hrest⟩ := hframe t rfl
  refine ⟨by rw [hspares, ← hv], ?_, ?_⟩
  · rw [← hv] at hmarks
    refine marksAdded.congr_of_exists (hmarks.of_eq rfl rfl) fun r hr => or_congr ?_ ?_
    · rw [List.mem_map]
      constructor
      · rintro ⟨i, -, rfl⟩
        exact ⟨i, rfl⟩
      · rintro ⟨i, rfl⟩
        exact ⟨i, List.mem_range.2 (of_decide_eq_true hr), rfl⟩
    · simp only [State.spareUsers, List.mem_map, List.mem_filterMap]
      constructor
      · rintro ⟨u, ⟨sp, hsp, hu⟩, rfl⟩
        exact ⟨sp, hsp, u, hu, rfl⟩
      · rintro ⟨sp, hsp, u, hu, rfl⟩
        exact ⟨u, ⟨sp, hsp, hu⟩, rfl⟩
  · rw [← hv] at hrest
    exact congrArg (fun u : State => { u with spares := s.spares }) hrest

/-- An entry released becomes AVAILABLE without a user; its record and its user's are marked. -/
theorem State.releaseSpare_spec {s : State} {i : Nat} {sp : Spare} (hsp : s.spares[i]? = some sp)
    (hstate : sp.state ≠ .available) : (s.releaseSpare i).2 = true ∧ let t := (s.releaseSpare i).1
      t.spares = s.spares.set i { sp with state := .available, user := none } ∧
        marksAdded s t (fun r => r = .spare i ∨ ∃ u, sp.user = some u ∧ r = .carrier u) ∧
        { t with spares := s.spares, status := s.status } = s := by
  unfold State.releaseSpare
  rw [hsp]
  dsimp only
  rw [if_neg hstate]
  generalize hv : ({ s with spares := s.spares.set i { sp with state := .available, user := none } } : State) = v
  have hfirst := v.mark_marksAdded (.spare i)
  have hframe := v.mark_eq (.spare i)
  generalize v.mark (.spare i) = w at hfirst hframe
  have hstatus : v.status = s.status := by rw [← hv]
  cases hu : sp.user with
  | none =>
    refine ⟨rfl, by rw [hframe, ← hv], (hfirst.of_eq hstatus.symm rfl).congr fun r => by simp, ?_⟩
    rw [hframe, ← hv]
  | some u =>
    have hsecond := w.mark_marksAdded (.carrier u)
    have hmark := w.mark_eq (.carrier u)
    dsimp only
    generalize w.mark (.carrier u) = t at hsecond hmark
    refine ⟨rfl, by rw [hmark, hframe, ← hv], ((hfirst.trans hsecond).of_eq hstatus.symm rfl).congr fun r => by simp, ?_⟩
    rw [hmark, hframe, ← hv]

theorem State.releaseSpare_of_available {s : State} {i : Nat} (h : ∀ sp, s.spares[i]? = some sp → sp.state = .available) :
    (s.releaseSpare i).2 = false := by
  unfold State.releaseSpare
  cases hsp : s.spares[i]? with
  | none => rfl
  | some sp =>
    dsimp only
    rw [if_pos (h sp hsp)]

/-! ### FLUSH_CACHE (R64) -/

theorem areaFlagged_iff (mask set : Nat) :
    areaFlagged mask set = true ↔ set / 16 ∈ (List.range 12).filter fun k => mask.testBit k := by
  rw [areaFlagged, Bool.and_eq_true, decide_eq_true_eq, List.mem_filter, List.mem_range]
  rfl

/-- The ways of the flagged areas are invalid, and their alternation bits 0. -/
theorem State.flush_spec (s : State) (mask : Nat) :
    let areas := (List.range 12).filter fun k => mask.testBit k
    let t := (s.flush mask).1
    (∀ set w, t.way set w = if set / 16 ∈ areas then none else s.way set w) ∧
      (∀ set, sparseGet false t.alt set = if set / 16 ∈ areas then false else sparseGet false s.alt set) ∧
      { t with cache := s.cache, alt := s.alt } = s := by
  intro areas t
  have hflag : ∀ {α : Type} (set : Nat) (x y : α),
      (if (!areaFlagged mask set) = true then x else y) = if set / 16 ∈ areas then y else x := fun set x y => by
    by_cases h : set / 16 ∈ areas
    · rw [if_pos h, (areaFlagged_iff mask set).2 h]
      rfl
    · rw [if_neg h, Bool.eq_false_iff.2 (mt (areaFlagged_iff mask set).1 h)]
      rfl
  refine ⟨fun set w => ?_, fun set => ?_, rfl⟩
  · refine (sparseGet_filter none s.cache (fun k => !areaFlagged mask (k / 2)) _).trans ?_
    have hset : (set * 2 + if w = true then 1 else 0) / 2 = set := by split <;> omega
    rw [hset, hflag]
    rfl
  · exact (sparseGet_filter false s.alt (fun k => !areaFlagged mask k) set).trans (hflag ..)

/-- The valid ways that a flush makes invalid. -/
theorem State.flush_count (s : State) (mask : Nat) : (s.flush mask).2 =
    (((List.range 192).filter fun set => decide (set / 16 ∈ (List.range 12).filter fun k => mask.testBit k)).map
      fun set => (s.way set false).toList.length + (s.way set true).toList.length).sum := by
  have hareas : ((List.range 192).filter fun set =>
      decide (set / 16 ∈ (List.range 12).filter fun k => mask.testBit k)) = (List.range 192).filter (areaFlagged mask) :=
    List.filter_congr fun set _ => Bool.eq_iff_iff.2 (by rw [decide_eq_true_eq, areaFlagged_iff])
  rw [hareas]
  rfl

/-- The fields whose stored value differs from the value given. -/
theorem paramsClamped_eq (b : OrderBody) : let p := readParams b
    paramsClamped b = differing [(p.gcc, parByte b.p0 0), (p.g3, parByte b.p0 1), (p.g5, parByte b.p0 2),
      (p.gocc, parByte b.p0 3), (p.reuse, parByte b.p1 0), (p.t3, signedByte (parByte b.p1 1)),
      (p.t5, signedByte (parByte b.p1 2)), (p.searchLimit, (b.p2 % 65536 : Nat))] := by
  intro p
  have h3 := signed8_eq (paramByte_lt b.p1 1)
  have h5 := signed8_eq (paramByte_lt b.p1 2)
  have hclamped : ∀ x y : Nat, clamped x y = if x = y then 0 else 1 := fun _ _ => rfl
  unfold paramsClamped
  rw [h3, h5]
  simp only [differing_cons_int, differing_nil, hclamped, Nat.cast_inj, Nat.add_assoc, Nat.add_zero]
  rfl

/-- Settles O23, order by order. -/
theorem engineOrdersLoadTheTables : Obligations.EngineOrdersLoadTheTables := by
  intro slot b halt s order ok nothing
  have hends : ∀ k (u : State) (failed : Bool) (r : ResultCode) (c1 c2 : Nat), (order k).allOutcomes = [] →
      u.finish (order k) failed r c1 c2 = handedOver u ⟨slot, failed, r, c1, c2⟩ := fun k u failed r c1 c2 h =>
    State.finish_of_no_outcomes h u failed r c1 c2
  refine ⟨?_, fun k hk hne => ?_, fun hnone => ⟨?_, ?_⟩, fun bs hlen hbs hle => ?_, fun bs hlen => ?_, ?_, ?_⟩
  · intro p
    have hp : readParams b = p := by
      unfold readParams
      rw [signed8_eq (paramByte_lt b.p1 1), signed8_eq (paramByte_lt b.p1 2)]
      rfl
    refine (hends .setParams _ _ _ _ _ rfl).trans ?_
    rw [show paramsClamped (order .setParams).body = paramsClamped b from rfl, paramsClamped_eq, hp]
    exact congrArg (fun q => handedOver { s with params := q } _) hp
  · intro n
    refine ⟨fun hallowed => ?_, ?_⟩
    · have hn : (order k).body.listACount * itemSize (order k).kind = n := by
        obtain rfl | rfl := hk
        · exact Nat.mul_one _
        · rfl
      have hbegin : s.beginOrder (order k) = s.readListA (order k) := by
        obtain rfl | rfl := hk <;> exact if_neg hne
      rw [hbegin, State.readListA_of_allowed hn hallowed]
      rfl
    · refine State.finish_of_no_outcomes ?_ s true .memory 0 0
      obtain rfl | rfl := hk <;> rfl
  · exact (if_pos hnone).trans (hends .loadCoupling s false .nothingDone 0 0 rfl)
  · exact if_pos hnone
  · intro given count
    refine ⟨{ s with coupling := loadCells 0 bs s.coupling }, ?_, fun row col hrow hcol => ?_, rfl⟩
    · refine (hends .loadCoupling _ _ _ _ _ rfl).trans ?_
      rw [cellsClamped_eq, cellsWritten_eq]
      simp only [Nat.zero_add]
      rfl
    · refine (sparseGet_loadCells 0 bs s.coupling (row * 12 + col)).trans ?_
      have hdiag : onDiagonal (row * 12 + col) = false ↔ row ≠ col := by
        rw [← Bool.not_eq_true, onDiagonal_iff]
        omega
      rw [Nat.sub_zero]
      exact if_congr ⟨fun h => ⟨hdiag.1 h.2.2, by omega⟩, fun h => ⟨by omega, by omega, hdiag.2 h.1⟩⟩ rfl rfl
  · intro list ends
    have hloads : ends = if list.any fun e => decide (Config.codes ≤ e.1) then handedOver s ⟨slot, true, .badOrder, 0, 0⟩
        else if hasRepeat (list.map Prod.fst) then handedOver s ⟨slot, true, .duplicate, 0, 0⟩
        else handedOver (s.loadSpares list) (ok list.length (list.filter fun e => decide (e.2 = 0)).length) := rfl
    have hany : (list.any fun e => decide (Config.codes ≤ e.1)) = true ↔ ∃ e ∈ list, 8960 ≤ e.1 := by
      simp only [List.any_eq_true, decide_eq_true_eq]
      rfl
    refine ⟨fun hout => ?_, fun hin hrep => ?_, fun hin hnodup => ?_⟩
    · rw [hloads, if_pos (hany.2 hout)]
    · rw [hloads, if_neg (mt hany.1 hin), if_pos ((hasRepeat_iff _).2 hrep)]
    · have hlength : list.length = b.listACount := by simp [list]
      rw [hloads, if_neg (mt hany.1 hin), if_neg (mt (hasRepeat_iff _).1 (not_not.2 hnodup)), hlength]
      exact ⟨_, rfl, s.loadSpares_spec list⟩
  · intro ends
    have hreleases : ends = if (s.releaseSpare b.p0).2 then handedOver (s.releaseSpare b.p0).1 (ok 1 0)
        else handedOver s nothing := rfl
    refine ⟨fun sp hsp hstate => ?_, fun havail => ?_⟩
    · obtain ⟨hreleased, hspec⟩ := State.releaseSpare_spec hsp hstate
      exact ⟨_, hreleases.trans (if_pos hreleased), hspec⟩
    · exact hreleases.trans (if_neg (by rw [State.releaseSpare_of_available havail]; decide))
  · intro areas ends
    have hflush : ends = if areas.length = 0 then handedOver s nothing
        else handedOver (s.flush b.p0).1 (ok (16 * areas.length) (s.flush b.p0).2) := rfl
    refine ⟨fun hempty => hflush.trans (if_pos (by rw [hempty]; rfl)), fun hne => ?_⟩
    refine ⟨_, hflush.trans ((if_neg fun h => hne (List.length_eq_zero_iff.1 h)).trans ?_), s.flush_spec b.p0⟩
    rw [State.flush_count]

end Sys2Proof.Machine
end

section
/-! Facts about the Plan Engine's operations: the reading of bins, steps, and what a carrier that leaves the Air Set
leaves behind. -/

namespace Sys2Proof.Machine

/-! ### The reading of bins (R2, R106) -/

/-- The bins around a code are those of the grid within the guard distance. -/
theorem guardBins_eq {g code : Nat} (h : code ≤ 8959) : guardBins g code = binsAround g code := by
  have hsplit : (8960 : Nat) = (code - g) + (min (code + g) 8959 + 1 - (code - g)) + (8959 - min (code + g) 8959) := by
    omega
  unfold guardBins binsAround
  rw [hsplit, List.range_add, List.range_add, List.filter_append, List.filter_append, List.filter_eq_nil_iff.2,
    List.filter_eq_self.2, List.filter_eq_nil_iff.2, List.append_nil, List.nil_append]
  · rfl
  all_goals
    intro x hx
    simp only [List.mem_map, List.mem_range] at hx
    simp only [decide_eq_true_eq]
    omega

theorem State.withBins_of_none {s : State} (h : s.engine.reading = none) (code : Nat) (f : State → Bool → State) :
    s.withBins code f =
      { s with engine := { s.engine with reading := some ⟨guardBins s.params.gocc code, false⟩ } } := by
  unfold State.withBins
  rw [h]
  rfl

theorem State.withBins_of_some {s : State} {r : BinRead} (h : s.engine.reading = some r) (code : Nat)
    (f : State → Bool → State) :
    s.withBins code f = f { s with engine := { s.engine with reading := none } } r.taken := by
  unfold State.withBins
  rw [h]

/-! ### Steps and answers (R68, R72) -/

theorem State.stepEnds_eq (s : State) (o : EngineOrder) (k : StepKind) : s.stepEnds o k = stepEnded s o k := rfl

theorem EngineOrder.answer_eq (o : EngineOrder) (id : Nat) (out : ItemOutcome) (code : Nat) :
    o.answer id out code = itemAnswered o id out code := rfl

theorem State.handOver_eq (s : State) (c : Completion) : s.handOver c = handedOver s c := rfl

theorem State.others_eq (s : State) (id : Nat) : s.others id = othersThan s id := airRemove_eq s id

theorem powerLevel_eq (c : Nat) : powerLevel c = powerOf c := rfl

theorem State.engineMail_of_answer {s : State} {a : Answer} (f : State → Answer → State) (h : s.mail.engine = some a) :
    s.engineMail f = some (f (s.setMail .engine none) a) := by
  rw [State.engineMail, h]
  rfl

/-! ### Runs of the engine -/

/-- The micro-steps of a block that leads from one state to another. -/
inductive MicroSteps (f : State → Option State) : Nat → State → State → Prop where
  | refl (s : State) : MicroSteps f 0 s s
  | step {s t u : State} {n : Nat} (h : f s = some t) (g : MicroSteps f n t u) : MicroSteps f (n + 1) s u

theorem MicroSteps.trans {f : State → Option State} {n m : Nat} {s t u : State} (h : MicroSteps f n s t)
    (g : MicroSteps f m t u) : MicroSteps f (m + n) s u := by
  induction h with
  | refl => exact g
  | step h _ ih => exact .step h (ih g)

theorem runMicro_of_steps {f : State → Option State} {n m : Nat} {s t : State} (h : MicroSteps f n s t) (hn : n ≤ m)
    (ht : f t = none) : runMicro f m s = t := by
  induction h generalizing m with
  | refl s => exact runMicro_none ht m
  | step h _ ih =>
    obtain _ | m := m
    · omega
    · rw [runMicro_some h]
      exact ih (by omega) ht

theorem State.engineGo_of_steps {n : Nat} {s t : State} (h : MicroSteps State.engineMicro n s t)
    (hn : n ≤ Config.microSteps) (ht : t.engineMicro = none) : s.engineGo = t := runMicro_of_steps h hn ht

/-- At a boundary the engine waits for the event that takes it on. -/
theorem State.engineMicro_of_boundary {s : State} {o : EngineOrder} (hservice : s.engine.service = none)
    (ho : s.engine.order = some o) (hpos : s.engine.pos = .boundary) : s.engineMicro = none := by
  unfold State.engineMicro
  split
  · rfl
  · rw [hservice, ho]
    show s.orderMicro o = none
    unfold State.orderMicro
    rw [hpos]

/-- ENGINE_STEP_BOUNDARY at a boundary. -/
theorem exec_engineStepBoundary {s : State} (hpos : s.engine.pos = .boundary) (hservice : s.engine.service = none) :
    exec .engineStepBoundary s = .next
      (State.engineGo { s with engine := { s.engine with pos := .serve, airChanged := false } }).serveBus :=
  congrArg Host.Outcome.next (s.whenDue_of_due _ (by simp [State.boundaryDue, hpos, hservice]))

/-- The service of the bus changes the port alone. -/
theorem State.serveBus_port (s : State) : s.serveBus = { s with port := s.serveBus.port } := by
  rcases s.serveBus_cases with ⟨-, hs⟩ | ⟨-, -, hs⟩ | ⟨src, -, -, -, hs⟩ <;> rw [hs]

/-! ### Boundaries (R68, R69) -/

/-- At a boundary without a swap request the stop word is thought of first. -/
theorem State.engineMicro_of_serve {s : State} {o : EngineOrder} (hservice : s.engine.service = none)
    (hreading : s.engine.reading = none) (ho : s.engine.order = some o) (hpos : s.engine.pos = .serve)
    (hrequests : s.engine.requests = []) : s.engineMicro = some (s.boundaryStop o) := by
  rw [State.engineMicro_of_order hservice hreading ho]
  unfold State.orderMicro
  rw [hpos]
  exact congrArg some (if_pos hrequests)

theorem State.engineMicro_of_decide {s : State} {o : EngineOrder} (hservice : s.engine.service = none)
    (hreading : s.engine.reading = none) (ho : s.engine.order = some o) (hpos : s.engine.pos = .decide) :
    s.engineMicro = some (s.decideBoundary o) := by
  rw [State.engineMicro_of_order hservice hreading ho]
  unfold State.orderMicro
  rw [hpos]

theorem State.engineMicro_of_step {s : State} {o : EngineOrder} (hservice : s.engine.service = none)
    (hreading : s.engine.reading = none) (ho : s.engine.order = some o) (hpos : s.engine.pos = .step) :
    s.engineMicro = some (s.beginStep o) := by
  rw [State.engineMicro_of_order hservice hreading ho]
  unfold State.orderMicro
  rw [hpos]

/-- A boundary inside a phase, with no stop word due. -/
theorem State.boundaryStop_of_same {s : State} {o : EngineOrder} (h : (s.nextMove o).2 = .same)
    (hcount : o.stepCounter ≠ 63) : s.boundaryStop o =
      { s with engine := { s.engine with
        order := some { o with ahead := .same, stepCounter := o.stepCounter + 1 }, pos := .decide } } := by
  have hdue : ¬ o.stepCounter + 1 = Config.stopSteps := fun h => hcount (by injection h)
  unfold State.boundaryStop
  rw [h]
  simp only [ne_eq, reduceCtorEq, not_false_eq_true, if_false, true_and, or_false, if_neg hdue]
  rfl

/-- At a last boundary no stop word is read. -/
theorem State.boundaryStop_of_last {s : State} {o : EngineOrder} (h : (s.nextMove o).2 = .last) : s.boundaryStop o =
    { s with engine := { s.engine with order := some { o with ahead := .last }, pos := .decide } } := by
  unfold State.boundaryStop
  rw [h]
  rfl

/-- A boundary at which no cause ends the order. -/
theorem State.decideBoundary_of_goesOn {o : EngineOrder} (s : State) (hfault : o.faultMark = false)
    (h : o.ahead ≠ .last → o.haltMark = false ∧ o.stopMark = false) :
    s.decideBoundary o = s.goOn o (s.nextMove o).1 := by
  have hhalt : ¬ (o.ahead ≠ .last ∧ o.haltMark = true) := fun ⟨hahead, hmark⟩ => by simp [(h hahead).1] at hmark
  have hstop : ¬ (o.ahead ≠ .last ∧ o.stopMark = true) := fun ⟨hahead, hmark⟩ => by simp [(h hahead).2] at hmark
  unfold State.decideBoundary
  rw [if_neg (by simp [hfault]), if_neg hhalt, if_neg hstop]

/-- An order that goes on within its phase keeps its place in it. -/
theorem EngineOrder.enter_self (o : EngineOrder) : o.enter o.phase = o := by
  rw [EngineOrder.enter, if_pos rfl]

/-! ### Entries (R24 to R34) -/

theorem State.onAirEntry_some_iff {s : State} {id : Nat} {e : AirEntry} (h : s.onAirEntry id = some e) :
    e.id = id ∧ e.air = .onAir := by
  simpa using List.find?_some h

/-- What taking the answers leads to, from two states that differ in what it does not rest on. -/
theorem State.takeAnswers_congr {s s' : State} (hw : s'.watch = s.watch) (hst : s'.status = s.status)
    (hc : s'.causes = s.causes) (ha : s'.swapAnswers = s.swapAnswers) :
    s'.takeAnswers.watch = s.takeAnswers.watch ∧ s'.takeAnswers.status = s.takeAnswers.status ∧
      s'.takeAnswers.causes = s.takeAnswers.causes :=
  State.watchView_eq_iff.1 (State.takeAnswers_watchView (State.watchView_eq_iff.2 ⟨hw, hst, hc⟩) ha)

theorem State.watchRec_filter (s : State) (id j : Nat) :
    (s.watch.records.filter fun r => r.id != id).find? (fun r => r.id == j) =
      if j = id then none else s.watchRec j := by
  rw [List.find?_filter]
  split
  · subst j
    refine List.find?_eq_none.2 fun w _ => ?_
    simp
  · rename_i hj
    refine congrFun (congrArg _ (funext fun w => ?_)) _
    by_cases hw : w.id = j
    · simp [hw, hj]
    · simp [hw]

/-- The watch of a carrier ends (R142, R159), after the answers already given (log 7): its record and its held TUNE
go, and no other. -/
theorem State.watchEnd_spec (s : State) (id : Nat) : let u := s.takeAnswers
    let t := s.watchEnd id
    (∀ j, t.watchRec j = if j = id then none else u.watchRec j) ∧
    t.watch.heldTunes =
      (if (s.watchRec id).isSome then s.watch.heldTunes.filter fun h => decide (h.tune.id ≠ id)
        else s.watch.heldTunes) ∧
    (∃ named : RecId → Prop, marksAdded u t named ∧ ∀ r, named r → r = .carrier id ∨ r = .stage (id / 256)) ∧
    t = { u with watch := t.watch, status := t.status } := by
  intro u t
  have hheld : u.watch.heldTunes = s.watch.heldTunes := by simp [u]
  have hsome : (u.watchRec id).isSome = (s.watchRec id).isSome := by
    obtain ⟨g, _, _, h⟩ := s.takeAnswers_moves
    rw [h.records]
    simp [State.watchRec]
  have hself : ∀ {t' : State}, t'.watchRec id = none → (∀ j, t'.watchRec j = u.watchRec j) →
      ∀ j, t'.watchRec j = if j = id then none else u.watchRec j := fun hnone hrest j => by
    split
    · rename_i hj
      exact hj ▸ hnone
    · exact hrest j
  obtain hnone | ⟨w, hw⟩ := Option.eq_none_or_eq_some (u.watchRec id)
  · have ht : t = u := by
      show s.watchEnd id = u
      unfold State.watchEnd
      dsimp only
      rw [hnone]
    rw [ht]
    refine ⟨hself hnone fun _ => rfl, ?_, ⟨_, .of_status_eq rfl, by simp⟩, rfl⟩
    rw [if_neg (by simp [← hsome, hnone]), hheld]
  · let v : State := { u with
      watch := { u.watch with
        records := u.watch.records.filter fun r => r.id != id
        heldTunes := u.watch.heldTunes.filter fun h => h.tune.id != id } }
    have ht : t = if w.state.isAlert then (v.mark (.carrier id)).mark (.stage (id / 256)) else v.mark (.carrier id) := by
      show s.watchEnd id = _
      unfold State.watchEnd
      dsimp only
      rw [hw]
    have hv : ∃ named : RecId → Prop, marksAdded v t named ∧ (∀ r, named r → r = .carrier id ∨ r = .stage (id / 256)) ∧
        t = { v with status := t.status } := by
      rw [ht]
      split
      · refine ⟨_, (v.mark_marksAdded _).trans (State.mark_marksAdded _ _), fun r h => h, ?_⟩
        exact State.eq_of_fields (by simp)
      · exact ⟨_, v.mark_marksAdded _, fun r h => .inl h, v.mark_eq _⟩
    obtain ⟨named, hmarks, hnamed, hframe⟩ := hv
    have htwatch : t.watch = v.watch := by rw [hframe]
    refine ⟨fun j => ?_, ?_, ⟨named, hmarks.of_eq rfl rfl, hnamed⟩, ?_⟩
    · rw [State.watchRec_congr htwatch]
      exact u.watchRec_filter id j
    · rw [htwatch, if_pos (by simp [← hsome, hw]), ← hheld]
      exact List.filter_congr fun h _ => by rw [Bool.eq_iff_iff]; simp
    · rw [hframe]

/-- An ON_AIR carrier leaves the Air Set (R34). -/
theorem State.leaveAir_spec (s : State) (id : Nat) : leftAir s (s.leaveAir id) id ∧
    { (s.leaveAir id).engine with requests := s.engine.requests } = s.engine ∧
    { s.leaveAir id with
      engine := s.engine, air := s.air, watch := s.watch, swapAnswers := s.swapAnswers, status := s.status
      causes := s.causes } = s := by
  obtain ⟨hrec, hheld, ⟨named, hmarks, hnamed⟩, hframe⟩ := (s.unlist id).watchEnd_spec id
  obtain ⟨hwatch, hstatus, hcauses⟩ :=
    State.takeAnswers_congr (s := s) (s' := s.unlist id) (by simp) (by simp) (by simp) (by simp)
  have htwatch : (s.leaveAir id).watch = ((s.unlist id).watchEnd id).watch := by simp [State.leaveAir]
  have hrec' : ∀ j, (s.leaveAir id).watchRec j = if j = id then none else s.takeAnswers.watchRec j := fun j => by
    rw [State.watchRec_congr htwatch, hrec, State.watchRec_congr hwatch]
  have hmoved : marksAdded s.takeAnswers (s.leaveAir id) fun r => r = .carrier id ∨ r = .stage (id / 256) := by
    have hdropped : marksAdded s.takeAnswers (((s.unlist id).watchEnd id).dropEntry id) named :=
      hmarks.of_eq hstatus.symm (by simp)
    refine marksAdded.congr ((hdropped.trans (State.mark_marksAdded _ _)).trans (State.mark_marksAdded _ _)) fun r => ?_
    have := hnamed r
    tauto
  have hall : s.leaveAir id = { s with
      engine := { s.engine with requests := s.engine.requests.filter fun x => x != id }
      air := airRemove id s.air, watch := (s.leaveAir id).watch, swapAnswers := []
      status := (s.leaveAir id).status, causes := s.takeAnswers.causes } := by
    have hended : (s.unlist id).watchEnd id = { s.unlist id with
        watch := ((s.unlist id).watchEnd id).watch, swapAnswers := []
        status := ((s.unlist id).watchEnd id).status, causes := s.takeAnswers.causes } := by
      refine hframe.trans ?_
      rw [State.takeAnswers_frame (s.unlist id), hcauses]
    unfold State.leaveAir
    rw [hended]
    exact State.eq_of_fields (by simp)
  refine ⟨⟨?_, ?_, fun j hj => ?_, by simp, ?_, ?_, ?_, ?_, hmoved⟩, ?_, ?_⟩
  · rw [hall]
    exact List.filter_congr fun e _ => by rw [Bool.eq_iff_iff]; simp
  · rw [hrec', if_pos rfl]
  · rw [hrec', if_neg hj]
  · rw [htwatch, hheld]
    simp [State.watchRec]
  · rw [hall]
    exact List.filter_congr fun e _ => by rw [Bool.eq_iff_iff]; simp
  all_goals rw [hall]

end Sys2Proof.Machine
end

section
/-! AIR_JOIN, AIR_LEAVE and CHANGEOVER: the reads of their lists, and the items that leave the Air Set (R67, R86,
R87). -/

namespace Sys2Proof.Machine

/-! ### The lists (R67) -/

/-- A list_b read that the windows allow. -/
theorem State.readListB_of_allowed {s : State} {o : EngineOrder} (hn : o.body.listBCount ≠ 0)
    (h : s.allowed false o.body.listB (2 * o.body.listBCount) = true) : s.readListB o = { s with
      engine := { s.engine with pos := .listBWait, order := some o }
      port := { s.port with
        transfers := s.port.transfers ++ [⟨.engine, false, o.body.listB, 2 * o.body.listBCount, []⟩] } } := by
  unfold State.readListB State.presentRead
  rw [if_neg hn, Nat.mul_comm, State.present_of_allowed (s := s.setOrder o) .engine [] ((State.allowed_congr rfl ..).trans h)]
  rfl

theorem halfList_eq (bs : List Byte) (n : Nat) : halfList bs n = (List.range n).map fun i => half bs (2 * i) := rfl

theorem halfList_eq_nil_iff (bs : List Byte) (n : Nat) : halfList bs n = [] ↔ n = 0 := by
  simp [halfList]

/-! ### Leavers (R86, R87) -/

theorem State.leaveItem_of_none {s : State} {id : Nat} (h : s.onAirEntry id = none) (o : EngineOrder) :
    s.leaveItem o id = stepEnded s (itemAnswered o id .notOnAir 0) .item := by
  unfold State.leaveItem
  rw [h]
  rfl

theorem State.leaveItem_of_some {s : State} {id : Nat} {e : AirEntry} (h : s.onAirEntry id = some e) (o : EngineOrder) :
    s.leaveItem o id = stepEnded (s.leaveAir id) (itemAnswered o id .left e.code) .item := by
  unfold State.leaveItem
  rw [h]
  rfl

/-- The step of an AIR_LEAVE, or of the LEAVE phase of a CHANGEOVER. -/
theorem State.beginStep_of_leaver {o : EngineOrder} {id : Nat}
    (h : o.kind = .airLeave ∧ o.phase = .items ∨ o.kind = .changeover ∧ o.phase = .leave)
    (hid : o.listA[o.cursor]? = some id) (s : State) : s.beginStep o = s.leaveItem o id := by
  have hstep : s.leaveStep o = s.leaveItem o id := by
    unfold State.leaveStep
    rw [hid]
  unfold State.beginStep
  obtain ⟨hkind, hphase⟩ | ⟨hkind, hphase⟩ := h <;> simp [hkind, hphase, hstep]

/-- The boundary after an item that is not the last of its list, with no cause to end the order and no stop word due:
the next step is begun. -/
theorem State.engineMicro_of_itemBoundary {o : EngineOrder} {s : State} (hpos : s.engine.pos = .serve)
    (hservice : s.engine.service = none) (hreading : s.engine.reading = none) (hrequests : s.engine.requests = [])
    (ho : s.engine.order = some o) (hlast : o.last = .item) (hmore : o.cursor < o.listA.length)
    (hfault : o.faultMark = false) (hhalt : o.haltMark = false) (hstop : o.stopMark = false)
    (hcount : o.stepCounter < 63) :
    let o' := { o with stepCounter := o.stepCounter + 1, ahead := .same }
    MicroSteps State.engineMicro 2 s
      { s with engine := { s.engine with order := some o', pos := .step } } := by
  intro o'
  have hmove : ∀ (t : State) (q : EngineOrder), q.last = .item → q.faultMark = false → q.cursor < q.listA.length →
      t.nextMove q = (.step q.phase, .same) := fun t q hq hf hm => by
    unfold State.nextMove
    rw [hq, hf]
    exact if_pos (.inl hm)
  let t : State := { s with engine := { s.engine with order := some o', pos := .decide } }
  refine .step (t := t) ?_ (.step (t := { s with engine := { s.engine with order := some o', pos := .step } }) ?_ (.refl _))
  · rw [State.engineMicro_of_serve hservice hreading ho hpos hrequests,
      State.boundaryStop_of_same (by rw [hmove s o hlast hfault hmore]) (by omega)]
  · refine (State.engineMicro_of_decide (s := t) hservice hreading rfl rfl).trans ?_
    rw [State.decideBoundary_of_goesOn (o := o') t hfault fun _ => ⟨hhalt, hstop⟩, hmove _ o' hlast hfault hmore]
    show some (State.goOn _ o' (.step o'.phase)) = _
    unfold State.goOn
    dsimp only
    rw [EngineOrder.enter_self]
    rfl

/-- An AIR_JOIN, an AIR_LEAVE or a CHANGEOVER with a list_a reads it. -/
theorem State.beginOrder_of_listA {s : State} {o : EngineOrder}
    (hk : o.kind = .airJoin ∨ o.kind = .airLeave ∨ o.kind = .changeover) (hn : o.body.listACount ≠ 0) :
    s.beginOrder o = s.readListA o := by
  unfold State.beginOrder
  obtain h | h | h := hk <;> simp only [h, if_neg hn]

/-- An AIR_JOIN or an AIR_LEAVE without an item ends at once. -/
theorem State.beginOrder_of_noItem {s : State} {o : EngineOrder} (hk : o.kind = .airJoin ∨ o.kind = .airLeave)
    (hn : o.body.listACount = 0) (hlist : o.listA = []) (hout : o.outcomes = []) :
    s.beginOrder o = handedOver s ⟨o.slot, false, .nothingDone, 0, 0⟩ := by
  have hcount : ∀ p, o.countOf p = 0 := fun p => by rw [EngineOrder.countOf, hout]; rfl
  have hnone : o.allOutcomes = [] := by
    unfold EngineOrder.allOutcomes EngineOrder.items
    obtain h | h := hk <;> simp [h, hout, hlist]
  have hends : ∀ good, s.endItems o good = handedOver s ⟨o.slot, false, .nothingDone, 0, 0⟩ := fun good => by
    unfold State.endItems
    simp only [hlist, if_true, hcount]
    exact State.finish_of_no_outcomes hnone s ..
  unfold State.beginOrder
  obtain h | h := hk <;> simp only [h, if_pos hn, hends]

/-- What a leaver leaves behind rests on the Air Set, the Watch Unit, its answers and the marks alone. -/
theorem leftAir.of_eq {s s' t t' : State} {id : Nat} (h : leftAir s t id) (hsair : s'.air = s.air)
    (hsw : s'.watch = s.watch) (hss : s'.status = s.status) (hsc : s'.causes = s.causes)
    (hsa : s'.swapAnswers = s.swapAnswers) (hsr : s'.engine.requests = s.engine.requests) (htair : t'.air = t.air)
    (htw : t'.watch = t.watch) (hts : t'.status = t.status) (htc : t'.causes = t.causes)
    (hta : t'.swapAnswers = t.swapAnswers) (htr : t'.engine.requests = t.engine.requests) : leftAir s' t' id := by
  obtain ⟨hair, hgone, hothers, hparams, hheld, hrequests, hanswers, hcauses, hmarks⟩ := h
  obtain ⟨hwatch, hstatus, hcauses'⟩ := State.takeAnswers_congr hsw hss hsc hsa
  refine ⟨?_, ?_, fun j hj => ?_, ?_, ?_, ?_, ?_, ?_, hmarks.of_eq hstatus hts⟩
  · rw [htair, hair, hsair]
  · rw [State.watchRec_congr htw, hgone]
  · rw [State.watchRec_congr htw, hothers j hj, State.watchRec_congr hwatch]
  · rw [htw, hparams, hsw]
  · rw [htw, hheld, State.watchRec_congr hsw, hsw]
  · rw [htr, hrequests, hsr]
  · rw [hta, hanswers]
  · rw [htc, hcauses, hcauses']

/-- Settles O22: the lists of an order, and its leavers. -/
theorem airLeaveHandlesNextItem : Obligations.AirLeaveHandlesNextItem := by
  refine ⟨fun slot k b halt s hk => ?_, fun o s hservice hreading ho => ?_, fun o id s hkind hid => ⟨fun h => ?_,
    fun e h => ?_, fun hpos hservice hreading hrequests ho hlast hfault hhalt hstop hcount => ?_⟩⟩
  · intro o asks begins ids unread roomA roomB
    have hnew : newOrder slot k b halt = o := by
      obtain rfl | rfl | rfl := hk <;> rfl
    have hreadB : ∀ u : EngineOrder, u.body = b → b.listBCount ≠ 0 → roomB →
        s.readListB u = asks u b.listB (2 * b.listBCount) .listBWait := fun u hu hn h => by
      subst hu
      exact State.readListB_of_allowed hn h
    have hnoB : ∀ u : EngineOrder, u.body = b → b.listBCount = 0 →
        s.readListB u = begins { u with phase := if u.listA = [] then .place else .leave } := fun u hu hn => by
      subst hu
      exact if_pos hn
    refine ⟨hnew, fun hn h => ?_, fun hn hne => ?_, fun hn hch hb h => ?_, fun hn hch hb => ?_, ?_, fun bs bs' => ?_⟩
    · rw [State.beginOrder_of_listA hk hn]
      refine State.readListA_of_allowed ?_ h
      obtain rfl | rfl | rfl := hk <;> exact Nat.mul_comm ..
    · exact State.beginOrder_of_noItem (by tauto) hn rfl rfl
    · subst hch
      refine (if_pos hn).trans (hreadB o rfl hb h)
    · subst hch
      exact (if_pos hn).trans (hnoB o rfl hb)
    · rfl
    · intro u inPhase
      have hphase : ∀ w : EngineOrder, w.listA = ids bs b.listACount →
          (if w.listA = [] then Phase.place else .leave) = if b.listACount = 0 then .place else .leave := fun w hw => by
        rw [hw]
        exact if_congr (halfList_eq_nil_iff bs _) rfl rfl
      refine ⟨fun hch => ?_, fun hch hb => ?_, fun hch hb h => ?_, fun hch => ⟨rfl, ?_⟩⟩
      · obtain rfl | rfl | rfl := hk
        · rfl
        · rfl
        · exact absurd rfl hch
      · subst hch
        refine (hnoB u rfl hb).trans ?_
        rw [hphase u rfl]
      · subst hch
        exact hreadB u rfl hb h
      · show begins { u with
          listB := ids bs' b.listBCount, phase := if u.listA = [] then Phase.place else .leave } = _
        rw [hphase u rfl]
  · intro u
    rw [State.engineMicro_of_order hservice hreading ho]
    unfold State.orderMicro
    refine ⟨fun hpos => ?_, fun hpos => ?_, fun a ha => ⟨fun hpos => ?_, fun hpos => ?_⟩⟩ <;> rw [hpos]
    · exact State.engineMail_of_answer _ ha
    · exact State.engineMail_of_answer _ ha
  · rw [State.beginStep_of_leaver hkind hid, State.leaveItem_of_none h]
  · obtain ⟨hleft, hengine, hframe⟩ := s.leaveAir_spec id
    refine ⟨s.leaveAir id, ?_, hleft, hengine, hframe⟩
    rw [State.beginStep_of_leaver hkind hid, State.leaveItem_of_some h]
  · have hmore : o.cursor < o.listA.length := (List.getElem?_eq_some_iff.1 hid).1
    let s₁ : State := { s with engine := { s.engine with pos := .serve, airChanged := false } }
    let o' := { o with stepCounter := o.stepCounter + 1, ahead := Ahead.same }
    let s₂ : State := { s₁ with engine := { s₁.engine with order := some o', pos := .step } }
    have hsteps := State.engineMicro_of_itemBoundary (s := s₁) rfl hservice hreading hrequests ho hlast hmore hfault
      hhalt hstop hcount
    have hgo : ∀ u q, s₂.leaveItem o' id = stepEnded u q .item → u.engine.service = none →
        s₁.engineGo = stepEnded u q .item := fun u q h hu => by
      refine State.engineGo_of_steps (n := 3) (hsteps.trans (.step ?_ (.refl _))) (by decide)
        (State.engineMicro_of_boundary hu rfl rfl)
      refine (State.engineMicro_of_step (s := s₂) hservice hreading rfl rfl).trans (congrArg some ?_)
      exact (State.beginStep_of_leaver (o := o') hkind hid s₂).trans h
    have hkept : ∀ q : EngineOrder, q.last = .item → ({ s.engine with
        pos := .boundary, airChanged := false
        order := some { q with stepCounter := o.stepCounter + 1, ahead := .same, last := .item } } : Engine) =
          { s.engine with
            pos := .boundary, airChanged := false
            order := some { q with stepCounter := o.stepCounter + 1, ahead := .same } } := fun q hq => by rw [← hq]
    refine ⟨_, exec_engineStepBoundary hpos hservice, ?_⟩
    show { s₁.engineGo.serveBus with
          engine := s.engine, air := s.air, watch := s.watch, swapAnswers := s.swapAnswers, status := s.status
          causes := s.causes, port := s.port } = s ∧
        (∀ e, s.onAirEntry id = some e → leftAir s s₁.engineGo.serveBus id) ∧
        (s.onAirEntry id = none → { s₁.engineGo.serveBus with engine := s.engine, port := s.port } = s) ∧
        s₁.engineGo.serveBus.engine = _
    rw [State.serveBus_port]
    obtain hnone | ⟨e, he⟩ := Option.eq_none_or_eq_some (s.onAirEntry id)
    · rw [hgo s₂ _ (State.leaveItem_of_none (s := s₂) hnone o') hservice]
      refine ⟨rfl, fun e he => absurd (hnone.symm.trans he) (by simp), fun _ => rfl, ?_⟩
      rw [hnone]
      exact hkept _ hlast
    · obtain ⟨hleft, hengine, hframe⟩ := s₂.leaveAir_spec id
      have hservice' : (s₂.leaveAir id).engine.service = none := (congrArg Engine.service hengine).trans hservice
      rw [hgo (s₂.leaveAir id) _ (State.leaveItem_of_some (s := s₂) he o') hservice']
      refine ⟨?_, fun _ _ => ?_, fun hnone => absurd (hnone.symm.trans he) (by simp), ?_⟩
      · exact congrArg (fun t : State => { t with engine := s.engine, port := s.port }) hframe
      · exact leftAir.of_eq hleft rfl rfl rfl rfl rfl rfl rfl rfl rfl rfl rfl rfl
      · have hrequests' : (s₂.leaveAir id).engine.requests = s₂.engine.requests := by
          obtain ⟨-, -, -, -, -, h, -, -, -⟩ := hleft
          rw [h, show s₂.engine.requests = [] from hrequests]
          rfl
        have hsame : (s₂.leaveAir id).engine = s₂.engine := by rwa [← hrequests'] at hengine
        rw [he]
        exact (congrArg (fun g : Engine => { g with
          order := some { itemAnswered o' id .left e.code with last := .item }, pos := .boundary }) hsame).trans
          (hkept (itemAnswered o id .left e.code) hlast)

end Sys2Proof.Machine
end

section
/-! The Air Set's entries one by one: what an insertion, a removal and a new code leave of each, and how a watch begins
(R25 to R35, R142). -/

namespace Sys2Proof.Machine

/-! ### Insertion and removal (R25, R26) -/

/-- An entry inserted stands in the list beside the entries there before. -/
theorem find?_airInsert {e : AirEntry} {l : List AirEntry} (h : l.find? (fun x => x.id == e.id) = none) (j : Nat) :
    (airInsert e l).find? (fun x => x.id == j) = if j = e.id then some e else l.find? fun x => x.id == j := by
  induction l with
  | nil =>
    by_cases hj : j = e.id
    · simp [airInsert, hj]
    · simp [airInsert, hj, Ne.symm hj]
  | cons x l ih =>
    have hx : x.id ≠ e.id := fun hx => by simp [hx] at h
    have hl : l.find? (fun x => x.id == e.id) = none := by simpa [hx] using h
    unfold airInsert
    split
    · by_cases hj : j = e.id
      · simp [hj]
      · simp [hj, Ne.symm hj]
    · rw [List.find?_cons, List.find?_cons, ih hl]
      by_cases hj : j = e.id
      · simp [hj, beq_false_of_ne hx]
      · simp only [if_neg hj]

theorem find?_airRemove (id : Nat) (l : List AirEntry) (j : Nat) :
    (airRemove id l).find? (fun x => x.id == j) = if j = id then none else l.find? fun x => x.id == j := by
  unfold airRemove
  rw [List.find?_filter]
  split
  · subst j
    refine List.find?_eq_none.2 fun e _ => ?_
    simp
  · rename_i hj
    refine congrFun (congrArg _ (funext fun e => ?_)) _
    by_cases he : e.id = j
    · simp [he, hj]
    · simp [he]

/-- An insertion with room, of a carrier without an entry. -/
theorem State.putEntry_of_room {s : State} {e : AirEntry} (hnone : s.airEntry e.id = none) (hroom : s.air.length < 200) :
    s.putEntry e = { s with air := airInsert e s.air } := by
  have hfull : ¬ s.airFull = true := by
    have hcapacity : Config.airCapacity = 200 := rfl
    simp [State.airFull, hcapacity, hroom]
  unfold State.putEntry
  rw [if_neg (by simp [hnone, hfull])]

theorem State.airEntry_of_air {s t : State} (h : t.air = s.air) (id : Nat) : t.airEntry id = s.airEntry id := by
  rw [State.airEntry, State.airEntry, h]

/-- An entry takes a code (R35): it moves to its place, unconfirmed, and no other entry changes. -/
theorem State.setCode_spec {s : State} {id : Nat} {e : AirEntry} (code : Nat) {f : AirEntry → AirEntry}
    (he : s.airEntry id = some e) (hroom : s.air.length ≤ 200) (hf : (f e).id = e.id) :
    (s.setCode id code f).airEntry id = some { f e with code := code, confirmed := .unconfirmed } ∧
    (∀ j, j ≠ id → (s.setCode id code f).airEntry j = s.airEntry j) ∧
    marksAdded s (s.setCode id code f) (fun r => r = .carrier id) ∧
    s.setCode id code f = { s with air := (s.setCode id code f).air, status := (s.setCode id code f).status } := by
  let e' : AirEntry := { f e with code := code, confirmed := .unconfirmed }
  have hid : e.id = id := State.id_of_airEntry he
  have hid' : e'.id = id := hf.trans hid
  have hnone : (s.dropEntry id).airEntry e'.id = none := by
    rw [State.airEntry, State.dropEntry_air, find?_airRemove, if_pos hid']
  have hlength : (s.dropEntry id).air.length < 200 := by
    have hlt : (airRemove id s.air).length < s.air.length :=
      List.length_filter_lt_length_iff_exists.2 ⟨e, List.mem_of_find?_eq_some he, by simp [hid]⟩
    rw [State.dropEntry_air]
    omega
  have hset : s.setCode id code f =
      State.mark { s.dropEntry id with air := airInsert e' (airRemove id s.air) } (.carrier id) := by
    unfold State.setCode
    rw [he]
    exact congrArg (State.mark · _) (State.putEntry_of_room hnone hlength)
  have hair : ∀ j, (s.setCode id code f).airEntry j = if j = id then some e' else s.airEntry j := fun j => by
    rw [hset, State.airEntry, State.mark_air]
    refine (find?_airInsert (e := e') hnone j).trans ?_
    rw [hid', State.dropEntry_air, find?_airRemove]
    split <;> rfl
  refine ⟨?_, fun j hj => ?_, ?_, ?_⟩
  · rw [hair, if_pos rfl]
  · rw [hair, if_neg hj]
  · rw [hset]
    exact State.mark_marksAdded { s.dropEntry id with air := airInsert e' (airRemove id s.air) } _
  · rw [hset]
    exact State.eq_of_fields (by simp)

/-! ### A watch begins (R142) -/

theorem AirEntry.isWatched_iff (e : AirEntry) : e.isWatched = true ↔
    e.air = .onAir ∧ e.kind = .mic ∧ e.watched = true ∧ e.rack.isSome = true := by
  simp [AirEntry.isWatched, and_assoc]

theorem State.watchRec_takeAnswers_isSome (s : State) (id : Nat) :
    (s.takeAnswers.watchRec id).isSome = (s.watchRec id).isSome := by
  obtain ⟨g, _, _, h⟩ := s.takeAnswers_moves
  rw [h.records]
  simp [State.watchRec]

/-- A carrier that qualifies is watched from now on (R142), in QUIET; the answers already given come first (log 7). -/
theorem State.watchBegin_of_begins {s : State} {e : AirEntry} (he : e.isWatched = true) (hnone : s.watchRec e.id = none) :
    let u := s.takeAnswers
    let t := s.watchBegin e
    (∀ j, t.watchRec j = if j = e.id then some ⟨e.id, .quiet, 0, 0, 0, none, none⟩ else u.watchRec j) ∧
    { t.watch with records := s.watch.records } = s.watch ∧ marksAdded u t (fun r => r = .carrier e.id) ∧
    t = { u with watch := t.watch, status := t.status } := by
  intro u t
  have hnone' : u.watchRec e.id = none := by
    simpa [hnone] using s.watchRec_takeAnswers_isSome e.id
  have ht : t = State.mark
      { u with watch := { u.watch with records := u.watch.records ++ [WatchRec.fresh e.id] } } (.carrier e.id) :=
    if_pos ⟨he, by simp [hnone]⟩
  have hrec : ∀ j, t.watchRec j = if j = e.id then some ⟨e.id, .quiet, 0, 0, 0, none, none⟩ else u.watchRec j := fun j => by
    rw [ht, State.watchRec, State.mark_watch, List.find?_append]
    split
    · rename_i hj
      rw [hj, show u.watch.records.find? (fun r => r.id == e.id) = none from hnone']
      simp [WatchRec.fresh]
    · rename_i hj
      simp [WatchRec.fresh, Ne.symm hj, State.watchRec]
  refine ⟨hrec, ?_, ?_, ?_⟩
  · rw [ht, State.mark_watch]
    exact s.takeAnswers_watch_rest
  · rw [ht]
    exact State.mark_marksAdded
      { u with watch := { u.watch with records := u.watch.records ++ [WatchRec.fresh e.id] } } _
  · rw [ht]
    exact State.eq_of_fields (by simp)

theorem State.watchBegin_of_not {s : State} {e : AirEntry} (h : ¬ (e.isWatched = true ∧ s.watchRec e.id = none)) :
    s.watchBegin e = s := if_neg (by simpa using h)

end Sys2Proof.Machine
end

section
/-! AIR_JOIN: the tests of an item in their order, and its going on air (R29, R84). -/

namespace Sys2Proof.Machine

/-! ### A carrier goes on air (R29) -/

/-- The entry that goes on air, or that a joiner gets. -/
theorem newEntry_eq (id code : Nat) (i : CarrierInfo) (air : AirState) (owner : Option Nat) :
    newEntry id code i air owner = ⟨id, id / 256, code, powerOf i.powerClass, i.kind, i.locked, i.autoSwap, i.watched,
      i.tuneLow, i.tuneHigh, i.tuneStep, i.rack, air, .unconfirmed, owner⟩ := rfl

/-- The insertion of AIR_JOIN, with room and without an entry of the carrier (R29). -/
theorem State.joinOnAir_spec {s : State} {id : Nat} (code : Nat) (i : CarrierInfo) (hnone : s.airEntry id = none)
    (hroom : s.air.length < 200) :
    let t := s.joinOnAir id code i
    let watched := i.kind = .mic ∧ i.watched = true ∧ i.rack.isSome = true
    t.air = airInsert (newEntry id code i .onAir none) s.air ∧
    (watched → s.watchRec id = none →
      (∀ j, t.watchRec j = if j = id then some ⟨id, .quiet, 0, 0, 0, none, none⟩ else s.takeAnswers.watchRec j) ∧
      { t.watch with records := s.watch.records } = s.watch ∧ t.swapAnswers = [] ∧
      marksAdded s.takeAnswers t (fun r => r = .carrier id ∨ r = .stage (id / 256)) ∧ t.causes = s.takeAnswers.causes) ∧
    (¬ watched → t.watch = s.watch ∧ t.swapAnswers = s.swapAnswers ∧
      marksAdded s t (fun r => r = .carrier id ∨ r = .stage (id / 256)) ∧ t.causes = s.causes) ∧
    t = { s with
      air := t.air, watch := t.watch, swapAnswers := t.swapAnswers, status := t.status, causes := t.causes } := by
  intro t watched
  let e := newEntry id code i .onAir none
  let v : State := { s with air := airInsert e s.air }
  have ht : t = ((v.watchBegin e).mark (.carrier id)).mark (.stage (id / 256)) := by
    show s.joinOnAir id code i = _
    unfold State.joinOnAir
    dsimp only
    rw [State.putEntry_of_room (e := newEntry id code i .onAir none) hnone hroom]
  have hwatched : e.isWatched = true ↔ watched := by
    rw [AirEntry.isWatched_iff]
    exact ⟨fun h => h.2, fun h => ⟨rfl, h⟩⟩
  have hair : t.air = airInsert e s.air := by
    rw [ht]
    simp [v]
  by_cases hb : watched ∧ s.watchRec id = none
  · obtain ⟨hrec, hrest, hmarks, hframe⟩ := State.watchBegin_of_begins (s := v) (e := e) (hwatched.2 hb.1) hb.2
    obtain ⟨hwatch, hstatus, hcauses⟩ := State.takeAnswers_congr (s := s) (s' := v) rfl rfl rfl rfl
    have htwatch : t.watch = (v.watchBegin e).watch := by simp [ht]
    have hall : v.watchBegin e = { s with
        air := airInsert e s.air, watch := (v.watchBegin e).watch, swapAnswers := []
        status := (v.watchBegin e).status, causes := s.takeAnswers.causes } := by
      refine hframe.trans ?_
      rw [State.takeAnswers_frame v, hcauses]
    refine ⟨hair, fun _ _ => ⟨fun j => ?_, ?_, ?_, ?_, ?_⟩, fun h => absurd hb.1 h, ?_⟩
    · rw [State.watchRec_congr htwatch, hrec, State.watchRec_congr hwatch]
      rfl
    · rw [htwatch]
      exact hrest
    · rw [ht, State.mark_swapAnswers, State.mark_swapAnswers, hall]
    · rw [ht]
      refine marksAdded.congr (((hmarks.of_eq (s' := s.takeAnswers) hstatus.symm rfl).trans (State.mark_marksAdded _ _)).trans
        (State.mark_marksAdded _ _)) fun r => ?_
      show (r = .carrier id ∨ _) ∨ _ ↔ _
      tauto
    · rw [ht, State.mark_causes, State.mark_causes, hall]
    · rw [ht, hall]
      exact State.eq_of_fields (by simp)
  · have hnot : v.watchBegin e = v := State.watchBegin_of_not fun h => hb ⟨hwatched.1 h.1, h.2⟩
    rw [hnot] at ht
    have hframe : t = { s with air := airInsert e s.air, status := t.status } := by
      rw [ht]
      exact State.eq_of_fields (by simp [v])
    refine ⟨hair, fun h g => absurd ⟨h, g⟩ hb, fun _ => ⟨?_, ?_, ?_, ?_⟩, ?_⟩
    · rw [hframe]
    · rw [hframe]
    · rw [ht]
      exact (v.mark_marksAdded _).trans (State.mark_marksAdded _ _)
    all_goals rw [hframe]

/-- An item that passes its tests goes on air (R84). -/
theorem State.joinKept_joinedOnAir {s : State} (o : EngineOrder) {id : Nat} (i : CarrierInfo)
    (hnone : s.airEntry id = none) (hroom : s.air.length < 200) : joinedOnAir s (s.joinKept o id i) o id i := by
  obtain ⟨hair, hbegins, hnot, hframe⟩ := State.joinOnAir_spec i.assigned i hnone hroom
  let u := s.joinOnAir id i.assigned i
  let o' := { itemAnswered o id .kept i.assigned with joiner := none }
  have ht : s.joinKept o id i = { u with engine := { s.engine with
      order := some (if i.rack.isSome then o' else { o' with last := .item })
      pos := if i.rack.isSome then .tune [id] false else .boundary } } := by
    have hengine : u.engine = s.engine := (congrArg State.engine hframe).trans rfl
    unfold State.joinKept
    dsimp only
    rw [← hengine]
    split <;> rfl
  have hair' : ∀ j, (s.joinKept o id i).airEntry j =
      if j = id then some (newEntry id i.assigned i .onAir none) else s.airEntry j := fun j => by
    rw [ht, State.airEntry, show u.air = _ from hair]
    exact find?_airInsert (e := newEntry id i.assigned i .onAir none) hnone j
  refine ⟨?_, fun j hj => ?_, ?_, fun hw hrec => ?_, fun hw => ?_, ?_, ?_⟩
  · rw [hair', if_pos rfl]
    rfl
  · rw [hair', if_neg hj]
  · rw [ht]
    exact (congrArg List.length hair).trans (length_airInsert _ _)
  · obtain ⟨hrec', hrest, hanswers, hmarks, hcauses⟩ := hbegins hw hrec
    rw [ht]
    refine ⟨(hrec' id).trans (if_pos rfl), fun j hj => (hrec' j).trans (if_neg hj), ?_, ?_, hanswers, ?_, hcauses⟩
    · exact (congrArg Watch.params hrest :)
    · exact (congrArg Watch.heldTunes hrest :)
    · exact hmarks
  · rw [ht]
    exact hnot hw
  · rw [ht]
  · rw [ht]
    exact congrArg (fun t : State => { t with
      engine := s.engine, air := s.air, watch := s.watch, swapAnswers := s.swapAnswers, status := s.status
      causes := s.causes }) hframe

/-- Settles O24: the items of an AIR_JOIN. -/
theorem airJoinHandlesItem : Obligations.AirJoinHandlesItem := by
  intro o id s hkind ends
  have hlooked : ∀ a, s.lookedUp o id a = s.joinLooked o id a := fun a => by
    unfold State.lookedUp
    rw [hkind]
  refine ⟨fun hphase hj hid => ?_, hlooked _, hlooked _, hlooked _, fun i => ?_, fun j hphase hj hcode => ⟨fun hreading => ?_, fun r hreading => ?_⟩⟩
  · have hstep : s.beginStep o = s.joinItem o id := by
      unfold State.beginStep State.joinStep
      simp only [hphase, hkind, hj, hid, if_true]
    rw [hstep]
    have hfull : s.airFull = true ↔ 200 ≤ s.air.length := decide_eq_true_iff
    unfold State.joinItem
    refine ⟨fun h => if_pos h, fun h hlen => ?_, fun h hlen => ?_⟩
    · rw [if_neg (by simp [h]), if_pos (hfull.2 hlen)]
      rfl
    · rw [if_neg (by simp [h]), if_neg fun h => by have := hfull.1 h; omega]
      rfl
  · intro t inside
    have ht : t = s.joinLooked o id (.found i) := hlooked _
    unfold State.joinLooked at ht
    dsimp only at ht
    have hin : inRange i.tuneLow i.tuneHigh i.assigned = false ↔ ¬ inside := by
      rw [Bool.eq_false_iff, ne_eq, inRange_iff]
      refine not_congr ?_
      show _ ↔ _ ∧ _ ∧ _
      tauto
    have hcode : Config.noCode = 65535 := rfl
    rw [hcode] at ht
    refine ⟨fun h => ?_, fun h hout => ?_, fun hins h0 => ?_, fun hins h0 hnone hroom => ?_⟩
    · rw [ht, if_pos h]
      rfl
    · rw [ht, if_neg h, if_pos (hin.2 hout)]
      rfl
    all_goals
      have hne : i.assigned ≠ 65535 := fun h => by
        obtain ⟨_, _, hle⟩ := hins
        omega
      rw [if_neg hne, if_neg fun h => hin.1 h hins] at ht
    · rw [ht, if_pos h0]
      rfl
    · rw [ht, if_neg h0]
      exact State.joinKept_joinedOnAir o i hnone hroom
  all_goals
    have hstep : s.beginStep o = s.joinVerify o j := by
      unfold State.beginStep State.joinStep
      simp only [hphase, hkind, hj, if_true]
    rw [hstep]
    unfold State.joinVerify
  · rw [State.withBins_of_none hreading, guardBins_eq hcode]
  · intro u fails
    rw [State.withBins_of_some hreading]
    have hfails : State.firstFailing u ⟨j.id, j.candidate, j.id / 256, powerLevel j.info.powerClass⟩ (u.others j.id) none
        r.taken = fails := by
      rw [State.others_eq]
      rfl
    show (fails ≠ none → (if (State.firstFailing u _ _ _ _).isSome then _ else _) = _) ∧ (fails = none → _ → _ →
      joinedOnAir u (if (State.firstFailing u _ _ _ _).isSome then _ else _) o j.id j.info)
    rw [hfails]
    refine ⟨fun h => if_pos (Option.isSome_iff_ne_none.2 h), fun h hnone hroom => ?_⟩
    rw [if_neg (by simp [h])]
    exact State.joinKept_joinedOnAir o j.info hnone hroom

end Sys2Proof.Machine
end

section
/-! CHANGEOVER and RETUNE: the tests before a search, the walks, and one examination (R81, R88, R89, R92, R93). -/

namespace Sys2Proof.Machine

/-! ### Withdrawals (R33, R89) -/

/-- The entries that an order owns are removed, and their carriers' records marked (R33). -/
theorem State.withdrawOwned_spec (s : State) (slot : Nat) :
    (s.withdrawOwned slot).air = s.air.filter (fun e => decide (e.owner ≠ some slot)) ∧
    marksAdded s (s.withdrawOwned slot) (fun r => ∃ e ∈ s.air, e.owner = some slot ∧ r = .carrier e.id) ∧
    { s.withdrawOwned slot with air := s.air, status := s.status } = s := by
  let u : State := { s with air := s.air.filter fun e => decide (e.owner ≠ some slot) }
  have ht : s.withdrawOwned slot = u.markAll ((s.owned slot).map fun e => RecId.carrier e.id) := rfl
  refine ⟨?_, ?_, ?_⟩
  · rw [ht, State.markAll_eq]
  · rw [ht]
    refine marksAdded.congr (s := u) (u.markAll_marksAdded _) fun r => ?_
    simp only [State.owned, List.mem_map, List.mem_filter, decide_eq_true_eq]
    exact ⟨fun ⟨e, ⟨he, ho⟩, hr⟩ => ⟨e, he, ho, hr.symm⟩, fun ⟨e, he, ho, hr⟩ => ⟨e, ⟨he, ho⟩, hr.symm⟩⟩
  · rw [ht, State.markAll_eq]

/-- The outcomes of a CHANGEOVER that is withdrawn (R33). -/
theorem State.withdraw_snd (s : State) (o : EngineOrder) : (s.withdraw o).2 = { o with
    outcomes := o.outcomes.map fun r =>
      if r.outcome = .placed ∨ r.outcome = .kept then { r with outcome := .withdrawn } else r } := by
  have honAir : ∀ out : ItemOutcome, out.onAir = true ↔ out = .placed ∨ out = .kept := fun out => by
    cases out <;> simp [ItemOutcome.onAir]
  show { o with outcomes := _ } = _
  simp only [honAir]

/-- A joiner that is not placed (R89). -/
theorem joinerRefused_joinerRefused (s : State) (o : EngineOrder) (id : Nat) (out : ItemOutcome) (closing : Bool) :
    joinerRefused s (s.joinerRefused o id out closing) o id out closing := by
  refine ⟨fun h => ?_, fun h => ⟨(s.withdrawOwned o.slot), ?_, s.withdrawOwned_spec o.slot⟩⟩
  · unfold State.joinerRefused
    rw [if_neg h]
    rfl
  · unfold State.joinerRefused
    rw [if_pos h]
    dsimp only
    rw [State.withdraw_snd]
    rfl

/-! ### Walks (R81) -/

theorem CarrierInfo.rangeEmpty_iff (i : CarrierInfo) :
    i.rangeEmpty = true ↔ i.tuneHigh < i.tuneLow ∨ 8959 < i.tuneLow := by
  simp only [CarrierInfo.rangeEmpty, Bool.or_eq_true, decide_eq_true_eq]
  rfl

theorem Walk.move_of_limit {w : Walk} (h : w.limit ≤ w.examined) : w.move = .ends .searchLimit := if_pos h

theorem Walk.move_of_some {w w' : Walk} {x : Nat} (h : w.examined < w.limit) (hnext : w.next = (some x, w')) :
    w.move = .candidate x { w' with examined := w.examined + 1 } := by
  unfold Walk.move
  rw [if_neg (by omega), hnext]

theorem Walk.move_of_none {w : Walk} (h : w.examined < w.limit) (hnext : w.next.1 = none) :
    w.move = .ends .refusedConflict := by
  have hpair : w.next = (none, w.next.2) := Prod.ext hnext rfl
  unfold Walk.move
  rw [if_neg (by omega), hpair]

/-- The fresh walk of a carrier goes on to its first point, if it has one. -/
theorem walkBegins_of_move {s t : State} {o : EngineOrder} {id : Nat} {i : CarrierInfo} {w : Walk} {ends : Prop}
    (hlimit : 1 ≤ w.limit) (hfresh : w.examined = 0)
    (hsome : ∀ x w', w.move = .candidate x w' → t = takenInHand s o ⟨id, i, .walk, x, none, some w'⟩)
    (hnone : w.move = .ends .refusedConflict → ends) : walkBegins s t o id i w ends := by
  refine ⟨fun x w' hnext => ?_, fun hnext => hnone (Walk.move_of_none (by omega) hnext)⟩
  have hmove := Walk.move_of_some (by omega) hnext
  rw [hfresh] at hmove
  exact hsome x _ hmove

/-! ### One examination (R17) -/

/-- An examination reads the bins only of a code that test 1 lets pass. -/
theorem State.examineStep_spec (s : State) (o : EngineOrder) (j : Joiner) :
    let u := { s with engine := { s.engine with reading := none } }
    let judged := fun (s : State) (test : Option Nat) =>
      stepEnded s { o with joiner := some { j with failedTest := test } } .examined
    let power := ((s.airEntry j.id).map AirEntry.power).getD (powerOf j.info.powerClass)
    let first := test1 j.info.tuneLow j.info.tuneHigh j.info.tuneStep j.candidate
    (first = false → s.examineStep o j = judged s (some 1)) ∧
    (first = true → s.engine.reading = none → s.examineStep o j =
      { s with engine := { s.engine with reading := some ⟨binsAround s.params.gocc j.candidate, false⟩ } }) ∧
    ∀ r, first = true → s.engine.reading = some r → s.examineStep o j =
      judged u (s.firstFailing ⟨j.id, j.candidate, j.id / 256, power⟩ (othersThan s j.id) none r.taken) := by
  intro u judged power first
  have hpower : u.joinerPower j = power := by
    unfold State.joinerPower
    rw [show u.airEntry j.id = s.airEntry j.id from rfl]
    show _ = ((s.airEntry j.id).map AirEntry.power).getD (powerOf j.info.powerClass)
    cases s.airEntry j.id <;> rfl
  unfold State.examineStep
  dsimp only
  refine ⟨fun h => if_pos h, fun h hreading => ?_, fun r h hreading => ?_⟩
  · have hcode := ((test1_iff ..).1 h).1
    rw [if_neg (by simp [first] at h; simp [h]), State.withBins_of_none hreading, guardBins_eq hcode]
  · rw [if_neg (by simp [first] at h; simp [h]), State.withBins_of_some hreading, hpower, State.others_eq]
    rfl

/-- Settles O25: the tests before a search, and one examination. -/
theorem searchesBeginWithTheirTests : Obligations.SearchesBeginWithTheirTests := by
  intro o id s hlimit
  refine ⟨fun hkind => ?_, fun hkind hid => ?_, fun j hphase hj => ?_⟩
  · intro refused limit
    have hlooked : ∀ a, s.lookedUp o id a = s.placeLooked o id a := fun a => by
      unfold State.lookedUp
      rw [hkind]
    have hrefused : ∀ out, refused (s.joinerRefused o id out false) out := fun out => joinerRefused_joinerRefused ..
    refine ⟨fun hphase hj hlist => ?_, ?_, ?_, hlooked _, fun i => ?_⟩
    · have hstep : s.beginStep o = s.placeItem o id := by
        unfold State.beginStep State.placeStep
        simp only [hphase, hj, hlist]
      have hfull : s.airFull = true ↔ 200 ≤ s.air.length := decide_eq_true_iff
      rw [hstep]
      unfold State.placeItem
      refine ⟨fun h => ?_, fun h hlen => ?_, fun h hlen => ?_⟩
      · rw [if_pos h]
        exact hrefused _
      · rw [if_neg (by simp [h]), if_pos (hfull.2 hlen)]
        exact hrefused _
      · rw [if_neg (by simp [h]), if_neg fun h => by have := hfull.1 h; omega]
        rfl
    · rw [hlooked]
      exact hrefused _
    · rw [hlooked]
      exact hrefused _
    · intro t empty start
      have ht : t = s.placeFound o id i := hlooked _
      have hempty : i.rangeEmpty = true ↔ empty := i.rangeEmpty_iff
      have hcode : Config.noCode = 65535 := rfl
      unfold State.placeFound at ht
      rw [hcode] at ht
      dsimp only at ht
      refine ⟨fun h => ?_, fun h hne => ?_, fun h heq hlocked => ?_, fun h heq hlocked => ?_⟩
      · rw [ht, if_pos (hempty.2 h)]
        exact hrefused _
      · rw [ht, if_neg fun g => h (hempty.1 g), if_pos hne]
        rfl
      · rw [ht, if_neg fun g => h (hempty.1 g), if_neg (by simp [heq]), if_pos hlocked]
        exact hrefused _
      · rw [if_neg fun g => h (hempty.1 g), if_neg (by simp [heq]), if_neg (by simp [hlocked])] at ht
        have hwalk : s.joinerWalk i = startWalk start i.tuneLow i.tuneHigh i.tuneStep none limit := rfl
        rw [hwalk] at ht
        refine walkBegins_of_move hlimit rfl (fun x w' hmove => ?_) fun hmove => ?_
        · rw [hmove] at ht
          exact ht
        · rw [hmove] at ht
          rw [ht]
          exact hrefused _
  · intro fails
    have hlow : lowHalf o.body.p0 = id := hid.symm
    have hlooked : ∀ a, s.lookedUp o id a = s.retuneLooked o id a := fun a => by
      unfold State.lookedUp
      rw [hkind]
    have hbegin : s.beginOrder o = s.beginRetune o := by
      unfold State.beginOrder
      rw [hkind]
    have hfails : ∀ out r, s.retuneFails o out r 0 = fails out r := fun out r => by
      unfold State.retuneFails
      rw [hlow]
      rfl
    refine ⟨fun h => ?_, fun e h hlocked => ?_, fun e h hlocked => ?_, ?_, ?_, hlooked _, fun i e he => ?_⟩
    · rw [hbegin, State.beginRetune, hlow, h]
      exact hfails _ _
    · rw [hbegin, State.beginRetune, hlow, h]
      exact (if_pos hlocked).trans (hfails _ _)
    · rw [hbegin, State.beginRetune, hlow, h]
      exact if_neg (by simp [hlocked])
    · exact (hlooked _).trans (hfails _ _)
    · exact (hlooked _).trans (hfails _ _)
    · intro t target empty
      have hempty : i.rangeEmpty = true ↔ empty := i.rangeEmpty_iff
      have hcode : Config.noCode = 65535 := rfl
      have ht : t = s.retuneLooked o id (.found i) := hlooked _
      unfold State.retuneLooked at ht
      dsimp only at ht
      rw [hcode, show lowHalf o.body.p1 = target from rfl] at ht
      refine ⟨fun h => ?_, fun h hne => ?_, fun h heq => ?_⟩
      · rw [ht, if_pos (hempty.2 h), hfails]
      · rw [ht, if_neg fun g => h (hempty.1 g), if_pos hne]
        rfl
      · have hwalk : s.retuneWalk (((s.onAirEntry id).map AirEntry.code).getD 0) i =
            startWalk (e.code + i.tuneStep) i.tuneLow i.tuneHigh i.tuneStep (some e.code) s.params.searchLimit := by
          rw [he]
          rfl
        rw [if_neg fun g => h (hempty.1 g), if_neg (not_not.2 heq), hwalk] at ht
        refine walkBegins_of_move hlimit rfl (fun x w' hmove => ?_) fun hmove => ?_
        · rw [hmove] at ht
          exact ht
        · rw [hmove] at ht
          exact ht.trans (hfails _ _)
  · have hstep : s.beginStep o = s.examineStep o j := by
      unfold State.beginStep State.placeStep
      obtain h | h := hphase <;> simp only [h, hj]
    rw [hstep]
    exact s.examineStep_spec o j

end Sys2Proof.Machine
end

section
/-! What the answers of the engine bring about at the Watch Unit rests on its records alone: taken before other marks or
after them, it is the same (log 7). -/

namespace Sys2Proof.Machine

theorem State.watchTo_watch_congr {s t : State} (hw : t.watch = s.watch) (id : Nat) (new : WatchState) (n : Nat) :
    (t.watchTo id new n).watch = (s.watchTo id new n).watch := by
  unfold State.watchTo
  rw [State.watchRec_congr hw]
  split
  · exact hw
  · dsimp only
    split <;> simp [State.watchMarks, apply_ite State.watch, hw]

theorem State.watchTo_causes_congr {s t : State} (hw : t.watch = s.watch) (hc : t.causes = s.causes) (id : Nat)
    (new : WatchState) (n : Nat) : (t.watchTo id new n).causes = (s.watchTo id new n).causes := by
  unfold State.watchTo
  rw [State.watchRec_congr hw]
  split
  · exact hc
  · dsimp only
    split
    · exact hc
    · unfold State.watchMarks
      dsimp only
      split <;> split <;> simp [hc]

theorem State.takeAnswer_watch_congr {s t : State} (hw : t.watch = s.watch) (a : SwapAnswer) :
    (t.takeAnswer a).watch = (s.takeAnswer a).watch := by
  have hcount : ∀ f, ((t.onRec a.id f).mark (.carrier a.id)).watch = ((s.onRec a.id f).mark (.carrier a.id)).watch :=
    fun f => by simp [hw]
  unfold State.takeAnswer
  rw [State.watchRec_congr hw]
  split
  · exact hw
  · split
    · dsimp only
      split
      · exact State.watchTo_watch_congr (hcount _) ..
      · exact hcount _
    · split
      · exact State.watchTo_watch_congr hw ..
      · exact hw

theorem State.takeAnswer_causes_congr {s t : State} (hw : t.watch = s.watch) (hc : t.causes = s.causes)
    (a : SwapAnswer) : (t.takeAnswer a).causes = (s.takeAnswer a).causes := by
  unfold State.takeAnswer
  rw [State.watchRec_congr hw]
  split
  · exact hc
  · split
    · dsimp only
      split
      · exact State.watchTo_causes_congr (by simp [hw]) (by simp [hc]) ..
      · simp [hc]
    · split
      · exact State.watchTo_causes_congr hw hc ..
      · exact hc

/-- Two runs of the answers, from two states with the same watch records: the same changes, marks and alert. -/
theorem State.foldl_takeAnswer_both (l : List SwapAnswer) {s t : State} (hw : t.watch = s.watch) :
    (∃ g named alerts, WatchMoves s (l.foldl State.takeAnswer s) g named alerts ∧
      WatchMoves t (l.foldl State.takeAnswer t) g named alerts) ∧
    (l.foldl State.takeAnswer t).watch = (l.foldl State.takeAnswer s).watch ∧
    (t.causes = s.causes → (l.foldl State.takeAnswer t).causes = (l.foldl State.takeAnswer s).causes) := by
  induction l generalizing s t with
  | nil => exact ⟨⟨_, _, _, .refl s, .refl t⟩, hw, id⟩
  | cons a l ih =>
    obtain ⟨⟨g, named, alerts, hs, ht⟩, hwatch, hcauses⟩ := ih (State.takeAnswer_watch_congr hw a)
    have hfirst := t.takeAnswer_moves a
    rw [State.watchRec_congr hw] at hfirst
    exact ⟨⟨_, _, _, (s.takeAnswer_moves a).trans hs, hfirst.trans ht⟩, hwatch,
      fun hc => hcauses (State.takeAnswer_causes_congr hw hc a)⟩

/-- The answers taken from two states with the same watch records and the same answers. -/
theorem State.takeAnswers_both {s t : State} (hw : t.watch = s.watch) (ha : t.swapAnswers = s.swapAnswers) :
    (∃ g named alerts, WatchMoves { s with swapAnswers := [] } s.takeAnswers g named alerts ∧
      WatchMoves { t with swapAnswers := [] } t.takeAnswers g named alerts) ∧
    t.takeAnswers.watch = s.takeAnswers.watch ∧ (t.causes = s.causes → t.takeAnswers.causes = s.takeAnswers.causes) := by
  unfold State.takeAnswers
  rw [ha]
  exact State.foldl_takeAnswer_both s.swapAnswers (s := { s with swapAnswers := [] }) (t := { t with swapAnswers := [] }) hw

/-- Marks made before the answers are taken stand beside those that the answers make. -/
theorem State.takeAnswers_marksAdded {s t : State} {named : RecId → Prop} (hw : t.watch = s.watch)
    (ha : t.swapAnswers = s.swapAnswers) (h : marksAdded s t named) : marksAdded s.takeAnswers t.takeAnswers named := by
  obtain ⟨⟨g, p, a, hs, ht⟩, -, -⟩ := State.takeAnswers_both hw ha
  obtain ⟨hmarks, hrest⟩ := marksAdded_iff.1 h
  obtain ⟨hsmarks, hsrest⟩ := marksAdded_iff.1 hs.marks
  obtain ⟨htmarks, htrest⟩ := marksAdded_iff.1 ht.marks
  refine marksAdded_iff.2 ⟨fun r => ?_, ?_⟩
  · rw [htmarks, hsmarks]
    show r ∈ t.status.marks ∨ _ ↔ (r ∈ s.status.marks ∨ _) ∨ _
    rw [hmarks]
    tauto
  · calc { t.takeAnswers.status with marks := s.takeAnswers.status.marks }
        = { ({ t.takeAnswers.status with marks := t.status.marks } : StatusWriter) with
            marks := s.takeAnswers.status.marks } := rfl
      _ = { t.status with marks := s.takeAnswers.status.marks } := by rw [htrest]
      _ = { ({ t.status with marks := s.status.marks } : StatusWriter) with marks := s.takeAnswers.status.marks } := rfl
      _ = { s.status with marks := s.takeAnswers.status.marks } := by rw [hrest]
      _ = { ({ s.takeAnswers.status with marks := s.status.marks } : StatusWriter) with
            marks := s.takeAnswers.status.marks } := by rw [hsrest]
      _ = s.takeAnswers.status := rfl

end Sys2Proof.Machine
end

section
/-! The boundary after an examination: a code taken, passed over, or examined afresh (R81, R82, R88, R92, R93), and the
notice of a RETUNE at the Watch Unit (R155). -/

namespace Sys2Proof.Machine

/-! ### The retune notice (R153, R155) -/

theorem State.settle_eq (s : State) (id : Nat) : s.settle id =
    s.watchTo id (outcomeState .applied s.watch.params.settle) s.watch.params.settle := by
  unfold State.settle outcomeState
  by_cases h : s.watch.params.settle = 0 <;> simp [h]

theorem outcomeState_applied_isAlert (n : Nat) : (outcomeState .applied n).isAlert = false := by
  unfold outcomeState
  by_cases h : n = 0 <;> simp [h, WatchState.isAlert]

/-- Entry into SETTLING, or into QUIET for settle_reports 0 (R153). -/
def settledRec (n : Nat) (w : WatchRec) : WatchRec :=
  if n = 0 then { w with state := .quiet, run := 0, settle := 0 } else { w with state := .settling, run := 0, settle := n }

theorem State.settle_moves (s : State) (id : Nat) : WatchMoves s (s.settle id)
    (fun j w => if j = id then settledRec s.watch.params.settle w else w)
    (fun r => ∃ w, s.watchRec id = some w ∧ w.state ≠ outcomeState .applied s.watch.params.settle ∧
      (r = .carrier id ∨ r = .stage (id / 256) ∧ w.state.isAlert = true)) False := by
  rw [State.settle_eq]
  refine (s.watchTo_moves id _ _).congr (fun j w _ => ?_) (fun r => ?_) ?_
  · unfold settledRec outcomeState
    by_cases h : s.watch.params.settle = 0 <;> simp [h]
  · simp [outcomeState_applied_isAlert]
  · simp [outcomeState_applied_isAlert]

/-- A retune notice (R155), after the answers already given (log 7). -/
theorem State.retuneNotice_spec (s : State) (id : Nat) : let u := s.takeAnswers
    let t := s.retuneNotice id
    (∀ w, u.watchRec id = some w →
      t.watchRec id = some (if w.state = .blind then w else settledRec s.watch.params.settle w) ∧
      t.watch.heldTunes = s.watch.heldTunes.filter (fun h => h.tune.id != id) ∧
      t.engine.requests =
        if w.state = .swapWait then s.engine.requests.filter fun x => x != id else s.engine.requests) ∧
    (u.watchRec id = none → t.watch.heldTunes = s.watch.heldTunes ∧ t.engine.requests = s.engine.requests) ∧
    (∀ x, x ≠ id → t.watchRec x = u.watchRec x) ∧
    (∃ named : RecId → Prop, marksAdded u t named ∧ ∀ r, (named r → r = .carrier id ∨ r = .stage (id / 256) ∧
      ∃ w, u.watchRec id = some w ∧ w.state.isAlert = true) ∧
      ∀ w, u.watchRec id = some w → w.state.isAlert = true → r = .stage (id / 256) → named r) ∧
    t.watch.params = s.watch.params ∧ t = { s with
      engine := { s.engine with requests := t.engine.requests }
      watch := t.watch, swapAnswers := [], status := t.status, causes := u.causes } := by
  intro u t
  have hframe := s.takeAnswers_frame
  have hheld : u.watch.heldTunes = s.watch.heldTunes := by simp [u]
  have hparams : u.watch.params = s.watch.params := by simp [u]
  have hrequests : u.engine.requests = s.engine.requests := by simp [u]
  obtain hnone | ⟨w, hw⟩ := Option.eq_none_or_eq_some (u.watchRec id)
  · have ht : t = u := by
      show s.retuneNotice id = u
      unfold State.retuneNotice
      dsimp only
      rw [hnone]
    rw [ht]
    refine ⟨fun w hw => absurd (hnone.symm.trans hw) (by simp), fun _ => ⟨hheld, hrequests⟩, fun _ _ => rfl,
      ⟨_, .of_status_eq rfl, fun r => ⟨False.elim, fun w hw => absurd (hnone.symm.trans hw) (by simp)⟩⟩, hparams, ?_⟩
    rw [hrequests]
    exact hframe
  · let v : State := { u with
      watch := { u.watch with heldTunes := u.watch.heldTunes.filter fun h => h.tune.id != id } }
    let v' : State := if w.state = .swapWait then v.unlist id else v
    have ht : t = if w.state = .blind then v else v'.settle id := by
      show s.retuneNotice id = _
      unfold State.retuneNotice
      dsimp only
      rw [hw]
    have hv : v = { s with watch := v.watch, swapAnswers := [], status := u.status, causes := u.causes } :=
      congrArg (fun x : State => { x with watch := v.watch }) hframe
    have hheldv : v.watch.heldTunes = s.watch.heldTunes.filter fun h => h.tune.id != id :=
      congrArg (List.filter _) hheld
    by_cases hblind : w.state = .blind
    · rw [if_pos hblind] at ht
      rw [ht]
      refine ⟨fun x hx => ?_, fun hnone => absurd (hnone.symm.trans hw) (by simp), fun _ _ => rfl,
        ⟨_, .of_status_eq rfl, fun r => ⟨False.elim, fun x hx halert => ?_⟩⟩, hparams, ?_⟩
      · obtain rfl : w = x := Option.some.inj (hw.symm.trans hx)
        refine ⟨?_, hheldv, ?_⟩
        · rw [if_pos hblind]
          exact hw
        · rw [if_neg (by simp [hblind])]
          exact hrequests
      · obtain rfl : w = x := Option.some.inj (hw.symm.trans hx)
        simp [hblind, WatchState.isAlert] at halert
      · rw [show v.engine.requests = s.engine.requests from hrequests]
        exact hv
    · rw [if_neg hblind] at ht
      have hv' : v' = { v with engine := { v.engine with requests := v'.engine.requests } } := by
        have hif : ∀ c : Prop, [Decidable c] → (if c then v.unlist id else v) = { v with
            engine := { v.engine with requests := (if c then v.unlist id else v).engine.requests } } := fun c _ => by
          split <;> rfl
        exact hif _
      have hrequests' : v'.engine.requests =
          if w.state = .swapWait then s.engine.requests.filter fun x => x != id else s.engine.requests := by
        show (if _ then _ else _ : State).engine.requests = _
        rw [apply_ite State.engine, apply_ite Engine.requests]
        simp [v, hrequests]
      have hwatch' : v'.watch = v.watch := (congrArg State.watch hv' :)
      have hrec' : ∀ j, v'.watchRec j = u.watchRec j := fun j => State.watchRec_congr (s := v) hwatch' j
      have hsettle : v'.watch.params.settle = s.watch.params.settle := by
        rw [hwatch']
        exact congrArg WatchParams.settle hparams
      have hmoves := v'.settle_moves id
      simp only [hsettle, hrec'] at hmoves
      have hengine : (v'.settle id).engine = v'.engine := (congrArg State.engine hmoves.frame :)
      have hstatus' : v'.status = u.status := (congrArg State.status hv' :)
      have hheld' : (v'.settle id).watch.heldTunes = v.watch.heldTunes :=
        (congrArg Watch.heldTunes hmoves.rest).trans (congrArg Watch.heldTunes hwatch')
      have hparams' : (v'.settle id).watch.params = v.watch.params :=
        (congrArg Watch.params hmoves.rest).trans (congrArg Watch.params hwatch')
      have hcauses' : (v'.settle id).causes = u.causes :=
        hmoves.causes_of_quiet.trans (congrArg State.causes hv' :)
      rw [ht]
      refine ⟨fun x hx => ?_, fun hnone => absurd (hnone.symm.trans hw) (by simp), fun x hx => ?_,
        ⟨_, hmoves.marks.of_eq hstatus'.symm rfl, fun r => ⟨fun ⟨x, hx, _, hr⟩ => ?_, fun x hx halert hr => ?_⟩⟩, ?_, ?_⟩
      · obtain rfl : w = x := Option.some.inj (hw.symm.trans hx)
        refine ⟨?_, hheld'.trans hheldv, ?_⟩
        · rw [if_neg hblind, hmoves.records, hrec', hw]
          exact congrArg some (if_pos rfl)
        · rw [hengine, hrequests']
      · rw [hmoves.records, hrec']
        simp [hx]
      · exact hr.imp_right fun ⟨hr, halert⟩ => ⟨hr, x, hx, halert⟩
      · refine ⟨x, hx, fun heq => ?_, .inr ⟨hr, halert⟩⟩
        rw [heq, outcomeState_applied_isAlert] at halert
        cases halert
      · exact hparams'.trans hparams
      · have hall : v' = { s with
            engine := { s.engine with requests := v'.engine.requests }
            watch := v.watch, swapAnswers := [], status := u.status, causes := u.causes } := by
          refine hv'.trans ?_
          rw [hv]
        refine hmoves.frame.trans ?_
        rw [hcauses', hengine]
        exact congrArg (fun x : State => { x with
          watch := (v'.settle id).watch, status := (v'.settle id).status, causes := u.causes }) hall

/-! ### The verdict (R81, R82) -/

/-- What comes of a walk that goes on, or of its end. -/
def walkMove : WalkMove → NextMove
  | .candidate x w => .candidate x w
  | .ends out => .refuse out

theorem State.nextMove_of_examined {s : State} {o : EngineOrder} {j : Joiner} (hlast : o.last = .examined)
    (hj : o.joiner = some j) : (s.nextMove o).1 = s.verdict j := by
  unfold State.nextMove
  rw [hlast, hj]

theorem State.verdict_of_airChanged {s : State} (h : s.engine.airChanged = true) (j : Joiner) : s.verdict j = .again :=
  if_pos h

theorem State.verdict_of_passed {s : State} {j : Joiner} (h : s.engine.airChanged = false) (hj : j.failedTest = none) :
    s.verdict j = .accept := by
  unfold State.verdict
  dsimp only
  rw [if_neg (by simp [h]), hj]

theorem State.verdict_of_bound {s : State} {j : Joiner} {test : Nat} (h : s.engine.airChanged = false)
    (hj : j.failedTest = some test) (hp : j.placing = .locked ∨ j.placing = .target) :
    s.verdict j = .refuse (if test = 1 then .outOfRange else .refusedConflict) := by
  unfold State.verdict
  dsimp only
  rw [if_neg (by simp [h]), hj]
  obtain hp | hp := hp <;> rw [hp]

theorem State.verdict_of_assigned {s : State} {j : Joiner} {test : Nat} (h : s.engine.airChanged = false)
    (hj : j.failedTest = some test) (hp : j.placing = .assigned) : s.verdict j = walkMove (s.joinerWalk j.info).move := by
  unfold State.verdict
  dsimp only
  rw [if_neg (by simp [h]), hj, hp]
  rfl

theorem State.verdict_of_walk {s : State} {j : Joiner} {test : Nat} (h : s.engine.airChanged = false)
    (hj : j.failedTest = some test) (hp : j.placing = .walk) :
    s.verdict j = walkMove (j.walk.getD (s.joinerWalk j.info)).move := by
  unfold State.verdict
  dsimp only
  rw [if_neg (by simp [h]), hj, hp]
  rfl

/-! ### A code taken (R30, R35, R93) -/

/-- A joiner's entry goes into the Air Set PENDING (R30). -/
theorem State.joinPending_spec {s : State} {id : Nat} (code : Nat) (i : CarrierInfo) (slot : Nat)
    (hnone : s.airEntry id = none) (hroom : s.air.length < 200) : let t := s.joinPending id code i slot
    (∀ x, t.airEntry x = if x = id then some (newEntry id code i .pending (some slot)) else s.airEntry x) ∧
    marksAdded s t (fun r => r = .carrier id) ∧ t = { s with air := t.air, status := t.status } := by
  intro t
  let u : State := { s with air := airInsert (newEntry id code i .pending (some slot)) s.air }
  have ht : t = u.mark (.carrier id) :=
    congrArg (State.mark · _) (State.putEntry_of_room (e := newEntry id code i .pending (some slot)) hnone hroom)
  refine ⟨fun x => ?_, ?_, ?_⟩
  · rw [ht, State.airEntry, State.mark_air]
    exact find?_airInsert (e := newEntry id code i .pending (some slot)) hnone x
  · rw [ht]
    exact u.mark_marksAdded _
  · rw [ht]
    exact State.eq_of_fields (by simp [u])

/-- Settles O26: the boundary after an examination. -/
theorem examinedCodeIsTakenOrPassedOver : Obligations.ExaminedCodeIsTakenOrPassedOver := by
  intro o j s hkind hj hlast hfault hhalt hstop t closing refused walks
  have ht : t = s.goOn o (s.verdict j) :=
    (s.decideBoundary_of_goesOn hfault fun _ => ⟨hhalt, hstop⟩).trans
      (congrArg (s.goOn o) (State.nextMove_of_examined hlast hj))
  have hrefused : ∀ out, s.verdict j = .refuse out → refused out := fun out hv => by
    rw [hv, State.goOn, hj] at ht
    dsimp only at ht
    refine ⟨fun hk => ?_, fun hk => ?_⟩
    · rw [if_neg (by simp [hk])] at ht
      rw [ht]
      exact joinerRefused_joinerRefused ..
    · rw [if_pos hk] at ht
      rw [ht]
      have hexamined : o.examined = (j.walk.map Walk.examined).getD 1 := by
        rw [EngineOrder.examined, hj]
      have hresult : searchResult out = if out = .searchLimit then .searchLimit else .refusedConflict := by
        cases out <;> rfl
      rw [hexamined, hresult]
      rfl
  have hwalks : ∀ w, s.verdict j = walkMove w.move → walks w := fun w hv => by
    refine ⟨fun h => ?_, fun h x w' hnext => ?_, fun h hnext => ?_⟩
    · exact hrefused .searchLimit (by rw [hv, Walk.move_of_limit h]; rfl)
    · rw [ht, hv, Walk.move_of_some h hnext]
      show State.goOn s o (.candidate _ _) = _
      unfold State.goOn
      rw [hj]
      rfl
    · exact hrefused .refusedConflict (by rw [hv, Walk.move_of_none h hnext]; rfl)
  refine ⟨fun h => ?_, fun h test htest => ⟨fun hp => ?_, fun hp => ?_, fun w hp hw => ?_⟩, fun h htest hk hnone hroom => ?_,
    fun e h htest hk hair he => ?_⟩
  · rw [ht, State.verdict_of_airChanged h]
    rfl
  · exact hrefused _ (State.verdict_of_bound h htest hp)
  · have hwalk : s.joinerWalk j.info = startWalk
        (if j.info.preferred ≠ 65535 ∧ test1 j.info.tuneLow j.info.tuneHigh j.info.tuneStep j.info.preferred = true then
          j.info.preferred else j.info.tuneLow)
        j.info.tuneLow j.info.tuneHigh j.info.tuneStep none s.params.searchLimit := by
      unfold State.joinerWalk walkStart
      rw [Nat.cast_ite]
      rfl
    exact hwalks _ (by rw [State.verdict_of_assigned h htest hp, hwalk])
  · exact hwalks w (by rw [State.verdict_of_walk h htest hp, hw]; rfl)
  · obtain ⟨hentry, hmarks, hframe⟩ := State.joinPending_spec j.candidate j.info o.slot hnone hroom
    have ht' : t = { s.joinPending j.id j.candidate j.info o.slot with engine := { s.engine with
        order := some { itemAnswered o j.id
            (if j.placing = .locked ∨ j.placing = .assigned then .kept else .placed) j.candidate with
          joiner := none, phase := if closing then .commit else .place }
        pos := .step } } := by
      have hengine : (s.joinPending j.id j.candidate j.info o.slot).engine = s.engine :=
        (congrArg State.engine hframe :)
      rw [ht, State.verdict_of_passed h htest, State.goOn, hj, ← hengine]
      dsimp only
      rw [if_neg (by simp [hk])]
      have hkept : (decide (j.placing = .locked) || decide (j.placing = .assigned)) = true ↔
          j.placing = .locked ∨ j.placing = .assigned := by simp
      simp only [hkept]
      rfl
    rw [ht']
    refine ⟨(hentry j.id).trans (if_pos rfl), fun x hx => (hentry x).trans (if_neg hx), hmarks, rfl, ?_⟩
    exact (congrArg (fun x : State => { x with engine := s.engine, air := s.air, status := s.status }) hframe :)
  · obtain ⟨hlen, -, -, -⟩ := hair
    let refresh : AirEntry → AirEntry := fun e =>
      { e with tuneLow := j.info.tuneLow, tuneHigh := j.info.tuneHigh, tuneStep := j.info.tuneStep }
    obtain ⟨hmoved, hothers, hmarks, hframe⟩ := State.setCode_spec j.candidate (f := refresh) he hlen rfl
    let m := s.setCode j.id j.candidate refresh
    obtain ⟨hrec, hnorec, hrest, ⟨named, hnotice, hnamed⟩, hparams, hnframe⟩ := m.retuneNotice_spec j.id
    have ht' : t = { m.retuneNotice j.id with engine := { (m.retuneNotice j.id).engine with
        order := some { itemAnswered o j.id .placed j.candidate with phase := .commit }
        pos := .commitWrite [j.id] } } := by
      rw [ht, State.verdict_of_passed h htest, State.goOn, hj]
      dsimp only
      rw [if_pos hk]
      rfl
    have hmwatch : m.watch = s.watch := (congrArg State.watch hframe :)
    have hmanswers : m.swapAnswers = s.swapAnswers := (congrArg State.swapAnswers hframe :)
    have hmcauses : m.causes = s.causes := (congrArg State.causes hframe :)
    have hmengine : m.engine = s.engine := (congrArg State.engine hframe :)
    obtain ⟨-, hwatch, hcauses⟩ := State.takeAnswers_both hmwatch hmanswers
    have hrecs : ∀ x, m.takeAnswers.watchRec x = s.takeAnswers.watchRec x := State.watchRec_congr hwatch
    have hadded := State.takeAnswers_marksAdded hmwatch hmanswers hmarks
    rw [ht']
    refine ⟨?_, fun x hx => ?_, fun w hw => ?_, fun hnone => ?_, fun x hx => ?_, ?_, ?_, ?_, ?_, ?_, ?_⟩
    · exact (State.airEntry_of_air (congrArg State.air hnframe :) j.id).trans hmoved
    · exact (State.airEntry_of_air (congrArg State.air hnframe :) x).trans (hothers x hx)
    · obtain ⟨hw', hheld, hrequests⟩ := hrec w ((hrecs _).trans hw)
      rw [hmwatch] at hw' hheld
      rw [hmengine] at hrequests
      exact ⟨hw', hheld, hrequests⟩
    · obtain ⟨hheld, hrequests⟩ := hnorec ((hrecs _).trans hnone)
      rw [hmwatch] at hheld
      rw [hmengine] at hrequests
      exact ⟨hheld, hrequests⟩
    · exact (hrest x hx).trans (hrecs x)
    · exact (congrArg State.swapAnswers hnframe :)
    · refine marksAdded.congr (hadded.trans hnotice) fun r => ?_
      have halert : ∀ w : WatchRec, w.state.isAlert = true ↔ w.state = .alerted ∨ w.state = .held :=
        fun w => w.state.isAlert_iff
      obtain ⟨honly, hall⟩ := hnamed r
      simp only [hrecs, halert] at honly hall
      constructor
      · rintro (hr | hr)
        · exact .inl hr
        · exact honly hr
      · rintro (hr | ⟨hr, w, hw, hst⟩)
        · exact .inl hr
        · exact .inr (hall w hw hst hr)
    · exact ((congrArg State.causes hnframe :)).trans (hcauses hmcauses)
    · exact hparams.trans (congrArg Watch.params hmwatch)
    · rw [← hmengine]
      exact (congrArg (fun x : State => { x.engine with
        requests := m.engine.requests, order := some { itemAnswered o j.id .placed j.candidate with phase := .commit }
        pos := .commitWrite [j.id] }) hnframe :)
    · refine (congrArg (fun x : State => { x with
        engine := s.engine, air := s.air, watch := s.watch, swapAnswers := s.swapAnswers, status := s.status
        causes := s.causes }) hnframe : _).trans ?_
      exact (congrArg (fun x : State => { x with
        engine := s.engine, air := s.air, watch := s.watch, swapAnswers := s.swapAnswers, status := s.status
        causes := s.causes }) hframe :)

end Sys2Proof.Machine
end

section
/-! COMMIT, the offers after it, the stop word at a boundary, and the ends of the engine's orders (R68, R69, R72, R83,
R85, R86, R90, R93). -/

namespace Sys2Proof.Machine

/-! ### Item outcome records (R72, R194) -/

theorem State.outcomeBytes_eq (s : State) (r : ItemRecord) : s.outcomeBytes r = outcomeRecord s r := by
  unfold State.outcomeBytes outcomeRecord
  rw [halfBytes_eq]
  dsimp only
  obtain ⟨id, out, code⟩ := r
  cases out <;> rfl

theorem length_outcomeRecord (s : State) (r : ItemRecord) : (outcomeRecord s r).length = 4 := rfl

theorem length_outcomeRecords (s : State) (l : List ItemRecord) : (l.flatMap (outcomeRecord s)).length = 4 * l.length := by
  induction l with
  | nil => rfl
  | cons r l ih =>
    rw [List.flatMap_cons, List.length_append, ih, length_outcomeRecord, List.length_cons]
    omega

theorem EngineOrder.items_eq (o : EngineOrder) : o.items =
    if o.kind = .airJoin ∨ o.kind = .airLeave then o.listA
    else if o.kind = .changeover then o.listA ++ o.listB
    else if o.kind = .retune then [o.body.p0 % 65536] else [] := by
  unfold EngineOrder.items
  cases o.kind <;> rfl

/-- The end of an order, with the outcome list that is written first (R72). -/
theorem State.finish_spec (o : EngineOrder) (failed : Bool) (r : ResultCode) (c1 c2 : Nat) (s : State) :
    let bytes := o.allOutcomes.flatMap (outcomeRecord s)
    (o.allOutcomes = [] → s.finish o failed r c1 c2 = handedOver s ⟨o.slot, failed, r, c1, c2⟩) ∧
    (o.allOutcomes ≠ [] → s.allowed true o.body.result bytes.length = true →
      s.finish o failed r c1 c2 = { s with
        engine := { s.engine with order := some o, pos := .outcomeWait failed r c1 c2 }
        port := { s.port with transfers := s.port.transfers ++
          [⟨.engine, true, o.body.result, bytes.length, bytes⟩] } }) := by
  intro bytes
  refine ⟨fun h => State.finish_of_no_outcomes h .., fun h hallowed => ?_⟩
  have hbytes : o.allOutcomes.flatMap s.outcomeBytes = bytes := by
    rw [show s.outcomeBytes = outcomeRecord s from funext s.outcomeBytes_eq]
  have hfinish : s.finish o failed r c1 c2 =
      ((s.setOrder o).presentWrite .engine o.body.result bytes).setPos (.outcomeWait failed r c1 c2) := by
    rw [← hbytes]
    unfold State.finish
    split
    · contradiction
    · rfl
  rw [hfinish, State.presentWrite_of_allowed (s := s.setOrder o) .engine rfl ((State.allowed_congr rfl ..).trans hallowed)]
  rfl

/-! ### The commit of a CHANGEOVER (R32, R90) -/

/-- A carrier that goes on air qualifies for a watch, and has none (R142). -/
def State.startsWatch (s : State) (e : AirEntry) : Bool :=
  decide (e.kind = .mic ∧ e.watched = true ∧ e.rack.isSome = true ∧ s.watchRec e.id = none)

theorem State.startsWatch_iff (s : State) (e : AirEntry) : s.startsWatch e = true ↔
    AirEntry.isWatched { e with air := .onAir, owner := none } = true ∧ s.watchRec e.id = none := by
  rw [AirEntry.isWatched_iff]
  simp [State.startsWatch, and_assoc]

/-- The Watch Unit as the watches of some carriers begin: the answers already given are taken first. -/
def State.beforeWatches (s : State) (l : List AirEntry) : State := if l.any s.startsWatch then s.takeAnswers else s

/-- What the commit of some entries brings about at the Watch Unit, and the records marked. -/
structure Committed (s t : State) (l : List AirEntry) : Prop where
  records : ∀ id, t.watchRec id = if (l.filter s.startsWatch).any (fun e => decide (e.id = id)) then
    some ⟨id, .quiet, 0, 0, 0, none, none⟩ else (s.beforeWatches l).watchRec id
  rest : { t.watch with records := s.watch.records } = s.watch
  answers : t.swapAnswers = (s.beforeWatches l).swapAnswers
  causes : t.causes = (s.beforeWatches l).causes
  marks : marksAdded (s.beforeWatches l) t fun r => ∃ e ∈ l, r = .carrier e.id ∨ r = .stage e.stage
  frame : t = { s with
    watch := t.watch, swapAnswers := t.swapAnswers, status := t.status, causes := t.causes }

/-- The commit of one entry whose watch begins. -/
theorem State.committed_of_starts {s : State} {e : AirEntry} (h : s.startsWatch e = true) :
    Committed s (s.committed e) [e] ∧ (s.committed e).swapAnswers = [] := by
  obtain ⟨hw, hnone⟩ := (s.startsWatch_iff e).1 h
  obtain ⟨hrec, hrest, hmarks, hframe⟩ :=
    State.watchBegin_of_begins (e := { e with air := .onAir, owner := none }) hw hnone
  have hbefore : s.beforeWatches [e] = s.takeAnswers := if_pos (by simp [h])
  have hframe' := s.takeAnswers_frame
  let b := s.watchBegin { e with air := .onAir, owner := none }
  have ht : s.committed e = (b.mark (.carrier e.id)).mark (.stage e.stage) := rfl
  have hall : b = { s with
      watch := b.watch, swapAnswers := [], status := b.status, causes := s.takeAnswers.causes } := by
    refine hframe.trans ?_
    rw [hframe']
  have hanswers : (s.committed e).swapAnswers = [] := by
    rw [ht, State.mark_swapAnswers, State.mark_swapAnswers, hall]
  have hcauses : (s.committed e).causes = s.takeAnswers.causes := by
    rw [ht, State.mark_causes, State.mark_causes, hall]
  have hwatch : (s.committed e).watch = b.watch := by simp [ht]
  refine ⟨⟨fun id => ?_, ?_, ?_, ?_, ?_, ?_⟩, hanswers⟩
  · rw [State.watchRec_congr hwatch, hrec, hbefore]
    by_cases hid : id = e.id
    · simp [h, hid]
    · simp [h, hid, Ne.symm hid]
  · rw [hwatch]
    exact hrest
  · rw [hanswers, hbefore, State.takeAnswers_swapAnswers]
  · rw [hcauses, hbefore]
  · rw [hbefore, ht]
    refine marksAdded.congr ((hmarks.trans (State.mark_marksAdded _ _)).trans (State.mark_marksAdded _ _)) fun r => ?_
    simp only [List.mem_singleton, exists_eq_left]
    tauto
  · rw [ht, hall]
    exact State.eq_of_fields (by simp)

/-- The commit of one entry whose watch does not begin. -/
theorem State.committed_of_not {s : State} {e : AirEntry} (h : ¬ s.startsWatch e = true) :
    marksAdded s (s.committed e) (fun r => r = .carrier e.id ∨ r = .stage e.stage) ∧
      s.committed e = { s with status := (s.committed e).status } := by
  have hnot : s.watchBegin { e with air := .onAir, owner := none } = s :=
    State.watchBegin_of_not fun hw => h ((s.startsWatch_iff e).2 hw)
  have ht : s.committed e = (s.mark (.carrier e.id)).mark (.stage e.stage) := by
    unfold State.committed
    rw [hnot]
  rw [ht]
  exact ⟨(s.mark_marksAdded _).trans (State.mark_marksAdded _ _), State.eq_of_fields (by simp)⟩

/-- The commit of several entries, one after another. -/
theorem State.foldl_committed (l : List AirEntry) (s : State) : Committed s (l.foldl State.committed s) l := by
  induction l generalizing s with
  | nil =>
    exact ⟨fun _ => rfl, rfl, rfl, rfl, marksAdded.congr (.of_status_eq rfl) (by simp), rfl⟩
  | cons e l ih =>
    have hlater := ih (s.committed e)
    rw [List.foldl_cons]
    by_cases h : s.startsWatch e = true
    · obtain ⟨hfirst, hnil⟩ := State.committed_of_starts h
      have hbefore : s.beforeWatches (e :: l) = s.takeAnswers := if_pos (by simp [h])
      have hbefore₁ : s.beforeWatches [e] = s.takeAnswers := if_pos (by simp [h])
      have hbefore₂ : (s.committed e).beforeWatches l = s.committed e := by
        rw [State.beforeWatches, State.takeAnswers_of_nil hnil, ite_self]
      have hrec : ∀ id, (s.committed e).watchRec id =
          if id = e.id then some ⟨id, .quiet, 0, 0, 0, none, none⟩ else s.takeAnswers.watchRec id := fun id => by
        rw [hfirst.records, hbefore₁]
        simp [h, eq_comm]
      have hstarts : ∀ x, (s.committed e).startsWatch x = true ↔ s.startsWatch x = true ∧ x.id ≠ e.id := fun x => by
        have hnone : s.takeAnswers.watchRec x.id = none ↔ s.watchRec x.id = none := by
          rw [← Option.isNone_iff_eq_none, ← Option.isNone_iff_eq_none, ← Option.not_isSome, ← Option.not_isSome,
            s.watchRec_takeAnswers_isSome]
        by_cases hid : x.id = e.id <;> simp [State.startsWatch, hrec, hid, hnone]
      refine ⟨fun id => ?_, ?_, ?_, ?_, ?_, ?_⟩
      · rw [hlater.records, hbefore, hbefore₂, hrec]
        by_cases hid : id = e.id
        · simp [h, hid]
        · have hany : (l.filter (s.committed e).startsWatch).any (fun x => decide (x.id = id)) =
              ((e :: l).filter s.startsWatch).any fun x => decide (x.id = id) := by
            rw [Bool.eq_iff_iff]
            simp only [List.any_eq_true, List.mem_filter, decide_eq_true_eq, hstarts, List.filter_cons, if_pos h,
              List.mem_cons]
            constructor
            · rintro ⟨x, ⟨hx, hs, -⟩, rfl⟩
              exact ⟨x, .inr ⟨hx, hs⟩, rfl⟩
            · rintro ⟨x, rfl | ⟨hx, hs⟩, rfl⟩
              · exact absurd rfl hid
              · exact ⟨x, ⟨hx, hs, hid⟩, rfl⟩
          rw [hany, if_neg hid]
      · exact (congrArg (fun w : Watch => { w with records := s.watch.records }) hlater.rest).trans hfirst.rest
      · rw [hlater.answers, hbefore₂, hnil, hbefore, State.takeAnswers_swapAnswers]
      · rw [hlater.causes, hbefore₂, hfirst.causes, hbefore₁, hbefore]
      · have hfirstMarks := hfirst.marks
        have hlaterMarks := hlater.marks
        rw [hbefore₁] at hfirstMarks
        rw [hbefore₂] at hlaterMarks
        rw [hbefore]
        exact marksAdded.congr (hfirstMarks.trans hlaterMarks) fun r => by simp
      · rw [hlater.frame, hfirst.frame]
    · obtain ⟨hmarks, hframe⟩ := State.committed_of_not h
      have hwatch : (s.committed e).watch = s.watch := (congrArg State.watch hframe :)
      have hanswers : (s.committed e).swapAnswers = s.swapAnswers := (congrArg State.swapAnswers hframe :)
      have hcauses : (s.committed e).causes = s.causes := (congrArg State.causes hframe :)
      have hstarts : (s.committed e).startsWatch = s.startsWatch := by
        funext x
        simp only [State.startsWatch, State.watchRec_congr hwatch]
      have hbefore : s.beforeWatches (e :: l) = s.beforeWatches l := by simp [State.beforeWatches, h]
      obtain ⟨hw, ha, hc, hm⟩ : ((s.committed e).beforeWatches l).watch = (s.beforeWatches l).watch ∧
          ((s.committed e).beforeWatches l).swapAnswers = (s.beforeWatches l).swapAnswers ∧
          ((s.committed e).beforeWatches l).causes = (s.beforeWatches l).causes ∧
          marksAdded (s.beforeWatches l) ((s.committed e).beforeWatches l)
            fun r => r = .carrier e.id ∨ r = .stage e.stage := by
        unfold State.beforeWatches
        rw [hstarts]
        split
        · obtain ⟨-, hw, hc⟩ := State.takeAnswers_both hwatch hanswers
          exact ⟨hw, by simp, hc hcauses, State.takeAnswers_marksAdded hwatch hanswers hmarks⟩
        · exact ⟨hwatch, hanswers, hcauses, hmarks⟩
      refine ⟨fun id => ?_, ?_, ?_, ?_, ?_, ?_⟩
      · rw [hlater.records, hstarts, hbefore, State.watchRec_congr hw, List.filter_cons, if_neg h]
      · rw [← hwatch]
        exact hlater.rest
      · rw [hlater.answers, ha, hbefore]
      · rw [hlater.causes, hc, hbefore]
      · rw [hbefore]
        exact marksAdded.congr (hm.trans hlater.marks) fun r => by simp
      · rw [hlater.frame, hframe]

theorem ItemOutcome.onAir_eq (out : ItemOutcome) : out.onAir = decide (out = .placed ∨ out = .kept) := by
  cases out <;> rfl

/-- COMMIT puts every entry that the order owns on air, at once (R32, R90). -/
theorem State.beginCommit_spec (o : EngineOrder) (s : State) :
    let owned := s.air.filter fun e => decide (e.owner = some o.slot)
    let t := s.beginCommit o
    let u := s.beforeWatches owned
    t.air = s.air.map (fun e => if e.owner = some o.slot then { e with air := .onAir, owner := none } else e) ∧
    t.engine = { s.engine with
      order := some o
      pos := .commitWrite ((o.outcomes.filter fun r => decide (r.outcome = .placed)).map ItemRecord.id) } ∧
    (∀ id, t.watchRec id = if (owned.filter s.startsWatch).any (fun e => decide (e.id = id)) then
      some ⟨id, .quiet, 0, 0, 0, none, none⟩ else u.watchRec id) ∧
    t.watch.params = s.watch.params ∧ t.watch.heldTunes = s.watch.heldTunes ∧ t.swapAnswers = u.swapAnswers ∧
    t.causes = u.causes ∧ marksAdded u t (fun r => ∃ e ∈ owned, r = .carrier e.id ∨ r = .stage e.stage) ∧
    { t with
      engine := s.engine, air := s.air, watch := s.watch, swapAnswers := s.swapAnswers, status := s.status
      causes := s.causes } = s := by
  intro owned t u
  let v : State := { s with
    air := s.air.map fun e => if e.owner = some o.slot then { e with air := .onAir, owner := none } else e }
  have hall := State.foldl_committed owned v
  let w := owned.foldl State.committed v
  have ht : t = (w.setOrder o).setPos
      (.commitWrite ((o.outcomes.filter fun r => decide (r.outcome = .placed)).map ItemRecord.id)) := rfl
  obtain ⟨hw, ha, hc, hst⟩ : (v.beforeWatches owned).watch = u.watch ∧
      (v.beforeWatches owned).swapAnswers = u.swapAnswers ∧ (v.beforeWatches owned).causes = u.causes ∧
      (v.beforeWatches owned).status = u.status := by
    have hstarts : v.startsWatch = s.startsWatch := rfl
    show (State.beforeWatches v owned).watch = (State.beforeWatches s owned).watch ∧ _ = (State.beforeWatches s owned).swapAnswers ∧
      _ = (State.beforeWatches s owned).causes ∧ _ = (State.beforeWatches s owned).status
    unfold State.beforeWatches
    rw [hstarts]
    split
    · obtain ⟨hw, hst, hc⟩ := State.takeAnswers_congr (s := s) (s' := v) rfl rfl rfl rfl
      exact ⟨hw, by simp, hc, hst⟩
    · exact ⟨rfl, rfl, rfl, rfl⟩
  have hengine : w.engine = s.engine := (congrArg State.engine hall.frame :)
  rw [ht]
  refine ⟨(congrArg State.air hall.frame :), ?_, fun id => ?_, (congrArg Watch.params hall.rest :),
    (congrArg Watch.heldTunes hall.rest :), hall.answers.trans ha, hall.causes.trans hc, hall.marks.of_eq hst.symm rfl, ?_⟩
  · exact congrArg (fun g : Engine => { g with
      order := some o
      pos := .commitWrite ((o.outcomes.filter fun r : ItemRecord => decide (r.outcome = ItemOutcome.placed)).map ItemRecord.id) }) hengine
  · exact (hall.records id).trans (by rw [State.watchRec_congr hw]; rfl)
  · exact (congrArg (fun x : State => { x with
      engine := s.engine, air := s.air, watch := s.watch, swapAnswers := s.swapAnswers, status := s.status
      causes := s.causes }) hall.frame :)

/-! ### Boundaries (R68, R69) -/

theorem State.verdict_eq_accept_iff (s : State) (j : Joiner) :
    s.verdict j = .accept ↔ s.engine.airChanged = false ∧ j.failedTest = none := by
  cases hchanged : s.engine.airChanged with
  | true => simp [State.verdict_of_airChanged hchanged]
  | false =>
    obtain hnone | ⟨test, htest⟩ := Option.eq_none_or_eq_some j.failedTest
    · simp [State.verdict_of_passed hchanged hnone, hnone]
    · have hwalk : ∀ m : WalkMove, walkMove m ≠ .accept := fun m => by cases m <;> simp [walkMove]
      cases hp : j.placing with
      | locked => simp [State.verdict_of_bound hchanged htest (.inl hp), htest]
      | target => simp [State.verdict_of_bound hchanged htest (.inr hp), htest]
      | assigned => simp [State.verdict_of_assigned hchanged htest hp, htest, hwalk]
      | walk => simp [State.verdict_of_walk hchanged htest hp, htest, hwalk]

/-- A walk ends once its limit is reached, or when it has no further point (R81). -/
theorem walkMove_refuse_iff (w : Walk) :
    (∃ out, walkMove w.move = .refuse out) ↔ w.limit ≤ w.examined ∨ w.next.1 = none := by
  by_cases hlimit : w.limit ≤ w.examined
  · simp [Walk.move_of_limit hlimit, walkMove, hlimit]
  · obtain hnone | ⟨x, hx⟩ := Option.eq_none_or_eq_some w.next.1
    · simp [Walk.move_of_none (by omega) hnone, walkMove, hnone]
    · have hpair : w.next = (some x, w.next.2) := Prod.ext hx rfl
      simp [Walk.move_of_some (by omega) hpair, walkMove, hlimit, hx]

theorem State.verdict_refuse_iff (s : State) (j : Joiner) :
    (∃ out, s.verdict j = .refuse out) ↔ s.engine.airChanged = false ∧ j.failedTest ≠ none ∧ searchOver s j := by
  have hwalk : s.joinerWalk j.info = startWalk
      (if j.info.preferred ≠ 65535 ∧ test1 j.info.tuneLow j.info.tuneHigh j.info.tuneStep j.info.preferred = true then
        j.info.preferred else j.info.tuneLow)
      j.info.tuneLow j.info.tuneHigh j.info.tuneStep none s.params.searchLimit := by
    unfold State.joinerWalk walkStart
    rw [Nat.cast_ite]
    rfl
  unfold searchOver
  rw [← hwalk]
  dsimp only
  cases hchanged : s.engine.airChanged with
  | true => simp [State.verdict_of_airChanged hchanged]
  | false =>
    obtain hnone | ⟨test, htest⟩ := Option.eq_none_or_eq_some j.failedTest
    · simp [State.verdict_of_passed hchanged hnone, hnone]
    · cases hp : j.placing with
      | locked => simp [State.verdict_of_bound hchanged htest (.inl hp), htest]
      | target => simp [State.verdict_of_bound hchanged htest (.inr hp), htest]
      | assigned =>
        rw [State.verdict_of_assigned hchanged htest hp, walkMove_refuse_iff]
        simp [htest]
      | walk =>
        rw [State.verdict_of_walk hchanged htest hp, walkMove_refuse_iff]
        simp [htest]

/-- What the next step means for the present boundary. -/
theorem State.nextMove_ahead (s : State) (o : EngineOrder) :
    ((s.nextMove o).2 = .next ↔ phaseChanges s o) ∧ ((s.nextMove o).2 = .last ↔ lastBoundary s o) := by
  unfold phaseChanges lastBoundary State.nextMove
  cases hlast : o.last with
  | item =>
    have hhandled : (if o.faultMark then o.cursor + 1 else o.cursor) = o.cursor + (if o.faultMark then 1 else 0) := by
      split <;> rfl
    simp only [hhandled]
    generalize o.cursor + (if o.faultMark then 1 else 0) = n
    by_cases hmore : n < o.listA.length
    · simp [hmore]
    · cases hphase : o.phase <;> simp [hmore, not_lt.1 hmore]
  | examined =>
    obtain hnone | ⟨j, hj⟩ := Option.eq_none_or_eq_some o.joiner
    · simp [hnone]
    · have haccept := s.verdict_eq_accept_iff j
      have hrefuse := s.verdict_refuse_iff j
      have hneither : s.verdict j ≠ .accept → (∀ out, s.verdict j ≠ .refuse out) → ¬ (s.engine.airChanged = false ∧
          (j.failedTest = none ∧ (o.kind = .retune ∨ o.listB.length ≤ o.cursor + 1) ∨
            j.failedTest ≠ none ∧ searchOver s j ∧ o.kind = .changeover ∧ o.body.p0 ≠ 0 ∧
              o.listB.length ≤ o.cursor + 1)) := by
        rintro hna hnr ⟨hchanged, ⟨htest, -⟩ | ⟨htest, hover, -⟩⟩
        · exact hna (haccept.2 ⟨hchanged, htest⟩)
        · obtain ⟨out, h⟩ := hrefuse.2 ⟨hchanged, htest, hover⟩
          exact hnr out h
      simp only [hj, Option.some.injEq, exists_eq_left']
      cases hv : s.verdict j with
      | accept =>
        obtain ⟨hchanged, htest⟩ := haccept.1 hv
        simp only [hchanged, htest, EngineOrder.lastJoiner, decide_eq_true_eq]
        by_cases hc : o.kind = .retune ∨ o.listB.length ≤ o.cursor + 1
        · simp [hc]
        · simp [hc]
      | refuse out =>
        obtain ⟨hchanged, htest, hover⟩ := hrefuse.1 ⟨out, hv⟩
        simp only [hchanged, htest, hover, EngineOrder.lastJoiner, decide_eq_true_eq]
        by_cases hc : o.kind = .changeover ∧ o.body.p0 ≠ 0 ∧ o.listB.length ≤ o.cursor + 1
        · simp [hc, htest]
        · simp [hc]
      | _ =>
        have := hneither (by simp [hv]) (by simp [hv])
        simpa using this
  | victim => 
    cases hv : s.nextVictim o <;> cases hs : s.nextSpare o <;> cases hw : o.body.p1.testBit 0 <;> simp [EngineOrder.wantsSpares, hw]
  | spare =>
    cases hs : s.nextSpare o <;> simp
  | phaseEnd => simp

/-- The stop word of the slot is read at a boundary where it is due (R69). -/
theorem State.boundaryStop_of_due {s : State} {o : EngineOrder} (h : (s.nextMove o).2 ≠ .last)
    (hdue : o.stepCounter = 63 ∨ (s.nextMove o).2 = .next)
    (hallowed : s.allowed false (s.latch.boardAddr + 64 * o.slot + 2) 2 = true) : s.boundaryStop o = { s with
      engine := { s.engine with
        order := some { o with ahead := (s.nextMove o).2, stepCounter := 0 }, pos := .stopWait }
      port := { s.port with transfers := s.port.transfers ++
        [⟨.engine, false, s.latch.boardAddr + 64 * o.slot + 2, 2, []⟩] } } := by
  have hsteps : Config.stopSteps = 64 := rfl
  have hread := State.present_of_allowed (s := s.setOrder { o with ahead := (s.nextMove o).2, stepCounter := 0 }) .engine []
    ((State.allowed_congr (s := s) rfl ..).trans hallowed)
  unfold State.boundaryStop
  dsimp only
  rw [if_neg h, hsteps, if_pos ⟨h, hdue.imp_left (by omega)⟩]
  exact congrArg (fun x : State => x.setPos .stopWait) hread

theorem EngineOrder.countOf_beq (o : EngineOrder) (good : ItemOutcome) :
    o.countOf (· == good) = (o.outcomes.filter fun r => decide (r.outcome = good)).length := rfl

theorem EngineOrder.countOf_bne (o : EngineOrder) (good : ItemOutcome) :
    o.countOf (· != good) = (o.outcomes.filter fun r => decide (r.outcome ≠ good)).length := by
  refine congrArg List.length (List.filter_congr fun r _ => ?_)
  rw [Bool.eq_iff_iff]
  simp

theorem EngineOrder.countOf_onAir (o : EngineOrder) : o.countOf ItemOutcome.onAir =
    (o.outcomes.filter fun r => decide (r.outcome = .placed ∨ r.outcome = .kept)).length := by
  simp only [EngineOrder.countOf, ItemOutcome.onAir_eq]

/-- The end of an AIR_JOIN or an AIR_LEAVE after its last item (R85, R86). -/
theorem State.endItems_eq (s : State) (o : EngineOrder) (good : ItemOutcome) :
    let count := fun p : ItemRecord → Bool => (o.outcomes.filter p).length
    let bad := count fun r => decide (r.outcome ≠ good)
    s.endItems o good = s.finish o false
      (if o.listA = [] then .nothingDone else if bad = 0 then .ok else .partialDone)
      (count fun r => decide (r.outcome = good)) bad := by
  intro count bad
  unfold State.endItems
  rw [EngineOrder.countOf_beq, EngineOrder.countOf_bne]

/-- A cause ends the order at its boundary: a fault before a halt, a halt before a stop word (R68). -/
theorem State.decideBoundary_of_cause {o : EngineOrder} {r : ResultCode} (s : State)
    (h : o.faultMark = true ∧ r = .memory ∨
      o.faultMark = false ∧ o.ahead ≠ .last ∧ o.haltMark = true ∧ r = .halted ∨
      o.faultMark = false ∧ o.ahead ≠ .last ∧ o.haltMark = false ∧ o.stopMark = true ∧ r = .stopped) :
    s.decideBoundary o = s.endFor o r := by
  unfold State.decideBoundary
  obtain ⟨hfault, rfl⟩ | ⟨hfault, hahead, hhalt, rfl⟩ | ⟨hfault, hahead, hhalt, hstop, rfl⟩ := h
  · rw [if_pos hfault]
  · rw [if_neg (by simp [hfault]), if_pos ⟨hahead, hhalt⟩]
  · rw [if_neg (by simp [hfault]), if_neg (by simp [hhalt]), if_pos ⟨hahead, hstop⟩]

theorem State.endFor_eq (s : State) (o : EngineOrder) (r : ResultCode) :
    let count := fun p : ItemOutcome → Bool => (o.outcomes.filter fun x => p x.outcome).length
    let t := s.endFor o r
    (∀ good, o.kind = .airJoin ∧ good = .kept ∨ o.kind = .airLeave ∧ good = .left →
      t = s.finish o true r (count fun x => decide (x = good)) (count fun x => decide (x ≠ good))) ∧
    (o.kind = .changeover → ∃ u, t = u.finish { o with outcomes := o.outcomes.map fun x =>
        if x.outcome = .placed ∨ x.outcome = .kept then { x with outcome := .withdrawn } else x } true r 0 0 ∧
      u.air = s.air.filter (fun e => decide (e.owner ≠ some o.slot)) ∧
      marksAdded s u (fun x => ∃ e ∈ s.air, e.owner = some o.slot ∧ x = .carrier e.id) ∧
      { u with air := s.air, status := s.status } = s) ∧
    (o.kind = .retune → t = s.finish o true r
      ((o.joiner.map fun j => (j.walk.map Walk.examined).getD 1).getD 0) 0) ∧
    (o.kind = .check → t = s.finish o true r (min 65535 o.found) o.written) := by
  intro count t
  refine ⟨fun good hk => ?_, fun hk => ⟨s.withdrawOwned o.slot, ?_, s.withdrawOwned_spec o.slot⟩, fun hk => ?_, fun hk => ?_⟩
  · show s.endFor o r = _
    unfold State.endFor
    obtain ⟨hk, rfl⟩ | ⟨hk, rfl⟩ := hk <;> rw [hk] <;> dsimp only <;>
      rw [EngineOrder.countOf_beq, EngineOrder.countOf_bne]
  · have hends : t = (s.withdraw o).1.finish (s.withdraw o).2 true r 0 0 := by
      show s.endFor o r = _
      unfold State.endFor
      rw [hk]
    rw [hends, State.withdraw_snd]
    rfl
  · show s.endFor o r = _
    unfold State.endFor EngineOrder.examined
    rw [hk]
    cases o.joiner <;> rfl
  · show s.endFor o r = _
    unfold State.endFor
    rw [hk]

/-- A carrier without an entry, or without a rack, has no TUNE to be offered (R83). -/
theorem State.tuneNext_of_none {s : State} {id : Nat} (o : EngineOrder) (rest : List Nat)
    (h : ∀ e, s.airEntry id = some e → e.rack = none) :
    s.tuneNext o (id :: rest) = { s with engine := { s.engine with pos := .tune rest false } } := by
  unfold State.tuneNext
  obtain hnone | ⟨e, he⟩ := Option.eq_none_or_eq_some (s.airEntry id)
  · simp only [hnone, Option.bind_none]
    rfl
  · simp only [he, Option.bind_some, h e he, Option.map_none]
    rfl

/-- Settles O27: COMMIT, boundaries and ends. -/
theorem commitsAndEndsWriteTheirOutcomes : Obligations.CommitsAndEndsWriteTheirOutcomes := by
  refine ⟨fun o s hphase => ?_, fun o id rest s => ⟨?_, fun e he => ?_, fun a => rfl, fun h => ?_, fun e r he hr => ?_⟩,
    fun o s => ?_, fun o failed r c1 c2 s => ?_, fun s hpos hservice => exec_engineStepBoundary hpos hservice,
    fun o s hservice hreading ho => ?_, fun o r s hr => ?_⟩
  · have hstep : s.beginStep o = s.beginCommit o := by
      unfold State.beginStep
      rw [hphase]
    rw [hstep]
    exact s.beginCommit_spec o
  · simp only [State.commitNext, ItemOutcome.onAir_eq]
    rfl
  · have hcode : s.codeOf id = e.code := by rw [State.codeOf, he]; rfl
    rw [State.commitNext, hcode]
    rfl
  · exact State.tuneNext_of_none o rest h
  · rw [State.tuneNext_eq o rest he hr]
    refine ⟨fun h => if_neg fun g => h ((Line.accepts_plan_iff _).1 g), fun h => ?_⟩
    rw [if_pos ((Line.accepts_plan_iff _).2 h)]
    let tune : Tune := ⟨false, r.addr, r.slot, id, e.code⟩
    exact ⟨rfl, s.line_onLine_same r.line fun l => lineTakes l tune,
      fun k hk => (s.line_onLine r.line k fun l => lineTakes l tune).trans (if_neg hk), rfl⟩
  · intro onAir count
    refine ⟨fun hk => ?_, fun hk => ?_, fun j hk hj => ?_, fun good hk hphase hlast hfault hahead hend => ?_⟩
    · exact if_pos hk
    · refine (if_neg (by simp [hk])).trans ?_
      unfold State.endCommit
      rw [hk]
      dsimp only
      rw [EngineOrder.countOf_onAir]
      simp only [List.all_eq_true, ItemOutcome.onAir_eq]
      rfl
    · refine (if_neg (by simp [hk])).trans ?_
      unfold State.endCommit EngineOrder.examined
      rw [hk, hj]
    · intro bad
      have hmove : (s.nextMove o).1 = .finish := by
        unfold State.nextMove
        simp [hlast, hfault, hphase, not_lt.2 hend]
      rw [s.decideBoundary_of_goesOn hfault fun h => absurd hahead h, hmove]
      unfold State.goOn
      obtain ⟨hk, rfl⟩ | ⟨hk, rfl⟩ := hk <;> rw [hk] <;> exact s.endItems_eq o _
  · intro items list bytes
    have hlist : o.allOutcomes = list := by
      unfold EngineOrder.allOutcomes
      rw [EngineOrder.items_eq]
    obtain ⟨hempty, hwritten⟩ := s.finish_spec o failed r c1 c2
    rw [hlist] at hempty hwritten
    exact ⟨hempty, fun h hallowed => ⟨length_outcomeRecords s list, hwritten h hallowed⟩, fun d => rfl, rfl⟩
  · intro at' address reads
    obtain ⟨hnext, hlast⟩ := s.nextMove_ahead o
    refine ⟨fun hpos hreq => ?_, fun hpos hreq => ?_, fun hpos => ?_, State.engineMicro_of_decide hservice hreading ho⟩
    · rw [State.engineMicro_of_order hservice hreading ho]
      unfold State.orderMicro
      rw [hpos]
      exact congrArg some (if_neg hreq)
    · have hserve := State.engineMicro_of_serve hservice hreading ho hpos hreq
      refine ⟨fun h hallowed => ?_, fun hn hl hc hallowed => ?_, fun hn hl hc => ?_, fun hl => ?_⟩
      · have h := hnext.2 h
        rw [hserve, State.boundaryStop_of_due (by simp [h]) (.inr h) hallowed, h]
      · have hsame : (s.nextMove o).2 = .same := by
          cases h : (s.nextMove o).2 with
          | same => rfl
          | next => exact absurd (hnext.1 h) hn
          | last => exact absurd (hlast.1 h) hl
        rw [hserve, State.boundaryStop_of_due (by simp [hsame]) (.inl hc) hallowed, hsame]
      · have hsame : (s.nextMove o).2 = .same := by
          cases h : (s.nextMove o).2 with
          | same => rfl
          | next => exact absurd (hnext.1 h) hn
          | last => exact absurd (hlast.1 h) hl
        rw [hserve, State.boundaryStop_of_same hsame hc]
      · rw [hserve, State.boundaryStop_of_last (hlast.2 hl)]
    · intro taken
      rw [State.engineMicro_of_order hservice hreading ho]
      unfold State.orderMicro
      rw [hpos]
      exact ⟨State.engineMail_of_answer _, fun bs => State.engineMail_of_answer _⟩
  · intro count t
    have ht : t = s.endFor o r := s.decideBoundary_of_cause hr
    rw [ht]
    exact s.endFor_eq o r

end Sys2Proof.Machine
end

section
/-! The service of a swap request (R73 to R77): the head of the list, the search among the spares, and the swap. -/

namespace Sys2Proof.Machine

/-! ### The first of a list, with its place -/

theorem find?_zipIdx_some {α : Type} {l : List α} {p : α × Nat → Bool} {a : α} {i : Nat}
    (h : l.zipIdx.find? p = some (a, i)) :
    p (a, i) = true ∧ l[i]? = some a ∧ ∀ j b, j < i → l[j]? = some b → p (b, j) = false := by
  obtain ⟨hp, n, hn, hat, hbefore⟩ := List.find?_eq_some_iff_getElem.1 h
  have hlen : n < l.length := by rwa [List.length_zipIdx] at hn
  obtain ⟨ha, rfl⟩ : l[n] = a ∧ n = i := by simpa using hat
  refine ⟨hp, List.getElem?_eq_some_iff.2 ⟨hlen, ha⟩, fun j b hj hb => ?_⟩
  obtain ⟨hjl, rfl⟩ := List.getElem?_eq_some_iff.1 hb
  have hnot := hbefore j hj
  rw [List.getElem_zipIdx, Nat.zero_add] at hnot
  simpa using hnot

theorem find?_zipIdx_none {α : Type} {l : List α} {p : α × Nat → Bool} :
    l.zipIdx.find? p = none ↔ ∀ i a, l[i]? = some a → p (a, i) = false := by
  rw [List.find?_eq_none]
  constructor
  · intro h i a ha
    exact Bool.eq_false_iff.2 (h (a, i) (List.mem_zipIdx_iff_getElem?.2 ha))
  · rintro h ⟨a, i⟩ hmem
    exact Bool.eq_false_iff.1 (h i a (List.mem_zipIdx_iff_getElem?.1 hmem))

/-! ### The head of the list (R74, R75) -/

theorem State.serveHead_of_refused {s : State} {x : Nat} {rest : List Nat} (hreq : s.engine.requests = x :: rest)
    (h : (s.onAirEntry x).all (fun e => e.locked) = true) : s.serveHead = s.answerSwap x false := by
  unfold State.serveHead
  rw [hreq]
  dsimp only
  obtain hnone | ⟨e, he⟩ := Option.eq_none_or_eq_some (s.onAirEntry x)
  · rw [hnone]
  · rw [he] at h ⊢
    exact if_pos h

theorem State.serveHead_of_search {s : State} {x : Nat} {rest : List Nat} {e : AirEntry}
    (hreq : s.engine.requests = x :: rest) (he : s.onAirEntry x = some e) (h : e.locked = false) :
    s.serveHead = { s with engine := { s.engine with service := some (.search x 0) } } := by
  unfold State.serveHead
  rw [hreq]
  dsimp only
  rw [he]
  exact if_neg (by simp [h])

/-! ### The search (R76) -/

/-- A spare meets conditions 1 to 3 for an entry (R76). -/
theorem Spare.fits_iff (sp : Spare) (e : AirEntry) : sp.fits e = true ↔
    sp.state = .available ∧ sp.mask.getLsbD e.stage = true ∧
      test1 e.tuneLow e.tuneHigh e.tuneStep sp.code = true := by
  simp [Spare.fits, and_assoc]

theorem State.nextTry_some {s : State} {e : AirEntry} {next i : Nat} {sp : Spare} (h : s.nextTry e next = some (sp, i)) :
    next ≤ i ∧ s.spares[i]? = some sp ∧ sp.fits e = true ∧
      ∀ j q, next ≤ j → j < i → s.spares[j]? = some q → q.fits e = false := by
  obtain ⟨hp, hat, hbefore⟩ := find?_zipIdx_some h
  obtain ⟨hle, hfits⟩ : next ≤ i ∧ sp.fits e = true := by simpa using hp
  refine ⟨hle, hat, hfits, fun j q hj hlt hq => ?_⟩
  simpa [hj] using hbefore j q hlt hq

theorem State.nextTry_none {s : State} {e : AirEntry} {next : Nat} : s.nextTry e next = none ↔
    ∀ j q, next ≤ j → s.spares[j]? = some q → q.fits e = false := by
  refine find?_zipIdx_none.trans ⟨fun h j q hj hq => ?_, fun h j q hq => ?_⟩
  · simpa [hj] using h j q hq
  · by_cases hj : next ≤ j
    · simp [hj, h j q hj hq]
    · simp [hj]

/-- With no spare left for the carrier the answer is NO_SPARE. -/
theorem State.serviceStep_of_none {s : State} {x next : Nat}
    (h : ∀ e, s.onAirEntry x = some e → s.nextTry e next = none) : s.serviceStep x next = s.noSpare x := by
  unfold State.serviceStep
  obtain hnone | ⟨e, he⟩ := Option.eq_none_or_eq_some (s.onAirEntry x)
  · rw [hnone]
  · rw [he]
    dsimp only
    rw [h e he]

theorem State.serviceStep_of_some {s : State} {x next : Nat} {e : AirEntry} {p : Spare × Nat}
    (he : s.onAirEntry x = some e) (h : s.nextTry e next = some p) : s.serviceStep x next =
      s.withBins p.1.code fun s taken =>
        if s.qualifies e p.1 taken then s.swapChosen e p.2 p.1 else s.setService (some (.search x (p.2 + 1))) := by
  unfold State.serviceStep
  rw [he]
  dsimp only
  rw [h]

/-! ### The swap (R77) -/

/-- An ON_AIR entry is its carrier's entry. -/
theorem State.airEntry_of_onAirEntry {s : State} {x : Nat} {e : AirEntry} (hs : s.airOk) (h : s.onAirEntry x = some e) :
    s.airEntry x = some e := by
  obtain ⟨hid, -⟩ := State.onAirEntry_some_iff h
  have hmem : e ∈ s.air := List.mem_of_find?_eq_some h
  obtain ⟨-, hnodup, -, -⟩ := hs
  obtain ⟨e', he'⟩ : ∃ e', s.airEntry x = some e' := Option.isSome_iff_exists.1 (List.find?_isSome.2 ⟨e, hmem, by simp [hid]⟩)
  have heq : e' = e := List.inj_on_of_nodup_map hnodup (List.mem_of_find?_eq_some he') hmem
    ((State.id_of_airEntry he').trans hid.symm)
  rw [he', heq]

theorem getElem?_spareTaken (x i : Nat) (l : List Spare) (j : Nat) : (spareTaken x i l)[j]? = l[j]?.map fun q =>
    if j = i then { q with state := .used, user := some x }
    else if q.user = some x then { q with state := .barred, user := none } else q := by
  unfold spareTaken
  rw [List.getElem?_map, List.getElem?_zipIdx]
  cases l[j]? with
  | none => rfl
  | some q => simp

theorem mem_sparesChanged (x i : Nat) (l : List Spare) (r : RecId) : r ∈ sparesChanged x i l ↔
    ∃ j q, r = .spare j ∧ l[j]? = some q ∧ (j = i ∨ q.user = some x) := by
  unfold sparesChanged
  simp only [List.mem_map, List.mem_filter, Bool.or_eq_true, decide_eq_true_eq, Prod.exists,
    List.mem_zipIdx_iff_getElem?]
  constructor
  · rintro ⟨q, j, ⟨hq, hch⟩, rfl⟩
    exact ⟨j, q, rfl, hq, hch⟩
  · rintro ⟨j, q, rfl, hq, hch⟩
    exact ⟨q, j, ⟨hq, hch⟩, rfl⟩

/-- The live-class TUNE of a swap: a line's queue takes it, or the Watch Unit holds it as its newest (R77, R159). -/
theorem State.liveTune_of_rack (s : State) (x code : Nat) (r : Rack) :
    let tune : Tune := ⟨true, r.addr, r.slot, x, code⟩
    (queueAccepts (s.line r.line) true → s.liveTune x code (some r) = s.onLine r.line fun l => lineTakes l tune) ∧
    (¬ queueAccepts (s.line r.line) true → s.liveTune x code (some r) = { s with watch := { s.watch with
      heldTunes := (s.watch.heldTunes.filter fun h => h.tune.id != x) ++ [⟨r.line, tune⟩] } }) := by
  intro tune
  have haccepts : (s.line r.line).accepts tune.live = true ↔ queueAccepts (s.line r.line) true := Line.accepts_iff _ true
  have htune : s.liveTune x code (some r) = (s.offer r.line tune).getD (s.holdTune r.line tune) := rfl
  rw [htune, State.offer_eq]
  refine ⟨fun h => ?_, fun h => ?_⟩
  · rw [if_pos (haccepts.2 h)]
    rfl
  · rw [if_neg fun g => h (haccepts.1 g)]
    rfl

/-- What the live-class TUNE of a swap touches. -/
theorem State.liveTune_frame (s : State) (x code : Nat) (rack : Option Rack) :
    s.liveTune x code rack = { s with
      lines := (s.liveTune x code rack).lines, watch := (s.liveTune x code rack).watch } := by
  cases rack with
  | none => rfl
  | some r =>
    obtain ⟨htakes, hholds⟩ := s.liveTune_of_rack x code r
    by_cases h : queueAccepts (s.line r.line) true
    · rw [htakes h]
      rfl
    · rw [hholds h]

/-- A swap is applied (R77). -/
theorem State.applySwap_spec {s : State} {x i : Nat} {e : AirEntry} {sp : Spare} (hs : s.airOk)
    (he : s.airEntry x = some e) (hi : s.spares[i]? = some sp) : let t := s.applySwap e i sp
    t.airEntry x = some { e with code := sp.code, confirmed := .unconfirmed } ∧
    (∀ j, j ≠ x → t.airEntry j = s.airEntry j) ∧
    t.spares.length = s.spares.length ∧ t.spares[i]? = some { sp with state := .used, user := some x } ∧
    (∀ (j : Nat) (q : Spare), j ≠ i → s.spares[j]? = some q →
      t.spares[j]? = some (if q.user = some x then { q with state := .barred, user := none } else q)) ∧
    t.swapAnswers = s.swapAnswers ++ [⟨x, true⟩] ∧ marksAdded s t (fun r => r = .carrier x) ∧
    (e.rack = none → t.lines = s.lines ∧ t.watch = s.watch) ∧
    (∀ r, e.rack = some r →
      let tune : Tune := ⟨true, r.addr, r.slot, x, sp.code⟩
      (¬ queueAccepts (s.line r.line) true → t.lines = s.lines ∧
        t.watch = { s.watch with
          heldTunes := (s.watch.heldTunes.filter fun h => h.tune.id != x) ++ [⟨r.line, tune⟩] }) ∧
      (queueAccepts (s.line r.line) true → t.watch = s.watch ∧ (∀ j, j ≠ r.line → t.line j = s.line j) ∧
        t.line r.line = lineTakes (s.line r.line) tune)) ∧
    t.engine = { s.engine with
      requests := s.engine.requests.filter fun y => y != x, wb := some ⟨x, sp.code, true, .ask⟩
      service := some (.writing x (sparesChanged x i s.spares)), airChanged := true } ∧
    { t with
      engine := s.engine, air := s.air, spares := s.spares, swapAnswers := s.swapAnswers, status := s.status
      lines := s.lines, watch := s.watch } = s := by
  intro t
  obtain ⟨hlen, -, -, -⟩ := hs
  have hid : e.id = x := State.id_of_airEntry he
  obtain ⟨hentry, hothers, hmarks, hframe⟩ := State.setCode_spec sp.code (f := id) he hlen rfl
  let m := s.setCode x sp.code id
  let v : State := { m with spares := spareTaken x i m.spares }
  let w := v.liveTune x sp.code e.rack
  have hw : w = { v with lines := w.lines, watch := w.watch } := v.liveTune_frame x sp.code e.rack
  have hm : m = { s with air := m.air, status := m.status } := hframe
  have ht : t = { s with
      engine := { s.engine with
        requests := s.engine.requests.filter fun y => y != x, wb := some ⟨x, sp.code, true, .ask⟩
        service := some (.writing x (sparesChanged x i s.spares)), airChanged := true }
      air := m.air, spares := spareTaken x i s.spares, swapAnswers := s.swapAnswers ++ [⟨x, true⟩], status := m.status
      lines := w.lines, watch := w.watch } := by
    let told := fun y : State => ({ y.answerSwap x true with
      engine := { (y.answerSwap x true).engine with
        wb := some ⟨x, sp.code, true, .ask⟩
        service := some (.writing x (sparesChanged x i s.spares)), airChanged := true } } : State)
    have htold : t = told w := by
      show s.applySwap e i sp = _
      unfold State.applySwap
      rw [hid]
    exact htold.trans ((congrArg told hw).trans (congrArg (fun y : State =>
      told { y with spares := spareTaken x i y.spares, lines := w.lines, watch := w.watch }) hm))
  have hspares : ∀ j, (spareTaken x i s.spares)[j]? = _ := getElem?_spareTaken x i s.spares
  rw [ht]
  refine ⟨hentry, hothers, ?_, ?_, fun j q hj hq => ?_, rfl, hmarks, fun hnone => ?_, fun r hr => ?_, rfl, rfl⟩
  · simp [spareTaken]
  · rw [hspares, hi]
    simp
  · rw [hspares, hq]
    simp [hj]
  · have hwv : w = v := by
      show v.liveTune x sp.code e.rack = v
      rw [hnone]
      rfl
    exact ⟨(congrArg State.lines hwv).trans (congrArg State.lines hm :),
      (congrArg State.watch hwv).trans (congrArg State.watch hm :)⟩
  · intro tune
    obtain ⟨htakes, hholds⟩ := v.liveTune_of_rack x sp.code r
    have hwr : w = v.liveTune x sp.code (some r) := by rw [← hr]
    have hline : ∀ j, v.line j = s.line j := fun j => by
      show m.line j = s.line j
      rw [hm]
      rfl
    have hlines : v.lines = s.lines := (congrArg State.lines hm :)
    have hwatch : v.watch = s.watch := (congrArg State.watch hm :)
    rw [hline] at htakes hholds
    refine ⟨fun h => ⟨?_, ?_⟩, fun h => ⟨?_, fun j hj => ?_, ?_⟩⟩
    · exact (congrArg State.lines (hwr.trans (hholds h)) :).trans hlines
    · refine (congrArg State.watch (hwr.trans (hholds h)) :).trans ?_
      rw [hwatch]
    · exact (congrArg State.watch (hwr.trans (htakes h)) :).trans hwatch
    · exact (congrArg (fun y : State => y.line j) (hwr.trans (htakes h)) :).trans
        ((v.line_onLine r.line j _).trans ((if_neg hj).trans (hline j)))
    · refine (congrArg (fun y : State => y.line r.line) (hwr.trans (htakes h)) :).trans ?_
      rw [State.line_onLine_same, hline]

/-- Settles O28: the service of a swap request. -/
theorem swapServiceMovesCarrierOrAnswersNoSpare : Obligations.SwapServiceMovesCarrierOrAnswersNoSpare := by
  unfold Obligations.SwapServiceMovesCarrierOrAnswersNoSpare
  intro gone
  refine ⟨fun x rest s hreq => ⟨fun h => ?_, fun e he h => State.serveHead_of_search hreq he h⟩,
    fun x next s hnone => ⟨fun h => ?_, fun h => ?_⟩, fun e next i sp s h => ?_, fun e next s => ?_,
    fun x next i e sp s he h hreading => ?_, fun x next i e sp r s hs he h hreading => ?_, fun x changed a s u h => ?_⟩
  · exact State.serveHead_of_refused hreq h
  · rw [State.serviceStep_of_none hnone]
    exact if_pos h
  · rw [State.serviceStep_of_none hnone]
    exact if_neg h
  · intro meets
    obtain ⟨hle, hat, hfits, hbefore⟩ := State.nextTry_some h
    refine ⟨hle, hat, (sp.fits_iff e).1 hfits, fun j q hj hlt hq hm => ?_⟩
    have hfits' := (q.fits_iff e).2 hm
    rw [hbefore j q hj hlt hq] at hfits'
    cases hfits'
  · rw [State.nextTry_none]
    refine forall₄_congr fun j q hj hq => ?_
    rw [← Spare.fits_iff, Bool.not_eq_true]
  · obtain ⟨-, -, hfits, -⟩ := State.nextTry_some h
    obtain ⟨-, -, htest⟩ := (sp.fits_iff e).1 hfits
    rw [State.serviceStep_of_some he h, State.withBins_of_none hreading, guardBins_eq ((test1_iff ..).1 htest).1]
  · intro fits t
    obtain ⟨-, hat, -, -⟩ := State.nextTry_some h
    obtain ⟨hid, -⟩ := State.onAirEntry_some_iff he
    let v : State := { s with engine := { s.engine with reading := none } }
    have hqualifies : v.qualifies e sp r.taken = true ↔ fits := by
      unfold State.qualifies
      rw [Option.isNone_iff_eq_none, State.others_eq, hid, AirEntry.tx, hid]
      rfl
    have ht : t = if v.qualifies e sp r.taken then v.swapChosen e i sp else v.setService (some (.search x (i + 1))) := by
      show s.serviceStep x next = _
      rw [State.serviceStep_of_some he h, State.withBins_of_some hreading]
    refine ⟨fun hfits => ?_, fun hfits hgone => ?_, fun hfits hlisted => ?_⟩
    · rw [ht, if_neg fun g => hfits (hqualifies.1 g)]
      rfl
    · rw [ht, if_pos (hqualifies.2 hfits), State.swapChosen, hid, if_neg hgone]
      rfl
    · rw [if_pos (hqualifies.2 hfits), State.swapChosen, hid, if_pos hlisted] at ht
      rw [ht]
      obtain ⟨h1, h2, h3, h4, h5, h6, h7, h8, h9, h10, h11⟩ :=
        State.applySwap_spec (s := v) hs (State.airEntry_of_onAirEntry hs he) hat
      refine ⟨h1, h2, h3, h4, h5, h6, h7, h8, h9, ⟨sparesChanged x i s.spares, h10, fun q hq => ?_, fun j => ?_⟩, ?_⟩
      · obtain ⟨j, -, hj, -⟩ := (mem_sparesChanged x i s.spares q).1 hq
        exact ⟨j, hj⟩
      · rw [mem_sparesChanged, Option.bind_eq_some_iff]
        constructor
        · rintro ⟨k, q, hk, hq, hch⟩
          obtain rfl : j = k := by simpa using hk
          obtain rfl | huser := hch
          · exact .inl ⟨rfl, (List.getElem?_eq_some_iff.1 hat).1⟩
          · exact .inr ⟨q, hq, huser⟩
        · rintro (⟨rfl, -⟩ | ⟨q, hq, huser⟩)
          · exact ⟨j, sp, rfl, hat, .inl rfl⟩
          · exact ⟨j, q, rfl, hq, .inr huser⟩
      · exact (congrArg (fun y : State => { y with engine := s.engine }) h11 :)
  · refine ⟨((u.setService none).mark (.carrier x)).markAll changed, ?_, ?_, ?_, ?_⟩
    · unfold State.swapMicro
      rw [h]
    · rw [State.markAll_eq]
      simp
    · refine marksAdded.congr ((State.mark_marksAdded (u.setService none) (.carrier x)).trans (State.markAll_marksAdded _ _)) fun r => Iff.rfl
    · rw [State.markAll_eq, State.mark_eq]
      rfl

end Sys2Proof.Machine
end

section
/-! CHECK: its victims and spares, their conflicts, the records that it writes, and its ends (R94 to R96). -/

namespace Sys2Proof.Machine

/-! ### Conflict records (R16) -/

theorem conflictKindCode_eq (k : ConflictKind) : conflictKindCode k = kindRank k := by cases k <;> rfl

/-- The two bytes of a 16-bit value, the lower first. -/
theorem twoBytes_toNat (p : BitVec 16) : twoBytes p.toNat = [p.extractLsb' 0 8, p.extractLsb' 8 8] := by
  have hlow : BitVec.ofNat 8 p.toNat = p.extractLsb' 0 8 := BitVec.eq_of_toNat_eq (by simp)
  have hhigh : BitVec.ofNat 8 (p.toNat / 256) = p.extractLsb' 8 8 :=
    BitVec.eq_of_toNat_eq (by simp [Nat.shiftRight_eq_div_pow])
  rw [twoBytes, hlow, hhigh]

theorem Conflict.bytes_eq (c : Conflict) : c.bytes = conflictRecord c := by
  unfold Conflict.bytes conflictRecord
  rw [conflictKindCode_eq, halfBytes_eq, halfBytes_eq, halfBytes_eq, halfBytes_eq, halfBytes_eq, twoBytes_toNat]
  simp [oneByte, clampWeight]

theorem length_conflictRecord (c : Conflict) : (conflictRecord c).length = 16 := rfl

/-- A victim's conflicts have been found (R96): they are counted, and written while room is left. -/
theorem State.checkStep_spec (u : State) (o : EngineOrder) (k : StepKind) (l : List Conflict) :
    let records := (l.take (min (o.body.capacity / 16) 65535 - o.written)).map conflictRecord
    let address := o.body.result + 16 * o.written
    let o' := { o with found := o.found + l.length, last := k }
    (records = [] → u.checkStep o k l = stepEnded u o' k) ∧
    ∀ d rest, records = d :: rest → u.allowed true address 16 = true → d.length = 16 ∧
      u.checkStep o k l = { u with
        engine := { u.engine with order := some o', pos := .conflictWait records }
        port := { u.port with transfers := u.port.transfers ++ [⟨.engine, true, address, 16, d⟩] } } := by
  intro records address o'
  have hrecords : (l.take (o'.checkCapacity - o'.written)).map Conflict.bytes = records := by
    rw [show Conflict.bytes = conflictRecord from funext Conflict.bytes_eq]
    rfl
  unfold State.checkStep
  dsimp only
  split
  · rename_i hnil
    have hnil : records = [] := hrecords.symm.trans hnil
    exact ⟨fun _ => rfl, fun d rest h => absurd (hnil.symm.trans h) (by simp)⟩
  · rename_i b more hcons
    have hcons : records = b :: more := hrecords.symm.trans hcons
    have hb : b.length = 16 := by
      have hmem : b ∈ records := by simp [hcons]
      obtain ⟨c, -, rfl⟩ := List.mem_map.1 hmem
      rfl
    refine ⟨fun h => absurd (h.symm.trans hcons) (by simp), fun d rest h hallowed => ?_⟩
    obtain ⟨rfl, rfl⟩ : b = d ∧ more = rest := by simpa using hcons.symm.trans h
    have hwrite := State.presentWrite_of_allowed (s := u.setOrder o') .engine hb
      ((State.allowed_congr (s := u) rfl ..).trans hallowed)
    rw [hcons]
    exact ⟨hb, congrArg (fun x : State => x.setPos (.conflictWait (b :: more))) hwrite⟩

/-- A conflict record has been written, or has faulted (R72, R96). -/
theorem State.conflictWritten_of_more {s : State} {o : EngineOrder} {d e : List Byte} {rest : List (List Byte)}
    (bs : List Byte) (hallowed : s.allowed true (o.body.result + 16 * (o.written + 1)) e.length = true) :
    s.conflictWritten o (d :: e :: rest) (.ok bs) = { s with
      engine := { s.engine with
        order := some { o with written := o.written + 1 }, pos := .conflictWait (e :: rest) }
      port := { s.port with transfers := s.port.transfers ++
        [⟨.engine, true, o.body.result + 16 * (o.written + 1), e.length, e⟩] } } := by
  have hwrite := State.presentWrite_of_allowed (s := s.setOrder { o with written := o.written + 1 }) .engine rfl
    ((State.allowed_congr (s := s) rfl ..).trans hallowed)
  exact congrArg (fun x : State => x.setPos (.conflictWait (e :: rest))) hwrite

/-! ### Victims and spares (R94, R95) -/

theorem EngineOrder.inScope_iff (o : EngineOrder) (stage : Nat) :
    o.inScope stage = true ↔ o.body.p0 = 255 ∨ o.body.p0 = stage := by
  simp [EngineOrder.inScope]

/-- The lowest stage of a mask, if it names one (R6). -/
theorem lowestStage_eq_some_iff (mask : BitVec 12) (stage : Nat) :
    lowestStage mask = some stage ↔ mask.getLsbD stage = true ∧ ∀ k < stage, mask.getLsbD k = false := by
  have hstages : Config.stages = 12 := rfl
  unfold lowestStage
  rw [hstages, List.find?_range_eq_some]
  constructor
  · rintro ⟨hbit, -, hbelow⟩
    exact ⟨hbit, fun k hk => by simpa using hbelow k hk⟩
  · rintro ⟨hbit, hbelow⟩
    refine ⟨hbit, ?_, fun k hk => by simp [hbelow k hk]⟩
    by_contra hge
    have hout := BitVec.getLsbD_of_ge mask stage (by simpa using hge)
    rw [hbit] at hout
    cases hout

/-- An entry is a victim of a CHECK from its cursor on (R95). -/
def followsVictim (o : EngineOrder) (e : AirEntry) : Prop :=
  (o.body.p0 = 255 ∨ o.body.p0 = e.stage) ∧ ∀ c i, o.victim = some (c, i) → c < e.code ∨ c = e.code ∧ i < e.id

/-- The test that the search for the next victim makes. -/
def EngineOrder.takesVictim (o : EngineOrder) (e : AirEntry) : Bool :=
  o.inScope e.stage &&
    match o.victim with
    | none => true
    | some (c, i) => decide (c < e.code) || (decide (c = e.code) && decide (i < e.id))

theorem followsVictim_iff (o : EngineOrder) (e : AirEntry) : followsVictim o e ↔ o.takesVictim e = true := by
  unfold followsVictim EngineOrder.takesVictim
  rw [Bool.and_eq_true, EngineOrder.inScope_iff]
  refine and_congr_right fun _ => ?_
  cases hv : o.victim with
  | none => simp
  | some p =>
    obtain ⟨c, i⟩ := p
    simp

theorem State.nextVictim_eq (s : State) (o : EngineOrder) : s.nextVictim o = s.air.find? o.takesVictim := rfl

theorem State.nextVictim_none (s : State) (o : EngineOrder) :
    s.nextVictim o = none ↔ ∀ e ∈ s.air, ¬ followsVictim o e := by
  simp only [State.nextVictim_eq, List.find?_eq_none, followsVictim_iff]

theorem State.nextVictim_some {s : State} {o : EngineOrder} {e : AirEntry} (h : s.nextVictim o = some e) :
    ∃ n : Nat, s.air[n]? = some e ∧ followsVictim o e ∧
      ∀ (m : Nat) (x : AirEntry), m < n → s.air[m]? = some x → ¬ followsVictim o x := by
  rw [State.nextVictim_eq] at h
  obtain ⟨hp, n, hn, hat, hbefore⟩ := List.find?_eq_some_iff_getElem.1 h
  refine ⟨n, List.getElem?_eq_some_iff.2 ⟨hn, hat⟩, (followsVictim_iff o e).2 hp, fun m x hm hx hf => ?_⟩
  obtain ⟨hml, rfl⟩ := List.getElem?_eq_some_iff.1 hx
  have hnot := hbefore m hm
  rw [(followsVictim_iff o _).1 hf] at hnot
  cases hnot

/-- A spare, at its place in the list, is a victim from the cursor on (R94). -/
def EngineOrder.takesSpare (o : EngineOrder) (p : Spare × Nat) : Bool :=
  (match o.spareAt with
    | none => true
    | some i => decide (i < p.2)) && (o.spareStage p.1).isSome

theorem EngineOrder.spareStage_eq_some_iff (o : EngineOrder) (sp : Spare) (stage : Nat) :
    o.spareStage sp = some stage ↔ sp.state = .available ∧ sp.mask.getLsbD stage = true ∧
      (∀ k < stage, sp.mask.getLsbD k = false) ∧ (o.body.p0 = 255 ∨ o.body.p0 = stage) := by
  unfold EngineOrder.spareStage
  by_cases hav : sp.state = .available
  · rw [if_pos hav, Option.filter_eq_some_iff, lowestStage_eq_some_iff, EngineOrder.inScope_iff]
    simp [hav, and_assoc]
  · simp [hav]

theorem EngineOrder.takesSpare_iff (o : EngineOrder) (sp : Spare) (i : Nat) :
    o.takesSpare (sp, i) = true ↔ ∃ stage, o.spareStage sp = some stage ∧ spareVictim o sp i stage := by
  have hbehind : (match o.spareAt with
      | none => true
      | some j => decide (j < i)) = true ↔ ∀ j, o.spareAt = some j → j < i := by
    cases o.spareAt <;> simp
  unfold EngineOrder.takesSpare spareVictim
  rw [Bool.and_eq_true, Option.isSome_iff_exists]
  constructor
  · rintro ⟨hb, stage, hst⟩
    exact ⟨stage, hst, hbehind.1 hb, (o.spareStage_eq_some_iff sp stage).1 hst⟩
  · rintro ⟨stage, hst, hb, -⟩
    exact ⟨hbehind.2 hb, stage, hst⟩

theorem EngineOrder.takesSpare_of_spareVictim {o : EngineOrder} {sp : Spare} {i stage : Nat}
    (h : spareVictim o sp i stage) : o.takesSpare (sp, i) = true := by
  obtain ⟨hb, hst⟩ := h
  exact (o.takesSpare_iff sp i).2 ⟨stage, (o.spareStage_eq_some_iff sp stage).2 hst, hb, hst⟩

theorem State.nextSpare_eq (s : State) (o : EngineOrder) : s.nextSpare o = s.spares.zipIdx.find? o.takesSpare := rfl

theorem State.nextSpare_none (s : State) (o : EngineOrder) : s.nextSpare o = none ↔
    ∀ (i : Nat) (sp : Spare) (stage : Nat), s.spares[i]? = some sp → ¬ spareVictim o sp i stage := by
  rw [State.nextSpare_eq, find?_zipIdx_none]
  constructor
  · intro h i sp stage hsp hv
    have htakes := EngineOrder.takesSpare_of_spareVictim hv
    rw [h i sp hsp] at htakes
    cases htakes
  · intro h i sp hsp
    refine Bool.eq_false_iff.2 fun htakes => ?_
    obtain ⟨stage, -, hv⟩ := (o.takesSpare_iff sp i).1 htakes
    exact h i sp stage hsp hv

theorem State.nextSpare_some {s : State} {o : EngineOrder} {p : Spare × Nat} (h : s.nextSpare o = some p) :
    s.spares[p.2]? = some p.1 ∧ (∃ stage, o.spareStage p.1 = some stage ∧ spareVictim o p.1 p.2 stage) ∧
      ∀ (j : Nat) (q : Spare) (stage : Nat), j < p.2 → s.spares[j]? = some q → ¬ spareVictim o q j stage := by
  obtain ⟨sp, i⟩ := p
  rw [State.nextSpare_eq] at h
  obtain ⟨hp, hat, hbefore⟩ := find?_zipIdx_some h
  refine ⟨hat, (o.takesSpare_iff sp i).1 hp, fun j q stage hj hq hv => ?_⟩
  have htakes := EngineOrder.takesSpare_of_spareVictim hv
  rw [hbefore j q hj hq] at htakes
  cases htakes

/-! ### A step of a CHECK (R95) -/

theorem State.victimStep_of_some {s : State} {o : EngineOrder} {e : AirEntry} (h : s.nextVictim o = some e) :
    s.victimStep o = s.withBins e.code fun s taken =>
      s.checkStep { o with victim := some (e.code, e.id) } .victim (s.entryConflicts e taken) := by
  unfold State.victimStep
  rw [h]

theorem State.victimStep_of_none {s : State} {o : EngineOrder} (h : s.nextVictim o = none) : s.victimStep o =
    if o.body.p1.testBit 0 = true then s.spareStep { o with phase := .spares } else s.endCheck o := by
  unfold State.victimStep
  rw [h]
  rfl

theorem State.spareStep_of_some {s : State} {o : EngineOrder} {sp : Spare} {i stage : Nat}
    (h : s.nextSpare o = some (sp, i)) (hst : o.spareStage sp = some stage) :
    s.spareStep o = s.withBins sp.code fun s taken =>
      s.checkStep { o with spareAt := some i } .spare (s.spareConflicts sp stage taken) := by
  unfold State.spareStep
  rw [h]
  dsimp only
  rw [hst]
  rfl

theorem State.spareStep_of_none {s : State} {o : EngineOrder} (h : s.nextSpare o = none) : s.spareStep o = s.endCheck o := by
  unfold State.spareStep
  rw [h]

/-- A CHECK has no outcome list. -/
theorem State.finish_of_check {o : EngineOrder} (hk : o.kind = .check) (hout : o.outcomes = []) (s : State)
    (failed : Bool) (r : ResultCode) (c1 c2 : Nat) :
    s.finish o failed r c1 c2 = handedOver s ⟨o.slot, failed, r, c1, c2⟩ := by
  refine State.finish_of_no_outcomes ?_ s failed r c1 c2
  unfold EngineOrder.allOutcomes EngineOrder.items
  simp [hk, hout]

theorem State.endCheck_eq {o : EngineOrder} (hk : o.kind = .check) (hout : o.outcomes = []) (s : State) :
    s.endCheck o = handedOver s (checkEnd o) := State.finish_of_check hk hout s ..

/-- A spare is judged as an entry would be that stood in the Air Set at its stage with power 0 (R6). -/
theorem State.spareConflicts_eq {s : State} {sp : Spare} {stage : Nat} {e : AirEntry} {before behind : List AirEntry}
    (taken : Bool) (hnone : s.airEntry 65535 = none) (hid : e.id = 65535) (hcode : e.code = sp.code)
    (hstage : e.stage = stage) (hpower : e.power = 0) (hair : s.air = before ++ behind) :
    s.spareConflicts sp stage taken = State.entryConflicts { s with air := before ++ e :: behind } e taken := by
  have hothers : ∀ x ∈ s.air, (x.id != 65535) = true := fun x hx => by
    have := List.find?_eq_none.1 hnone x hx
    simpa using this
  have hrest : airRemove e.id (before ++ e :: behind) = s.air := by
    rw [hair] at hothers ⊢
    have hb : before.filter (fun x => x.id != 65535) = before :=
      List.filter_eq_self.2 fun x hx => hothers x (List.mem_append_left _ hx)
    have hc : behind.filter (fun x => x.id != 65535) = behind :=
      List.filter_eq_self.2 fun x hx => hothers x (List.mem_append_right _ hx)
    rw [airRemove, hid, List.filter_append, hb, List.filter_cons, hc]
    simp [hid]
  have htx : e.tx = ⟨65535, sp.code, stage, 0⟩ := by
    rw [AirEntry.tx, hid, hcode, hstage, hpower]
  rw [State.entryConflicts, hrest, htx, hid]
  rfl

/-! ### Reads and boundaries -/

theorem State.engineMicro_of_readsBins {s : State} {left : List Nat} {taken : Bool}
    (h : s.engine.reading = some ⟨left, taken⟩) (hleft : left ≠ []) :
    s.engineMicro = none := by
  have hreads : s.readsBins = true := by
    rw [State.readsBins, h]
    exact decide_eq_true hleft
  unfold State.engineMicro
  rw [if_pos hreads]

/-- The engine goes on with its order once the last bin of its range has been read (R106). -/
theorem State.engineMicro_of_readEnd {s : State} {o : EngineOrder} {taken : Bool} (hservice : s.engine.service = none)
    (hreading : s.engine.reading = some ⟨[], taken⟩) (ho : s.engine.order = some o) : s.engineMicro = s.orderMicro o := by
  have hreads : s.readsBins = false := by
    rw [State.readsBins, hreading]
    rfl
  unfold State.engineMicro
  rw [hreads, hservice, ho]
  rfl

theorem State.engineMicro_of_conflictWait {s : State} {o : EngineOrder} {left : List (List Byte)}
    (hservice : s.engine.service = none) (hreading : s.engine.reading = none) (ho : s.engine.order = some o)
    (hpos : s.engine.pos = .conflictWait left) (hmail : s.mail.engine = none) : s.engineMicro = none := by
  rw [State.engineMicro_of_order hservice hreading ho]
  unfold State.orderMicro
  rw [hpos]
  dsimp only
  rw [State.engineMail, hmail]
  rfl

/-- The bus is served without a transfer being lost or presented. -/
theorem State.serveBus_transfers (s : State) : s.serveBus.port.transfers = s.port.transfers :=
  (congrArg (fun x : State => x.port.transfers) s.serveBus_frame :)

theorem State.engineMicro_of_idle {s : State} (hservice : s.engine.service = none) (hreading : s.engine.reading = none)
    (ho : s.engine.order = none) (hrequests : s.engine.requests = []) : s.engineMicro = none := by
  unfold State.engineMicro
  rw [State.readsBins_of_none hreading, hservice, ho, hrequests]
  rfl

theorem binsAround_ne_nil {g code : Nat} (h : code ≤ 8959) : binsAround g code ≠ [] := by
  have hmem : code ∈ binsAround g code := by
    unfold binsAround
    rw [List.mem_filter, List.mem_range, decide_eq_true_eq]
    omega
  exact List.ne_nil_of_mem hmem

/-- A tick of the engine's reading, outside an order of the map (R106). -/
theorem step_of_reading {s : State} {b : Nat} {rest : List Nat} {taken : Bool} (hpending : s.pending = [])
    (hband : s.band = none) (hreading : s.engine.reading = some ⟨b :: rest, taken⟩) : step s = .next (State.serveBus
      (State.engineGo { s with
        engine := { s.engine with reading := some ⟨rest, taken || decide ((s.bin b).state ≠ .clear)⟩ } })) := by
  have hruns : s.bandRuns = false := by
    rw [State.bandRuns, hband]
    rfl
  have hreads : s.readsBins = true := by
    rw [State.readsBins, hreading]
    rfl
  have hread : s.readBin = { s with
      engine := { s.engine with reading := some ⟨rest, taken || decide ((s.bin b).state ≠ .clear)⟩ } } := by
    unfold State.readBin
    rw [hreading]
    rfl
  refine (step_nil s hpending).trans (congrArg Host.Outcome.next ?_)
  unfold State.tick State.working State.nextBin State.readTick
  rw [hruns, hreads, hread]
  rfl

/-- A boundary of a CHECK that goes on with the next victim. -/
theorem State.nextMove_of_victim {s : State} {o : EngineOrder} (hlast : o.last = .victim)
    (h : (s.nextVictim o).isSome = true) : s.nextMove o = (.step .victims, .same) := by
  unfold State.nextMove
  rw [hlast]
  exact if_pos h

theorem State.nextMove_of_lastVictim {s : State} {o : EngineOrder} (hlast : o.last = .victim)
    (h : s.nextVictim o = none) : s.nextMove o =
      if o.body.p1.testBit 0 = true ∧ (s.nextSpare o).isSome = true then (.step .spares, .next) else (.finish, .last) := by
  unfold State.nextMove
  rw [hlast, h]
  rfl

theorem State.nextMove_of_spare {s : State} {o : EngineOrder} (hlast : o.last = .spare) : s.nextMove o =
    if (s.nextSpare o).isSome then (.step .spares, .same) else (.finish, .last) := by
  unfold State.nextMove
  rw [hlast]

/-- The boundary after the last step of a CHECK ends it (R96). -/
theorem State.nextMove_of_over {s : State} {o : EngineOrder} (h : o.last = .spare ∧ s.nextSpare o = none ∨
    o.last = .victim ∧ s.nextVictim o = none ∧ (o.body.p1.testBit 0 = true → s.nextSpare o = none)) :
    s.nextMove o = (.finish, .last) := by
  obtain ⟨hlast, hnone⟩ | ⟨hlast, hnone, hspares⟩ := h
  · rw [State.nextMove_of_spare hlast, hnone]
    rfl
  · rw [State.nextMove_of_lastVictim hlast hnone]
    refine if_neg fun ⟨hwants, hsome⟩ => ?_
    rw [hspares hwants] at hsome
    cases hsome

theorem State.decideBoundary_of_checkOver {s : State} {o : EngineOrder} (hk : o.kind = .check) (hout : o.outcomes = [])
    (hfault : o.faultMark = false) (hahead : o.ahead = .last) (hover : o.last = .spare ∧ s.nextSpare o = none ∨
      o.last = .victim ∧ s.nextVictim o = none ∧ (o.body.p1.testBit 0 = true → s.nextSpare o = none)) :
    s.decideBoundary o = handedOver s (checkEnd o) := by
  rw [s.decideBoundary_of_goesOn hfault fun h => absurd hahead h, State.nextMove_of_over hover]
  show s.goOn o .finish = _
  unfold State.goOn
  rw [hk]
  exact State.endCheck_eq hk hout s

theorem State.decideBoundary_of_checkHalted {s : State} {o : EngineOrder} (hk : o.kind = .check) (hout : o.outcomes = [])
    (hfault : o.faultMark = false) (hahead : o.ahead ≠ .last) (hhalt : o.haltMark = true) :
    s.decideBoundary o = handedOver s ⟨o.slot, true, .halted, min 65535 o.found, o.written⟩ := by
  obtain ⟨-, -, -, hends⟩ := s.endFor_eq o .halted
  rw [s.decideBoundary_of_cause (.inr (.inl ⟨hfault, hahead, hhalt, rfl⟩)), hends hk, State.finish_of_check hk hout]

/-- A CHECK whose boundary is decided ends, with no outcome list to be written. -/
theorem exec_boundary_of_check {s : State} {o o' : EngineOrder} {c : Completion} (hpos : s.engine.pos = .boundary)
    (hservice : s.engine.service = none) (hreading : s.engine.reading = none) (hrequests : s.engine.requests = [])
    (ho : s.engine.order = some o)
    (hstop : ∀ t : State, t.nextMove o = s.nextMove o → t.boundaryStop o =
      { t with engine := { t.engine with order := some o', pos := .decide } })
    (hmove : State.nextMove { s with engine := { s.engine with pos := .serve, airChanged := false } } o = s.nextMove o)
    (hends : State.decideBoundary { s with engine := { s.engine with
      order := some o', pos := .decide, airChanged := false } } o' = handedOver { s with engine := { s.engine with
        order := some o', pos := .decide, airChanged := false } } c) :
    exec .engineStepBoundary s = .next (State.serveBus
      (handedOver { s with engine := { s.engine with airChanged := false } } c)) := by
  let s₁ : State := { s with engine := { s.engine with pos := .serve, airChanged := false } }
  let s₂ : State := { s with engine := { s.engine with order := some o', pos := .decide, airChanged := false } }
  have hfirst : s₁.engineMicro = some s₂ :=
    (State.engineMicro_of_serve (s := s₁) hservice hreading ho rfl hrequests).trans (congrArg some (hstop s₁ hmove))
  have hsecond : s₂.engineMicro = some (handedOver s₂ c) :=
    (State.engineMicro_of_decide (s := s₂) hservice hreading rfl rfl).trans (congrArg some hends)
  have hgo : s₁.engineGo = handedOver s₂ c :=
    State.engineGo_of_steps (.step hfirst (.step hsecond (.refl _))) (by decide)
      (State.engineMicro_of_idle hservice hreading rfl hrequests)
  refine (exec_engineStepBoundary hpos hservice).trans (congrArg (fun x : State => Host.Outcome.next x.serveBus) ?_)
  exact hgo

/-- A boundary of a CHECK that is not the last of its victims: the bins of the next one are to be read (R95). -/
theorem engineGo_of_nextVictim {s : State} {o : EngineOrder} {e : AirEntry}
    (hservice : s.engine.service = none) (hreading : s.engine.reading = none) (hrequests : s.engine.requests = [])
    (ho : s.engine.order = some o) (hpos : s.engine.pos = .serve) (hphase : o.phase = .victims) (hlast : o.last = .victim)
    (hfault : o.faultMark = false) (hhalt : o.haltMark = false) (hstop : o.stopMark = false) (hcount : o.stepCounter < 63)
    (he : s.nextVictim o = some e) (hcode : e.code ≤ 8959) : s.engineGo = { s with engine := { s.engine with
      order := some { o with ahead := .same, stepCounter := o.stepCounter + 1 }, pos := .step
      reading := some ⟨binsAround s.params.gocc e.code, false⟩ } } := by
  let o' := { o with ahead := Ahead.same, stepCounter := o.stepCounter + 1 }
  let s₁ : State := { s with engine := { s.engine with order := some o', pos := .decide } }
  let s₂ : State := { s with engine := { s.engine with order := some o', pos := .step } }
  have hmove : s.nextMove o = (.step .victims, .same) := State.nextMove_of_victim hlast (by simp [he])
  have hmove₁ : s₁.nextMove o' = (.step .victims, .same) :=
    State.nextMove_of_victim (s := s₁) (o := o') hlast (Option.isSome_iff_exists.2 ⟨e, he⟩)
  have hfirst : s.engineMicro = some s₁ := by
    rw [State.engineMicro_of_serve hservice hreading ho hpos hrequests,
      State.boundaryStop_of_same (by rw [hmove]) (by omega)]
  have hsecond : s₁.engineMicro = some s₂ := by
    refine (State.engineMicro_of_decide (s := s₁) hservice hreading rfl rfl).trans (congrArg some ?_)
    rw [State.decideBoundary_of_goesOn (o := o') s₁ hfault fun _ => ⟨hhalt, hstop⟩, hmove₁]
    show State.goOn s₁ o' (.step .victims) = _
    unfold State.goOn
    dsimp only
    rw [← hphase, EngineOrder.enter_self o']
    rfl
  have hbins : binsAround s.params.gocc e.code ≠ [] := binsAround_ne_nil hcode
  let s₃ : State := { s₂ with engine := { s₂.engine with reading := some ⟨binsAround s.params.gocc e.code, false⟩ } }
  have hthird : s₂.engineMicro = some s₃ := by
    refine (State.engineMicro_of_step (s := s₂) hservice hreading rfl rfl).trans (congrArg some ?_)
    have hstep : s₂.beginStep o' = s₂.victimStep o' := by
      unfold State.beginStep
      rw [show o'.phase = .victims from hphase]
    rw [hstep, State.victimStep_of_some (s := s₂) (o := o') he, State.withBins_of_none (s := s₂) hreading, guardBins_eq hcode]
  exact State.engineGo_of_steps (.step hfirst (.step hsecond (.step hthird (.refl _)))) (by decide)
    (State.engineMicro_of_readsBins (s := s₃) (taken := false) rfl hbins)

/-- Settles O21: a CHECK from its take to its end. -/
theorem checkEvaluatesNextVictim : Obligations.CheckEvaluatesNextVictim := by
  refine ⟨fun o s => ⟨s.nextVictim_none o, fun e h => State.nextVictim_some h, s.nextSpare_none o, fun p h => State.nextSpare_some h⟩,
    fun slot b halt s => ⟨rfl, rfl, rfl, rfl, rfl, rfl, rfl, rfl⟩,
    fun o s hk => ⟨fun e hphase he hcode hreading => ?_, fun hphase hnone hwants => ?_, fun h hout => ?_,
      fun sp i stage hphase hsp hst => ⟨fun hcode hreading => ?_, fun r hreading => ?_⟩⟩,
    fun o s hk hfault hmarks => ⟨fun hlast hphase hnone hwants hsome => ?_, fun hlast hphase hsome => ?_,
      fun hpos hservice hreading hrequests ho hout hover => ?_⟩,
    fun o e s hpos hservice hreading hrequests ho hk hphase hlast hfault hhalt hstop hcount he hcode => ?_,
    fun b rest taken s hpending hband hreading hrest => ?_,
    fun b taken o e s hpending hband hreading hservice ho hpos hmail hphase he => ?_,
    fun o d left s => ⟨rfl, fun bs h => ?_, fun bs e rest h hallowed => ?_⟩,
    fun o s hpos hservice hreading hrequests ho hk hout hlast hfault hhalt hcount hsome => ?_⟩
  · have hstep : s.beginStep o = s.victimStep o := by
      unfold State.beginStep
      rw [hphase]
    rw [hstep, State.victimStep_of_some he, State.withBins_of_none hreading, guardBins_eq hcode]
  · have hstep : s.beginStep o = s.victimStep o := by
      unfold State.beginStep
      rw [hphase]
    rw [hstep, State.victimStep_of_none hnone, if_pos hwants]
    rfl
  · have hends : s.beginStep o = s.endCheck o := by
      unfold State.beginStep
      obtain ⟨hphase, hnone⟩ | ⟨hphase, hnone, hwants⟩ := h
      · rw [hphase]
        exact State.spareStep_of_none hnone
      · rw [hphase]
        exact (State.victimStep_of_none hnone).trans (if_neg (by simp [hwants]))
    rw [hends, State.endCheck_eq hk hout]
  · have hstep : s.beginStep o = s.spareStep o := by
      unfold State.beginStep
      rw [hphase]
    rw [hstep, State.spareStep_of_some hsp hst, State.withBins_of_none hreading, guardBins_eq hcode]
  · intro conflicts records address u o'
    have hstep : s.beginStep o = u.checkStep { o with spareAt := some i } .spare conflicts := by
      have hspare : s.beginStep o = s.spareStep o := by
        unfold State.beginStep
        rw [hphase]
      rw [hspare, State.spareStep_of_some hsp hst, State.withBins_of_some hreading]
      rfl
    obtain ⟨hempty, hwritten⟩ := u.checkStep_spec { o with spareAt := some i } .spare conflicts
    rw [hstep]
    exact ⟨fun e before behind hnone hid hcode hstage hpower hair _ _ =>
      State.spareConflicts_eq r.taken hnone hid hcode hstage hpower hair, hempty, hwritten⟩
  · have hmove := State.nextMove_of_lastVictim hlast hnone
    rw [if_pos ⟨hwants, hsome⟩] at hmove
    rw [s.decideBoundary_of_goesOn hfault hmarks, hmove]
    show s.goOn o (.step .spares) = _
    unfold State.goOn EngineOrder.enter
    rw [hphase]
    rfl
  · have hmove := State.nextMove_of_spare (s := s) hlast
    rw [if_pos hsome] at hmove
    rw [s.decideBoundary_of_goesOn hfault hmarks, hmove, ← hphase]
    show s.goOn o (.step o.phase) = _
    unfold State.goOn
    dsimp only
    rw [EngineOrder.enter_self]
    rfl
  · have hmove := State.nextMove_of_over hover
    refine exec_boundary_of_check (o' := { o with ahead := .last }) hpos hservice hreading hrequests ho
      (fun t ht => State.boundaryStop_of_last (by rw [ht, hmove])) ?_ ?_
    · rw [hmove]
      exact State.nextMove_of_over hover
    · exact State.decideBoundary_of_checkOver (o := { o with ahead := .last }) hk hout hfault rfl hover
  · have hgo := engineGo_of_nextVictim (s := { s with engine := { s.engine with pos := .serve, airChanged := false } })
      hservice hreading hrequests ho rfl hphase hlast hfault hhalt hstop hcount he hcode
    refine ⟨{ o with ahead := .same, stepCounter := o.stepCounter + 1 }, _, exec_engineStepBoundary hpos hservice, ?_⟩
    rw [State.serveBus_port, hgo]
    exact ⟨rfl, rfl, rfl, rfl, rfl, rfl, rfl, rfl⟩
  · rw [step_of_reading hpending hband hreading]
    exact congrArg (fun t : State => Host.Outcome.next t.serveBus)
      (runMicro_none (State.engineMicro_of_readsBins (taken := taken || decide ((s.bin b).state ≠ .clear)) rfl hrest) _)
  · intro conflicts records address hallowed
    let r : BinRead := ⟨[], taken || decide ((s.bin b).state ≠ .clear)⟩
    let s₁ : State := { s with engine := { s.engine with reading := some r } }
    let u : State := { s with engine := { s.engine with reading := none } }
    let o₁ : EngineOrder := { o with victim := some (e.code, e.id) }
    have hfirst : s₁.engineMicro = some (u.checkStep o₁ .victim conflicts) := by
      rw [State.engineMicro_of_readEnd (s := s₁) hservice rfl ho]
      unfold State.orderMicro
      rw [show s₁.engine.pos = .step from hpos]
      refine congrArg some ?_
      have hstep : s₁.beginStep o = s₁.victimStep o := by
        unfold State.beginStep
        rw [hphase]
      rw [hstep, State.victimStep_of_some (s := s₁) he, State.withBins_of_some (s := s₁) rfl]
      rfl
    have hgo : ∀ v, u.checkStep o₁ .victim conflicts = v → v.engineMicro = none → step s = .next v.serveBus :=
      fun v hv hwait => (step_of_reading hpending hband hreading).trans
        (congrArg (fun t : State => Host.Outcome.next t.serveBus)
          (State.engineGo_of_steps (s := s₁) (.step (hfirst.trans (congrArg some hv)) (.refl _)) (by decide) hwait))
    let o' : EngineOrder := { o₁ with found := o.found + conflicts.length, last := .victim }
    obtain ⟨hempty, hwritten⟩ := u.checkStep_spec o₁ .victim conflicts
    cases hrecords : records with
    | nil =>
      let v : State := stepEnded u o' .victim
      refine ⟨o', v.serveBus, hgo v (hempty hrecords) (State.engineMicro_of_boundary hservice rfl rfl), ?_⟩
      rw [State.serveBus_transfers, State.serveBus_port]
      exact ⟨rfl, rfl, rfl, rfl, rfl, rfl, rfl, fun _ => ⟨rfl, rfl⟩, fun d rest h => by cases h⟩
    | cons d rest =>
      have hroom : s.allowed true address 16 = true := hallowed.resolve_left (by simp [hrecords])
      obtain ⟨hlength, hv⟩ := hwritten d rest hrecords hroom
      let v : State := { u with
        engine := { u.engine with order := some o', pos := .conflictWait records }
        port := { u.port with transfers := u.port.transfers ++ [⟨.engine, true, address, 16, d⟩] } }
      refine ⟨o', v.serveBus, hgo v hv (State.engineMicro_of_conflictWait (s := v) hservice rfl rfl rfl hmail), ?_⟩
      rw [State.serveBus_transfers, State.serveBus_port]
      refine ⟨rfl, rfl, rfl, rfl, rfl, rfl, rfl, (fun h => by cases h), fun d' rest' h => ?_⟩
      obtain ⟨rfl, rfl⟩ : d = d' ∧ rest = rest' := by simpa using h
      exact ⟨congrArg EnginePos.conflictWait hrecords, hlength, rfl⟩
  · subst h
    rfl
  · subst h
    exact State.conflictWritten_of_more bs hallowed
  · have hmove := State.nextMove_of_victim hlast hsome
    refine exec_boundary_of_check (o' := { o with ahead := .same, stepCounter := o.stepCounter + 1 }) hpos hservice
      hreading hrequests ho (fun t ht => State.boundaryStop_of_same (by rw [ht, hmove]) (by omega)) ?_ ?_
    · rw [hmove]
      exact State.nextMove_of_victim hlast hsome
    · exact State.decideBoundary_of_checkHalted (o := { o with ahead := .same, stepCounter := o.stepCounter + 1 }) hk hout
        hfault (by simp) hhalt

end Sys2Proof.Machine
end

section
/-! What a report entry does to a watch record (R146 to R148, R153), and how it stands to the answers of the engine
(log 7). -/

namespace Sys2Proof.Machine

/-! ### The record before a swap decision -/

/-- The watch record of a matched carrier after a report entry, before the swap decision that it may bring. -/
def preReported (p : WatchParams) (r : Report) (w : WatchRec) : WatchRec :=
  let w' := fieldsMoved r w
  if confirms p r w then { w' with state := .confirmed, run := 0, settle := 0 }
  else if w.state = .quiet ∨ w.state = .suspect then
    if badReport p r then { w' with state := .suspect, run := min 7 (w.run + 1) }
    else if w.state = .suspect then { w' with state := .quiet, run := 0, settle := 0 } else w'
  else if w.state = .settling then
    if w.settle ≤ 1 then { w' with state := .quiet, run := 0, settle := 0 } else { w' with settle := w.settle - 1 }
  else w'

/-- A record after its swap decision (R150). -/
def decidedRec (fate : WatchState) (w : WatchRec) : WatchRec :=
  if fate = .confirmed then w else { w with state := fate, run := 0, settle := 0 }

theorem confirms_state {p : WatchParams} {r : Report} {w : WatchRec} (h : confirms p r w = true) :
    w.state = .quiet ∨ w.state = .suspect := by
  simp only [confirms, Bool.and_eq_true, decide_eq_true_eq] at h
  exact h.1.1

/-- A report entry is the change of the record before the decision, and the decision. -/
theorem reported_eq (s : State) (r : Report) (added : List Nat) (e : AirEntry) (w : WatchRec) :
    reported s r added e w = if decides s.watch.params r w then
      decidedRec (swapFate s added e w) (preReported s.watch.params r w) else preReported s.watch.params r w := by
  unfold reported decides preReported decidedRec
  cases hc : confirms s.watch.params r w with
  | true =>
    have hstate : w.state ≠ .confirmed := by
      obtain h | h := confirms_state hc <;> simp [h]
    by_cases hfate : swapFate s added e w = .confirmed <;> simp [hstate, hfate]
  | false =>
    by_cases hstate : w.state = .confirmed
    · simp [hstate]
    · simp [hstate]

theorem fieldsMoved_answeredRec (r : Report) (b : Bool) (w : WatchRec) :
    fieldsMoved r (answeredRec b w) = answeredRec b (fieldsMoved r w) := by
  unfold answeredRec fieldsMoved
  by_cases h : w.state = .swapWait <;> cases b <;> simp [h]

theorem confirms_answeredRec (p : WatchParams) (r : Report) (b : Bool) (w : WatchRec) :
    confirms p r (answeredRec b w) = confirms p r w := by
  unfold answeredRec confirms
  by_cases h : w.state = .swapWait <;> cases b <;> simp [h]

theorem decides_answeredRec (p : WatchParams) (r : Report) (b : Bool) (w : WatchRec) :
    decides p r (answeredRec b w) = decides p r w := by
  unfold decides
  rw [confirms_answeredRec]
  unfold answeredRec
  by_cases h : w.state = .swapWait <;> cases b <;> simp [h]

/-- An answer and a report entry, before a decision, change a record in either order to the same. -/
theorem preReported_answeredRec (p : WatchParams) (r : Report) (b : Bool) (w : WatchRec) :
    preReported p r (answeredRec b w) = answeredRec b (preReported p r w) := by
  unfold preReported
  rw [confirms_answeredRec, fieldsMoved_answeredRec]
  by_cases hwait : w.state = .swapWait
  · have hc : confirms p r w = false := by simp [confirms, hwait]
    have hf : (fieldsMoved r w).state = .swapWait := hwait
    cases b <;> simp [hc, hwait, answeredRec]
  · have hstate : (answeredRec b w).state = w.state := by
      unfold answeredRec
      cases b <;> simp [hwait]
    have hrun : (answeredRec b w).run = w.run := by
      unfold answeredRec
      cases b <;> simp [hwait]
    have hsettle : (answeredRec b w).settle = w.settle := by
      unfold answeredRec
      cases b <;> simp [hwait]
    have hfields : ∀ v : WatchRec, v.state ≠ .swapWait → answeredRec b v = if b then { v with swaps := min 7 (v.swaps + 1) } else v :=
      fun v hv => by
        unfold answeredRec
        rw [if_neg hv]
    have hf : (fieldsMoved r w).state ≠ .swapWait := hwait
    rw [hstate, hrun, hsettle, hfields _ hf]
    dsimp only
    cases b <;> (repeat' split) <;> simp_all

/-- A report entry neither begins nor ends SWAP_WAIT before its decision. -/
theorem preReported_swapWait_iff (p : WatchParams) (r : Report) (w : WatchRec) :
    (preReported p r w).state = .swapWait ↔ w.state = .swapWait := by
  unfold preReported
  have hf : (fieldsMoved r w).state = w.state := rfl
  by_cases hwait : w.state = .swapWait
  · have hc : confirms p r w = false := by simp [confirms, hwait]
    simp [hc, hwait, hf]
  · dsimp only
    (repeat' split) <;> simp_all

/-! ### Changes of the Watch Unit with the status fields -/

/-- What a change of the Watch Unit's records brings about, beside what it writes of the carriers' kept fields. -/
structure ReportMoves (s t : State) (g : Nat → WatchRec → WatchRec) (named : RecId → Prop) (alerts : Prop) : Prop where
  records : ∀ id, t.watchRec id = (s.watchRec id).map (g id)
  rest : { t.watch with records := s.watch.records } = s.watch
  marks : marksJoined s t named
  status : { t.status with marks := s.status.marks, kept := s.status.kept } = s.status
  causes : ∀ c, t.hasCause c = true ↔ s.hasCause c = true ∨ c = .alert ∧ alerts

theorem WatchMoves.reportMoves {s t : State} {g : Nat → WatchRec → WatchRec} {named : RecId → Prop} {alerts : Prop}
    (h : WatchMoves s t g named alerts) : ReportMoves s t g named alerts where
  records := h.records
  rest := h.rest
  marks := h.marks.1
  status := congrArg (fun x : StatusWriter => { x with kept := s.status.kept }) h.marks.2
  causes := h.causes

namespace ReportMoves

variable {s t u : State} {g h : Nat → WatchRec → WatchRec} {p q : RecId → Prop} {a b : Prop}

theorem trans (hst : ReportMoves s t g p a) (htu : ReportMoves t u h q b) :
    ReportMoves s u (fun id w => h id (g id w)) (fun r => p r ∨ q r) (a ∨ b) where
  records id := by rw [htu.records, hst.records, Option.map_map]; rfl
  rest := (congrArg (fun x : Watch => { x with records := s.watch.records }) htu.rest).trans hst.rest
  marks r := by rw [htu.marks, hst.marks]; tauto
  status := (congrArg (fun x : StatusWriter => { x with marks := s.status.marks, kept := s.status.kept })
    htu.status).trans hst.status
  causes c := by rw [htu.causes, hst.causes]; tauto

theorem congr {g' : Nat → WatchRec → WatchRec} {p' : RecId → Prop} {a' : Prop} (hst : ReportMoves s t g p a)
    (hg : ∀ id w, s.watchRec id = some w → g id w = g' id w) (hp : ∀ r, p r ↔ p' r) (ha : a ↔ a') :
    ReportMoves s t g' p' a' where
  records id := by
    rw [hst.records]
    cases hw : s.watchRec id with
    | none => rfl
    | some w => exact congrArg some (hg id w hw)
  rest := hst.rest
  marks r := by rw [hst.marks, hp]
  status := hst.status
  causes c := by rw [hst.causes, ha]

/-- An answer taken before and after: what stands between is the same. -/
theorem takeAnswer (hst : ReportMoves s t g p a) (hg : ∀ id x w, g id (answeredRec x w) = answeredRec x (g id w))
    (hwait : ∀ id w, (g id w).state = .swapWait ↔ w.state = .swapWait) (x : SwapAnswer) :
    ReportMoves (s.takeAnswer x) (t.takeAnswer x) g p a := by
  have hs := s.takeAnswer_moves x
  have ht := t.takeAnswer_moves x
  have hnamed : ∀ P : Prop → Prop, (∃ w, t.watchRec x.id = some w ∧ P (w.state = .swapWait)) ↔
      ∃ w, s.watchRec x.id = some w ∧ P (w.state = .swapWait) := fun P => by
    rw [hst.records]
    cases hw : s.watchRec x.id with
    | none => simp
    | some w => simp [hwait]
  refine ⟨fun id => ?_, ?_, fun r => ?_, ?_, fun c => ?_⟩
  · rw [ht.records, hst.records, hs.records, Option.map_map, Option.map_map]
    refine congrArg (Option.map · _) (funext fun w => ?_)
    simp only [Function.comp_apply]
    split
    · exact (hg id x.swapped w).symm
    · rfl
  · calc { (t.takeAnswer x).watch with records := (s.takeAnswer x).watch.records }
        = { ({ (t.takeAnswer x).watch with records := t.watch.records } : Watch) with
            records := (s.takeAnswer x).watch.records } := rfl
      _ = { ({ t.watch with records := s.watch.records } : Watch) with records := (s.takeAnswer x).watch.records } := by
        rw [ht.rest]
      _ = { ({ (s.takeAnswer x).watch with records := s.watch.records } : Watch) with
            records := (s.takeAnswer x).watch.records } := by rw [hst.rest, hs.rest]
      _ = (s.takeAnswer x).watch := rfl
  · have hsame := hnamed fun wait =>
      r = .carrier x.id ∧ (x.swapped = true ∨ wait) ∨ r = .stage (x.id / 256) ∧ wait ∧ x.swapped = false
    have ht := ht.marks.1 r
    dsimp only at ht
    rw [hsame] at ht
    rw [ht, hs.marks.1 r, hst.marks r]
    exact or_right_comm
  · calc { (t.takeAnswer x).status with marks := (s.takeAnswer x).status.marks, kept := (s.takeAnswer x).status.kept }
        = { ({ (t.takeAnswer x).status with marks := t.status.marks } : StatusWriter) with
            marks := (s.takeAnswer x).status.marks, kept := (s.takeAnswer x).status.kept } := rfl
      _ = { ({ t.status with marks := s.status.marks, kept := s.status.kept } : StatusWriter) with
            marks := (s.takeAnswer x).status.marks, kept := (s.takeAnswer x).status.kept } := by rw [ht.marks.2]
      _ = { ({ (s.takeAnswer x).status with marks := s.status.marks } : StatusWriter) with
            marks := (s.takeAnswer x).status.marks, kept := (s.takeAnswer x).status.kept } := by
        rw [hst.status, hs.marks.2]
      _ = (s.takeAnswer x).status := rfl
  · have hsame := hnamed fun wait => wait ∧ x.swapped = false
    rw [ht.causes, hs.causes, hst.causes, hsame]
    exact or_right_comm

theorem foldl_takeAnswer (hst : ReportMoves s t g p a) (hg : ∀ id x w, g id (answeredRec x w) = answeredRec x (g id w))
    (hwait : ∀ id w, (g id w).state = .swapWait ↔ w.state = .swapWait) (l : List SwapAnswer) :
    ReportMoves (l.foldl State.takeAnswer s) (l.foldl State.takeAnswer t) g p a := by
  induction l generalizing s t with
  | nil => exact hst
  | cons x l ih => exact ih (hst.takeAnswer hg hwait x)

/-- The answers taken before and after: what stands between is the same. -/
theorem takeAnswers (hst : ReportMoves s t g p a) (hg : ∀ id x w, g id (answeredRec x w) = answeredRec x (g id w))
    (hwait : ∀ id w, (g id w).state = .swapWait ↔ w.state = .swapWait) (ha : t.swapAnswers = s.swapAnswers) :
    ReportMoves s.takeAnswers t.takeAnswers g p a := by
  have hbase : ReportMoves { s with swapAnswers := [] } { t with swapAnswers := [] } g p a :=
    ⟨hst.records, hst.rest, hst.marks, hst.status, hst.causes⟩
  unfold State.takeAnswers
  rw [ha]
  exact hbase.foldl_takeAnswer hg hwait s.swapAnswers

end ReportMoves

/-- The answers leave the kept fields, and each record as a run of answers leaves it. -/
theorem State.takeAnswers_records (s : State) (id : Nat) :
    ∃ bs : List Bool, s.takeAnswers.watchRec id = (s.watchRec id).map fun w => bs.foldl (fun w b => answeredRec b w) w := by
  unfold State.takeAnswers
  refine foldl_inv (fun t : State => ∃ bs : List Bool, t.watchRec id =
    (s.watchRec id).map fun w => bs.foldl (fun w b => answeredRec b w) w) (fun t a ht => ?_) _ _ ⟨[], by simp [State.watchRec]⟩
  obtain ⟨bs, hbs⟩ := ht
  rw [(t.takeAnswer_moves a).records, hbs, Option.map_map]
  by_cases hid : id = a.id
  · refine ⟨bs ++ [a.swapped], ?_⟩
    simp [hid, Function.comp_def]
  · exact ⟨bs, by simp [hid, Function.comp_def]⟩

end Sys2Proof.Machine
end

section
/-! A report entry at the Watch Unit: the fields last written, the count towards confirmation, and the swap decision
(R146 to R150, R153). -/

namespace Sys2Proof.Machine

theorem ReportMoves.causes_of_quiet {s t : State} {g : Nat → WatchRec → WatchRec} {named : RecId → Prop}
    (h : ReportMoves s t g named False) : t.causes = s.causes := by
  refine BitVec.eq_of_getLsbD_eq fun i hi => ?_
  obtain ⟨c, rfl⟩ := exists_causeIndex_eq hi
  exact Bool.eq_iff_iff.2 ((h.causes c).trans (by simp [State.hasCause]))

/-- A state is itself with the parts that a report entry changes. -/
theorem ReportMoves.refl (s : State) : ReportMoves s s (fun _ w => w) (fun _ => False) False :=
  (WatchMoves.refl s).reportMoves

/-! ### The fields last written (R146) -/

theorem moved_rf_iff (w : WatchRec) (r : Report) :
    moved w.lastRf r.rf 4 = true ↔ (fieldsMoved r w).lastRf ≠ w.lastRf := by
  unfold moved fieldsMoved
  cases h : w.lastRf with
  | none => simp
  | some o =>
    by_cases hm : o + 4 ≤ r.rf ∨ r.rf + 4 ≤ o
    · simp [hm]
      omega
    · simp [hm]

theorem moved_errors_iff (w : WatchRec) (r : Report) :
    moved w.lastErrors r.errors 1 = true ↔ (fieldsMoved r w).lastErrors ≠ w.lastErrors := by
  unfold moved fieldsMoved
  cases h : w.lastErrors with
  | none => simp
  | some o =>
    by_cases hm : o = r.errors
    · simp [hm]
    · simp [hm, Ne.symm hm]

/-- A field of a record is written anew, in the record and in the carrier's kept fields, if the condition holds. -/
theorem State.fieldWritten_spec (s : State) (id : Nat) (c : Bool) (f : WatchRec → WatchRec) (v : Kept)
    (hf : ∀ w, (f w).id = w.id) : let t := if c then (s.onRec id f).keep id v else s
    ReportMoves s t (fun j w => if j = id ∧ c = true then f w else w) (fun q => q = .carrier id ∧ c = true) False ∧
    (∀ j, t.kept j = if (j = id ∧ recordExists (.carrier id) = true) ∧ c = true then v else s.kept j) ∧
    t = { s with watch := t.watch, status := t.status } := by
  intro t
  cases c with
  | false => exact ⟨(ReportMoves.refl s).congr (by simp) (by simp) Iff.rfl, by simp [t], rfl⟩
  | true =>
    let u := s.onRec id f
    have ht : t = u.keep id v := rfl
    obtain ⟨hkept, hmarks, hstatus, hframe⟩ := u.keep_spec id v
    have hall : t = { s with watch := u.watch, status := t.status } :=
      (congrArg (fun x : State => { x with status := t.status }) hframe :)
    have hwatch : t.watch = u.watch := (congrArg State.watch hall :)
    refine ⟨⟨fun j => ?_, ?_, fun q => (hmarks q).trans (by simp [u]), hstatus, fun c => ?_⟩,
      fun j => (hkept j).trans ?_, ?_⟩
    · rw [State.watchRec_congr hwatch, s.watchRec_onRec id f hf]
      simp
    · rw [hwatch]
      rfl
    · rw [State.hasCause, (congrArg State.causes hall :)]
      simp [State.hasCause]
    · exact if_congr (by simp) rfl rfl
    · rw [hwatch]
      exact hall

theorem lastRf_fieldsMoved (r : Report) (w : WatchRec) : (fieldsMoved r w).lastRf =
    if (fieldsMoved r w).lastRf ≠ w.lastRf then some r.rf else w.lastRf := by
  unfold fieldsMoved
  dsimp only
  (repeat' split) <;> simp_all

theorem lastErrors_fieldsMoved (r : Report) (w : WatchRec) : (fieldsMoved r w).lastErrors =
    if (fieldsMoved r w).lastErrors ≠ w.lastErrors then some r.errors else w.lastErrors := by
  unfold fieldsMoved
  dsimp only
  (repeat' split) <;> simp_all

/-- The fields last written of a matched carrier (R146). -/
theorem State.reportFields_spec {s : State} {id : Nat} {w : WatchRec} (r : Report) (hw : s.watchRec id = some w) :
    let u := s.reportFields w r
    let v := fieldsMoved r w
    ReportMoves s u (fun j x => if j = id then fieldsMoved r x else x)
      (fun q => q = .carrier id ∧ (v.lastRf ≠ w.lastRf ∨ v.lastErrors ≠ w.lastErrors)) False ∧
    (∀ j, u.kept j = if j = id ∧ recordExists (.carrier id) = true then { s.kept id with
        lastRf := if v.lastRf = w.lastRf then (s.kept id).lastRf else r.rf
        lastErrors := if v.lastErrors = w.lastErrors then (s.kept id).lastErrors else r.errors } else s.kept j) ∧
    u = { s with watch := u.watch, status := u.status } := by
  intro u v
  have hid : w.id = id := State.watchRec_id hw
  obtain ⟨hmoves₁, hkept₁, hframe₁⟩ := s.fieldWritten_spec w.id (moved w.lastRf r.rf 4)
    (fun x => { x with lastRf := some r.rf }) { s.kept w.id with lastRf := r.rf } fun _ => rfl
  let s₁ := if moved w.lastRf r.rf 4 then
    (s.onRec w.id fun x => { x with lastRf := some r.rf }).keep w.id { s.kept w.id with lastRf := r.rf } else s
  obtain ⟨hmoves₂, hkept₂, hframe₂⟩ := s₁.fieldWritten_spec w.id (moved w.lastErrors r.errors 1)
    (fun x => { x with lastErrors := some r.errors }) { s₁.kept w.id with lastErrors := r.errors } fun _ => rfl
  have hu : u = if moved w.lastErrors r.errors 1 then (s₁.onRec w.id fun x => { x with lastErrors := some r.errors }).keep
    w.id { s₁.kept w.id with lastErrors := r.errors } else s₁ := rfl
  change ReportMoves s s₁ _ _ _ at hmoves₁
  change ∀ j, s₁.kept j = _ at hkept₁
  change s₁ = { s with watch := s₁.watch, status := s₁.status } at hframe₁
  rw [← hu] at hmoves₂ hkept₂ hframe₂
  simp only [hid, moved_rf_iff, moved_errors_iff] at hmoves₁ hkept₁ hmoves₂ hkept₂
  have hrf : v.lastRf = if v.lastRf ≠ w.lastRf then some r.rf else w.lastRf := lastRf_fieldsMoved r w
  have herrors : v.lastErrors = if v.lastErrors ≠ w.lastErrors then some r.errors else w.lastErrors :=
    lastErrors_fieldsMoved r w
  refine ⟨(hmoves₁.trans hmoves₂).congr (fun j x hx => ?_) (fun q => by tauto) (by simp), fun j => ?_, ?_⟩
  · by_cases hj : j = id
    · subst hj
      obtain rfl : w = x := Option.some.inj (hw.symm.trans hx)
      have hifs : ∀ a b : Prop, [Decidable a] → [Decidable b] →
          (if w.id = w.id ∧ b then { (if w.id = w.id ∧ a then { w with lastRf := some r.rf } else w) with
              lastErrors := some r.errors } else if w.id = w.id ∧ a then { w with lastRf := some r.rf } else w) =
            { w with
              lastRf := if a then some r.rf else w.lastRf
              lastErrors := if b then some r.errors else w.lastErrors } := fun a b _ _ => by
        by_cases ha : a <;> by_cases hb : b <;> simp only [ha, hb, and_self, and_false, if_true, if_false]
      have hv : v = { w with lastRf := v.lastRf, lastErrors := v.lastErrors } := rfl
      rw [hrf, herrors] at hv
      rw [if_pos rfl]
      refine Eq.trans ?_ hv.symm
      exact hid ▸ hifs _ _
    · simp [hj]
  · rw [hkept₂, hkept₁, hkept₁]
    by_cases hj : j = id
    · by_cases hex : recordExists (.carrier id) = true
      · by_cases h₁ : v.lastRf = w.lastRf <;> by_cases h₂ : v.lastErrors = w.lastErrors <;>
          simp only [hj, hex, h₁, h₂, v, ne_eq, not_true, not_false_eq_true, and_self, and_false, if_true, if_false]
      · simp [hex]
    · simp [hj]
  · rw [hframe₂, hframe₁]

/-! ### The count towards confirmation (R147 to R149, R153) -/

theorem classify_eq_good_iff (p : WatchParams) (r : Report) : classify p r = .good ↔ badReport p r = false := by
  unfold classify badReport
  (repeat' split) <;> simp_all

theorem classify_eq_badForeign_iff (p : WatchParams) (r : Report) :
    classify p r = .badForeign ↔ badReport p r = true ∧ r.pilot = false := by
  unfold classify badReport
  (repeat' split) <;> simp_all

/-- A bad report entry is counted: the carrier is in SUSPECT with its run (R148). -/
def State.suspected (s : State) (id : Nat) (w : WatchRec) : State :=
  let t := s.onRec id fun x => { x with state := .suspect, run := min 7 (w.run + 1) }
  if w.state = .suspect then t else t.mark (.carrier id)

theorem State.suspected_moves (s : State) (id : Nat) (w : WatchRec) : WatchMoves s (s.suspected id w)
    (fun j x => if j = id then { x with state := .suspect, run := min 7 (w.run + 1) } else x)
    (fun q => q = .carrier id ∧ w.state ≠ .suspect) False := by
  have hrec := s.onRec_moves id (fun x => { x with state := .suspect, run := min 7 (w.run + 1) }) fun _ => rfl
  unfold State.suspected
  dsimp only
  split
  · rename_i h
    exact hrec.congr (fun _ _ _ => rfl) (by simp [h]) Iff.rfl
  · rename_i h
    exact (hrec.trans (State.mark_moves _ (.carrier id))).congr (fun _ _ _ => rfl) (by simp [h]) (by simp)

/-- A matched carrier after a report entry, before the map is marked and before the swap decision. -/
def State.counted (s : State) (r : Report) (e : AirEntry) (w : WatchRec) : State :=
  let u := s.reportFields w r
  if confirms s.watch.params r w then (u.suspected e.id w).watchTo e.id .confirmed 0
  else if w.state = .quiet ∨ w.state = .suspect then
    if badReport s.watch.params r then u.suspected e.id w
    else if w.state = .suspect then u.watchTo e.id .quiet 0 else u
  else if w.state = .settling then
    if w.settle ≤ 1 then u.watchTo e.id .quiet 0 else u.onRec e.id fun x => { x with settle := w.settle - 1 }
  else u

/-- A matched carrier after a report entry, but for the swap decision that it may bring. -/
def State.preReport (s : State) (r : Report) (e : AirEntry) (w : WatchRec) : State :=
  let u := s.counted r e w
  if r.pilot = false ∧ confirms s.watch.params r w = true then u.watchMark e.code else u

theorem State.counted_of_confirms {s : State} {r : Report} {e : AirEntry} {w : WatchRec}
    (hc : confirms s.watch.params r w = true) :
    s.counted r e w = ((s.reportFields w r).suspected e.id w).watchTo e.id .confirmed 0 := if_pos hc

theorem State.preReport_of_not_confirms {s : State} {r : Report} {e : AirEntry} {w : WatchRec}
    (hc : ¬ confirms s.watch.params r w = true) : s.preReport r e w = s.counted r e w := if_neg fun h => hc h.2

/-- A report entry counted in QUIET or SUSPECT: its change before the decision, and the first decision. -/
theorem State.countReport_eq {s : State} {r : Report} {e : AirEntry} {w : WatchRec} (hw : s.watchRec e.id = some w)
    (hstate : w.state = .quiet ∨ w.state = .suspect) :
    (s.reportFields w r).countReport e w (classify s.watch.params r) =
      if confirms s.watch.params r w then (s.preReport r e w).swapDecision e else s.preReport r e w := by
  obtain ⟨hmoves, -, -⟩ := State.reportFields_spec r hw
  have hparams : (s.reportFields w r).watch.params = s.watch.params := (congrArg Watch.params hmoves.rest :)
  unfold State.countReport
  rw [hparams]
  dsimp only
  by_cases hgood : classify s.watch.params r = .good
  · have hbad := (classify_eq_good_iff _ r).1 hgood
    have hc : confirms s.watch.params r w = false := by simp [confirms, hbad]
    simp [hgood, State.preReport, State.counted, hc, hstate, hbad]
  · have hbad : badReport s.watch.params r = true :=
      Bool.of_not_eq_false fun h => hgood ((classify_eq_good_iff _ r).2 h)
    have hforeign : classify s.watch.params r = .badForeign ↔ r.pilot = false := by
      rw [classify_eq_badForeign_iff, hbad]
      simp
    have hc : confirms s.watch.params r w = true ↔ s.watch.params.confirm ≤ min 7 (w.run + 1) := by
      simp [confirms, hstate, hbad]
    rw [if_neg hgood]
    by_cases hrun : s.watch.params.confirm ≤ min 7 (w.run + 1)
    · have hall : r.pilot = false ∧ confirms s.watch.params r w = true ↔ r.pilot = false := and_iff_left (hc.2 hrun)
      rw [if_pos hrun, if_pos (hc.2 hrun)]
      unfold State.confirm State.preReport
      simp only [hforeign, hall, State.counted_of_confirms (hc.2 hrun)]
      rfl
    · have hnot : ¬ confirms s.watch.params r w = true := fun h => hrun (hc.1 h)
      rw [if_neg hrun, if_neg hnot, State.preReport_of_not_confirms hnot, State.counted, if_neg hnot, if_pos hstate,
        if_pos hbad]
      rfl

/-- A report entry for one matched carrier is its change before the decision, and the decision. -/
theorem State.reportTo_eq {s : State} {r : Report} {e : AirEntry} {w : WatchRec} (hw : s.watchRec e.id = some w) :
    s.reportTo r e = if decides s.watch.params r w then (s.preReport r e w).swapDecision e else s.preReport r e w := by
  obtain ⟨hmoves, -, -⟩ := State.reportFields_spec r hw
  have hparams : (s.reportFields w r).watch.params = s.watch.params := (congrArg Watch.params hmoves.rest :)
  have hcount : w.state = .quiet ∨ w.state = .suspect →
      (s.reportFields w r).countReport e w (classify s.watch.params r) =
        if decides s.watch.params r w then (s.preReport r e w).swapDecision e else s.preReport r e w := fun hstate => by
    have hnot : w.state ≠ .confirmed := by obtain h | h := hstate <;> simp [h]
    have hdecides : decides s.watch.params r w = confirms s.watch.params r w := by simp [decides, hnot]
    rw [hdecides, State.countReport_eq hw hstate]
  have hother : ∀ t, w.state ≠ .quiet → w.state ≠ .suspect → w.state ≠ .confirmed → s.preReport r e w = t →
      t = if decides s.watch.params r w then (s.preReport r e w).swapDecision e else s.preReport r e w :=
    fun t hq hs hc ht => by simp [decides, confirms, hq, hs, hc, ht]
  unfold State.reportTo
  rw [hw]
  dsimp only
  rw [hparams]
  cases hstate : w.state with
  | quiet => exact hcount (.inl hstate)
  | suspect => exact hcount (.inr hstate)
  | confirmed => simp [decides, State.preReport, State.counted, confirms, hstate]
  | settling =>
    refine hother _ (by simp [hstate]) (by simp [hstate]) (by simp [hstate]) ?_
    simp [State.preReport, State.counted, confirms, hstate]
  | _ =>
    refine hother _ (by simp [hstate]) (by simp [hstate]) (by simp [hstate]) ?_
    simp [State.preReport, State.counted, confirms, hstate]

/-- The count of a report entry, by the state it finds, and its marks. -/
theorem State.counted_moves {s : State} {e : AirEntry} {w : WatchRec} (r : Report) (hw : s.watchRec e.id = some w) :
    WatchMoves (s.reportFields w r) (s.counted r e w)
      (fun j z => if j = e.id then preReported s.watch.params r w else z)
      (fun q => q = .carrier e.id ∧ (preReported s.watch.params r w).state ≠ w.state) False := by
  obtain ⟨hfields, -, -⟩ := State.reportFields_spec r hw
  let x := s.reportFields w r
  let p := s.watch.params
  let v := fieldsMoved r w
  have hx : x.watchRec e.id = some v := by
    rw [hfields.records, hw, Option.map_some, if_pos rfl]
  have hone : ∀ {y : State} {f : WatchRec → WatchRec} {named : RecId → Prop} {alerts : Prop},
      WatchMoves x y (fun j z => if j = e.id then f z else z) named alerts → s.counted r e w = y →
      preReported p r w = f v → (∀ q, named q ↔ q = .carrier e.id ∧ (f v).state ≠ w.state) → ¬ alerts →
      WatchMoves x (s.counted r e w) (fun j z => if j = e.id then preReported p r w else z)
        (fun q => q = .carrier e.id ∧ (preReported p r w).state ≠ w.state) False := by
    rintro y f named alerts hmoves rfl hpre hnamed halerts
    refine hmoves.congr (fun j z hz => ?_) (fun q => by rw [hnamed, hpre]) (iff_false_intro halerts)
    by_cases hj : j = e.id
    · subst hj
      obtain rfl : v = z := Option.some.inj (hx.symm.trans hz)
      rw [if_pos rfl, if_pos rfl, hpre]
    · rw [if_neg hj, if_neg hj]
  have hv : v.state = w.state := rfl
  have htoQuiet : w.state ≠ .quiet → w.state.isAlert = false → s.counted r e w = x.watchTo e.id .quiet 0 →
      preReported p r w = { v with state := .quiet, run := 0, settle := 0 } →
      WatchMoves x (s.counted r e w) (fun j z => if j = e.id then preReported p r w else z)
        (fun q => q = .carrier e.id ∧ (preReported p r w).state ≠ w.state) False := fun hne halert hu hpre =>
    have hnew : WatchState.quiet.isAlert = false := rfl
    hone (x.watchTo_moves e.id .quiet 0) hu hpre (fun q => by simp [hx, hv, halert, hnew, hne, Ne.symm hne])
      (by simp [hnew])
  have hsame : s.counted r e w = x → preReported p r w = v →
      WatchMoves x (s.counted r e w) (fun j z => if j = e.id then preReported p r w else z)
        (fun q => q = .carrier e.id ∧ (preReported p r w).state ≠ w.state) False := fun hu hpre =>
    hone (f := id) ((WatchMoves.refl x).congr (fun _ _ _ => by simp) (fun _ => Iff.rfl) Iff.rfl) hu hpre
      (fun q => by simp [hv]) id
  show WatchMoves x (s.counted r e w) (fun j z => if j = e.id then preReported p r w else z)
        (fun q => q = .carrier e.id ∧ (preReported p r w).state ≠ w.state) False
  by_cases hc : confirms p r w = true
  · have hne : w.state ≠ .confirmed := by
      obtain h | h := confirms_state hc <;> simp [h]
    have hconfirmed := (x.suspected_moves e.id w).trans (State.watchTo_moves _ e.id .confirmed 0)
    refine hone (f := fun z => { z with state := .confirmed, run := 0, settle := 0 })
      (hconfirmed.congr (fun j z _ => by by_cases hj : j = e.id <;> simp [hj]) (fun _ => Iff.rfl) Iff.rfl)
      (if_pos hc) (if_pos hc) (fun q => ?_) (by simp [WatchState.isAlert])
    rw [(x.suspected_moves e.id w).records, hx]
    simp [Ne.symm hne, WatchState.isAlert]
    tauto
  have hu : s.counted r e w = _ := if_neg hc
  have hpre : preReported p r w = _ := if_neg hc
  by_cases hstate : w.state = .quiet ∨ w.state = .suspect
  · rw [if_pos hstate] at hu hpre
    by_cases hbad : badReport p r = true
    · rw [if_pos hbad] at hu hpre
      exact hone (x.suspected_moves e.id w) hu hpre (fun q => and_congr_right fun _ => ne_comm) id
    · rw [if_neg hbad] at hu hpre
      by_cases hsuspect : w.state = .suspect
      · rw [if_pos hsuspect] at hu hpre
        exact htoQuiet (by simp [hsuspect]) (by rw [hsuspect]; rfl) hu hpre
      · rw [if_neg hsuspect] at hu hpre
        exact hsame hu hpre
  · rw [if_neg hstate] at hu hpre
    by_cases hsettling : w.state = .settling
    · rw [if_pos hsettling] at hu hpre
      by_cases hlast : w.settle ≤ 1
      · rw [if_pos hlast] at hu hpre
        exact htoQuiet (by simp [hsettling]) (by rw [hsettling]; rfl) hu hpre
      · rw [if_neg hlast] at hu hpre
        exact hone (x.onRec_moves e.id (fun x => { x with settle := w.settle - 1 }) fun _ => rfl) hu hpre
          (fun q => by simp [hv]) id
    · rw [if_neg hsettling] at hu hpre
      exact hsame hu hpre

/-- The bins of a carrier that a report entry confirms as foreign (R149). -/
theorem State.bin_watchMark (s : State) (c b : Nat) :
    (s.watchMark c).bin b = if b = c then { s.bin b with counter := 7 } else s.bin b := by
  unfold State.watchMark State.bin
  rw [State.setBin_bins]
  split
  · rename_i h
    subst h
    exact sparseGet_set_same ..
  · rename_i h
    exact sparseGet_set_other _ _ _ _ _ h

/-- What a report entry brings about before its decision. -/
theorem State.preReport_spec {s : State} {e : AirEntry} {w : WatchRec} (r : Report) (hw : s.watchRec e.id = some w) :
    let u := s.preReport r e w
    let v := fieldsMoved r w
    ReportMoves s u (fun j x => if j = e.id then preReported s.watch.params r x else x)
      (fun q => q = .carrier e.id ∧ ((preReported s.watch.params r w).state ≠ w.state ∨
        v.lastRf ≠ w.lastRf ∨ v.lastErrors ≠ w.lastErrors)) False ∧
    (∀ j, u.kept j = if j = e.id ∧ recordExists (.carrier e.id) = true then { s.kept e.id with
        lastRf := if v.lastRf = w.lastRf then (s.kept e.id).lastRf else r.rf
        lastErrors := if v.lastErrors = w.lastErrors then (s.kept e.id).lastErrors else r.errors } else s.kept j) ∧
    (∀ b, u.bin b = if e.code = b ∧ r.pilot = false ∧ confirms s.watch.params r w = true then
      { s.bin b with counter := 7 } else s.bin b) ∧
    u = { s with watch := u.watch, status := u.status, bins := u.bins } := by
  intro u v
  obtain ⟨hfields, hkept, hframe⟩ := State.reportFields_spec r hw
  have hmoves := State.counted_moves r hw
  let x := s.reportFields w r
  let y := s.counted r e w
  have hu : u = if r.pilot = false ∧ confirms s.watch.params r w = true then y.watchMark e.code else y := rfl
  have hall : u = { y with bins := u.bins } := by
    rw [hu]
    split <;> rfl
  have hy : y = { s with watch := y.watch, status := y.status } := by
    have hx : x = { s with watch := x.watch, status := x.status } := hframe
    refine hmoves.frame.trans ?_
    rw [hmoves.reportMoves.causes_of_quiet]
    exact (congrArg (fun t : State => { t with watch := y.watch, status := y.status }) hx :)
  have hwatch : u.watch = y.watch := (congrArg State.watch hall :)
  have hstatus : u.status = y.status := (congrArg State.status hall :)
  have hcauses : u.causes = y.causes := (congrArg State.causes hall :)
  obtain ⟨hrecs, hwrest, hmarks, hsrest, hc⟩ := hfields.trans hmoves.reportMoves
  refine ⟨⟨fun j => ?_, ?_, fun q => ?_, ?_, fun c => ?_⟩, fun j => ?_, fun b => ?_, ?_⟩
  · rw [State.watchRec_congr hwatch, hrecs]
    by_cases hj : j = e.id
    · subst hj
      simp [hw]
    · simp [hj]
  · rw [hwatch, hwrest]
  · rw [hstatus, hmarks q]
    tauto
  · rw [hstatus, hsrest]
  · rw [State.hasCause, hcauses]
    exact (hc c).trans (by simp)
  · have hk : y.status.kept = x.status.kept := (congrArg StatusWriter.kept hmoves.marks.2 :)
    rw [← hkept, State.kept, State.kept, hstatus, hk]
  · have hb : ∀ b, y.bin b = s.bin b := fun b => (congrArg (fun t : State => t.bin b) hy :)
    rw [hu]
    by_cases hf : r.pilot = false ∧ confirms s.watch.params r w = true
    · rw [if_pos hf, State.bin_watchMark, hb]
      exact if_congr (by rw [eq_comm, and_iff_left hf]) rfl rfl
    · rw [if_neg hf, if_neg fun h => hf h.2, hb]
  · rw [hwatch, hstatus]
    exact hall.trans (congrArg (fun t : State => { t with bins := u.bins }) hy)

end Sys2Proof.Machine
end

section
/-! A report entry that matches several carriers: the run over them in Air Set order, with the answers of the engine
taken before the first swap decision and the additions to the Swap Request List (R73, R146, R150; log 7). -/

namespace Sys2Proof.Machine

/-! ### The swap decision of one carrier (R150) -/

/-- Where a swap decision takes a carrier in CONFIRMED, by the Swap Request List as it stands. -/
def State.decisionFate (s : State) (e : AirEntry) (w : WatchRec) : WatchState :=
  if e.autoSwap = false ∨ s.watch.params.swapLimit ≤ w.swaps ∨ s.runBit = false then .alerted
  else if s.engine.requests.length < 8 ∧ e.id ∉ s.engine.requests then .swapWait else .confirmed

theorem State.decisionFate_cases (s : State) (e : AirEntry) (w : WatchRec) :
    s.decisionFate e w = .alerted ∨ s.decisionFate e w = .swapWait ∨ s.decisionFate e w = .confirmed := by
  unfold State.decisionFate
  (repeat' split) <;> simp

/-- A swap decision with every answer of the engine taken. -/
theorem State.swapDecision_eq {s : State} {e : AirEntry} {w : WatchRec} (hnil : s.swapAnswers = [])
    (hw : s.watchRec e.id = some w) : s.swapDecision e =
      if s.decisionFate e w = .confirmed then s
      else (if s.decisionFate e w = .swapWait then s.addRequest e.id else s).watchTo e.id (s.decisionFate e w) 0 := by
  unfold State.swapDecision State.decisionFate State.additionFate
  rw [State.takeAnswers_of_nil hnil]
  dsimp only
  rw [hw]
  by_cases hask : e.autoSwap = false ∨ s.watch.params.swapLimit ≤ w.swaps
  · have hall : e.autoSwap = false ∨ s.watch.params.swapLimit ≤ w.swaps ∨ s.runBit = false := by tauto
    simp [hask, hall]
  · cases hrun : s.runBit with
    | false => simp [hask]
    | true =>
      by_cases hroom : s.engine.requests.length < 8 ∧ e.id ∉ s.engine.requests
      · have hlen : ¬ Config.requestCapacity ≤ s.engine.requests.length := by
          simpa [Config.requestCapacity] using hroom.1
        simp [hask, hroom, hlen]
      · have hfull : Config.requestCapacity ≤ s.engine.requests.length ∨ e.id ∈ s.engine.requests := by
          by_contra h
          refine hroom ⟨?_, fun hmem => h (.inr hmem)⟩
          have : ¬ 8 ≤ s.engine.requests.length := fun hle => h (.inl hle)
          omega
        simp [hask, hroom, hfull]

/-- What a swap decision brings about. -/
theorem State.swapDecision_spec {s : State} {e : AirEntry} {w : WatchRec} (hnil : s.swapAnswers = [])
    (hw : s.watchRec e.id = some w) (hstate : w.state = .confirmed) :
    let t := s.swapDecision e
    let fate := s.decisionFate e w
    ReportMoves s t (fun j x => if j = e.id then decidedRec fate x else x)
      (fun q => q = .carrier e.id ∧ fate ≠ .confirmed ∨ q = .stage (e.id / 256) ∧ fate = .alerted)
      (fate = .alerted) ∧
    t.status.kept = s.status.kept ∧
    t = { s with
      watch := t.watch, status := t.status, causes := t.causes
      engine := { s.engine with
        requests := s.engine.requests ++ if fate = .swapWait then [e.id] else [] } } := by
  intro t fate
  have ht : t = if fate = .confirmed then s
    else (if fate = .swapWait then s.addRequest e.id else s).watchTo e.id fate 0 := State.swapDecision_eq hnil hw
  have hfates : fate = .alerted ∨ fate = .swapWait ∨ fate = .confirmed := s.decisionFate_cases e w
  by_cases hc : fate = .confirmed
  · rw [if_pos hc] at ht
    rw [ht]
    exact ⟨(ReportMoves.refl s).congr (fun j x _ => by simp [decidedRec, hc]) (fun q => by simp [hc]) (by simp [hc]),
      rfl, by simp [hc]⟩
  · rw [if_neg hc] at ht
    let u : State := if fate = .swapWait then s.addRequest e.id else s
    have hu : u = { s with engine := { s.engine with
        requests := s.engine.requests ++ if fate = .swapWait then [e.id] else [] } } := by
      simp only [u]
      split <;> simp [State.addRequest]
    have htu : t = u.watchTo e.id fate 0 := ht
    have hmoves := u.watchTo_moves e.id fate 0
    rw [← htu] at hmoves
    have hrec : u.watchRec e.id = some w := (congrArg (fun x : State => x.watchRec e.id) hu).trans hw
    have hmoves' := hmoves.reportMoves.congr (g' := fun j x => if j = e.id then decidedRec fate x else x)
      (p' := fun q => q = .carrier e.id ∧ fate ≠ .confirmed ∨ q = .stage (e.id / 256) ∧ fate = .alerted)
      (a' := fate = .alerted) (fun j x _ => by simp [decidedRec, hc]) (fun q => by
        rw [hrec]
        obtain h | h | h := hfates <;> simp_all [WatchState.isAlert]) (by
        rw [hrec]
        obtain h | h | h := hfates <;> simp_all [WatchState.isAlert])
    have hframe := hmoves.frame
    refine ⟨?_, ?_, ?_⟩
    · have hbase : ∀ u' : State, u' = u → ReportMoves u' t _ _ _ := fun _ h => h ▸ hmoves'
      obtain ⟨h₁, h₂, h₃, h₄, h₅⟩ := hbase _ hu.symm
      exact ⟨h₁, h₂, h₃, h₄, h₅⟩
    · exact (congrArg StatusWriter.kept hmoves.marks.2 :).trans (congrArg (fun x : State => x.status.kept) hu :)
    · refine hframe.trans ?_
      exact congrArg (fun x : State => { x with watch := t.watch, status := t.status, causes := t.causes }) hu

/-! ### The additions to the Swap Request List (R73, R150) -/

/-- The carriers whose requests a report entry adds: the first that ask, while there is room. -/
def addedOf (s : State) (r : Report) (l : List AirEntry) : List Nat :=
  ((l.filter (asksSwap s r)).take (8 - s.engine.requests.length)).map AirEntry.id

theorem addedOf_append_singleton (s : State) (r : Report) (l : List AirEntry) (e : AirEntry) :
    addedOf s r (l ++ [e]) = addedOf s r l ++
      if asksSwap s r e = true ∧ s.engine.requests.length + (addedOf s r l).length < 8 then [e.id] else [] := by
  unfold addedOf
  rw [List.filter_append, List.take_append, List.map_append, List.length_map, List.length_take]
  congr 1
  cases hask : asksSwap s r e with
  | false => simp [hask]
  | true =>
    by_cases hroom : s.engine.requests.length +
        min (8 - s.engine.requests.length) (l.filter (asksSwap s r)).length < 8
    · rw [if_pos ⟨rfl, hroom⟩]
      obtain ⟨n, hn⟩ : ∃ n, 8 - s.engine.requests.length - (l.filter (asksSwap s r)).length = n + 1 :=
        ⟨8 - s.engine.requests.length - (l.filter (asksSwap s r)).length - 1, by omega⟩
      simp [hask, hn]
    · have hnone : 8 - s.engine.requests.length - (l.filter (asksSwap s r)).length = 0 := by omega
      rw [if_neg fun h => hroom h.2, hnone, List.take_zero, List.map_nil]

theorem mem_map_id_of_mem_addedOf {s : State} {r : Report} {l : List AirEntry} {id : Nat} (h : id ∈ addedOf s r l) :
    id ∈ l.map AirEntry.id := by
  obtain ⟨e, he, rfl⟩ := List.mem_map.1 h
  exact List.mem_map_of_mem (List.mem_of_mem_filter (List.mem_of_mem_take he))

/-- A carrier asks for a swap only when its report entry brings a decision. -/
theorem asksSwap_decides {s : State} {r : Report} {e : AirEntry} (h : asksSwap s r e = true) :
    (s.watchRec e.id).any (decides s.watch.params r) = true := by
  unfold asksSwap at h
  obtain ⟨w, hw, hd⟩ := (Option.any_eq_true _ _).1 h
  exact (Option.any_eq_true _ _).2 ⟨w, hw, by simp_all⟩

/-- With no decision there is no addition. -/
theorem addedOf_eq_nil {s : State} {r : Report} {l : List AirEntry}
    (h : ∀ e ∈ l, (s.watchRec e.id).any (decides s.watch.params r) = false) : addedOf s r l = [] := by
  unfold addedOf
  rw [List.filter_eq_nil_iff.2 fun e he hask => by simpa [h e he] using asksSwap_decides hask,
    List.take_nil, List.map_nil]

/-! ### The answers leave what a report entry decides -/

/-- What no answer changes in a record stays when the answers are taken. -/
theorem exists_takeAnswers {P : WatchRec → Prop} (hP : ∀ b w, P (answeredRec b w) ↔ P w) (s : State) (id : Nat) :
    (∃ w, s.takeAnswers.watchRec id = some w ∧ P w) ↔ ∃ w, s.watchRec id = some w ∧ P w := by
  obtain ⟨bs, hbs⟩ := s.takeAnswers_records id
  have hall : ∀ w, P (bs.foldl (fun w b => answeredRec b w) w) ↔ P w := fun w => by
    clear hbs
    induction bs generalizing w with
    | nil => rfl
    | cons b bs ih => exact (ih (answeredRec b w)).trans (hP b w)
  rw [hbs]
  cases s.watchRec id with
  | none => simp
  | some w => simp [hall]

theorem any_takeAnswers {f : WatchRec → Bool} (hf : ∀ b w, f (answeredRec b w) = f w) (s : State) (id : Nat) :
    (s.takeAnswers.watchRec id).any f = (s.watchRec id).any f := by
  have hiff := exists_takeAnswers (P := fun w => f w = true) (fun b w => by rw [hf]) s id
  refine Bool.eq_iff_iff.2 ?_
  rw [Option.any_eq_true, Option.any_eq_true]
  exact hiff

/-- The answers leave the fields last written, and with them how a report entry moves them. -/
theorem moved_answeredRec (r : Report) (b : Bool) (w : WatchRec) :
    ((fieldsMoved r (answeredRec b w)).lastRf = (fieldsMoved r w).lastRf ∧ (answeredRec b w).lastRf = w.lastRf) ∧
      (fieldsMoved r (answeredRec b w)).lastErrors = (fieldsMoved r w).lastErrors ∧
      (answeredRec b w).lastErrors = w.lastErrors := by
  have hsame : ∀ v : WatchRec, (answeredRec b v).lastRf = v.lastRf ∧ (answeredRec b v).lastErrors = v.lastErrors :=
    fun v => by
      unfold answeredRec
      by_cases h : v.state = .swapWait <;> cases b <;> simp [h]
  rw [fieldsMoved_answeredRec]
  exact ⟨⟨(hsame _).1, (hsame w).1⟩, (hsame _).2, (hsame w).2⟩

/-- An answer tells SWAP_WAIT from the other states, and keeps these apart. -/
theorem answeredRec_state_eq_iff {b : Bool} {v w : WatchRec} (h : v.state = .swapWait ↔ w.state = .swapWait) :
    (answeredRec b v).state = (answeredRec b w).state ↔ v.state = w.state := by
  unfold answeredRec
  by_cases hw : w.state = .swapWait
  · cases b <;> simp [hw, h.2 hw]
  · have hv : v.state ≠ .swapWait := fun hv => hw (h.1 hv)
    cases b <;> simp [hw, hv]

/-! ### The run over the matched carriers -/

/-- The change of each carrier's record when `f` is applied to those listed. -/
def toldRec (f : AirEntry → WatchRec → WatchRec) (l : List AirEntry) (id : Nat) (w : WatchRec) : WatchRec :=
  ((l.find? fun e => decide (e.id = id)).map fun e => f e w).getD w

theorem toldRec_of_not_mem {f : AirEntry → WatchRec → WatchRec} {l : List AirEntry} {id : Nat}
    (h : id ∉ l.map AirEntry.id) (w : WatchRec) : toldRec f l id w = w := by
  have hnone : (l.find? fun e => decide (e.id = id)) = none :=
    List.find?_eq_none.2 fun e he hid => h (List.mem_map.2 ⟨e, he, of_decide_eq_true hid⟩)
  simp [toldRec, hnone]

theorem toldRec_append_singleton (f : AirEntry → WatchRec → WatchRec) (l : List AirEntry) (e : AirEntry) (id : Nat)
    (w : WatchRec) : toldRec f (l ++ [e]) id w =
      if id ∈ l.map AirEntry.id then toldRec f l id w else if id = e.id then f e w else w := by
  unfold toldRec
  rw [List.find?_append]
  split
  · rename_i h
    obtain ⟨x, hx, rfl⟩ := List.mem_map.1 h
    obtain ⟨y, hy⟩ := Option.isSome_iff_exists.1 (List.find?_isSome.2 ⟨x, hx, decide_eq_true rfl⟩ :
      (l.find? fun e => decide (e.id = x.id)).isSome = true)
    rw [hy]
    rfl
  · rename_i h
    have hnone : (l.find? fun e => decide (e.id = id)) = none :=
      List.find?_eq_none.2 fun e he hid => h (List.mem_map.2 ⟨e, he, of_decide_eq_true hid⟩)
    rw [hnone]
    by_cases hid : id = e.id
    · simp [hid]
    · simp [hid, Ne.symm hid]

theorem toldRec_congr {f f' : AirEntry → WatchRec → WatchRec} {l : List AirEntry} (h : ∀ e ∈ l, f e = f' e)
    (id : Nat) : toldRec f l id = toldRec f' l id := by
  funext w
  unfold toldRec
  cases hx : l.find? fun e => decide (e.id = id) with
  | none => rfl
  | some x => simp [h x (List.mem_of_find?_eq_some hx)]

/-- In a list with one entry a carrier each entry's record is changed as `f` says for it. -/
theorem toldRec_of_mem {f : AirEntry → WatchRec → WatchRec} {l : List AirEntry} {e : AirEntry}
    (hl : (l.map AirEntry.id).Nodup) (he : e ∈ l) : toldRec f l e.id = f e := by
  funext w
  have hfind : (l.find? fun x => decide (x.id = e.id)) = some e := by
    induction l with
    | nil => simp at he
    | cons x l ih =>
      rw [List.map_cons, List.nodup_cons] at hl
      obtain rfl | he := List.mem_cons.1 he
      · simp
      · have hne : x.id ≠ e.id := fun h => hl.1 (h ▸ List.mem_map_of_mem he)
        simp [hne, ih hl.2 he]
  simp [toldRec, hfind]

/-- The records that the change of a carrier's watch record marks. -/
def changeMarks (q : RecId) (id : Nat) (w v : WatchRec) : Prop :=
  q = .carrier id ∧ (v.state ≠ w.state ∨ v.lastRf ≠ w.lastRf ∨ v.lastErrors ≠ w.lastErrors) ∨
    q = .stage (id / 256) ∧ w.state ≠ .alerted ∧ v.state = .alerted

theorem preReported_fields (p : WatchParams) (r : Report) (w : WatchRec) :
    (preReported p r w).lastRf = (fieldsMoved r w).lastRf ∧
      (preReported p r w).lastErrors = (fieldsMoved r w).lastErrors := by
  unfold preReported
  dsimp only
  (repeat' split) <;> exact ⟨rfl, rfl⟩

/-- A report entry takes no carrier to ALERTED before its decision. -/
theorem preReported_alerted_iff (p : WatchParams) (r : Report) (w : WatchRec) :
    (preReported p r w).state = .alerted ↔ w.state = .alerted := by
  unfold preReported
  have hf : (fieldsMoved r w).state = w.state := rfl
  by_cases ha : w.state = .alerted
  · have hc : confirms p r w = false := by simp [confirms, ha]
    simp [hc, ha, hf]
  · dsimp only
    (repeat' split) <;> simp_all

theorem changeMarks_preReported (p : WatchParams) (r : Report) (w : WatchRec) (q : RecId) (id : Nat) :
    changeMarks q id w (preReported p r w) ↔ q = .carrier id ∧ ((preReported p r w).state ≠ w.state ∨
      (fieldsMoved r w).lastRf ≠ w.lastRf ∨ (fieldsMoved r w).lastErrors ≠ w.lastErrors) := by
  obtain ⟨hrf, herrors⟩ := preReported_fields p r w
  unfold changeMarks
  rw [hrf, herrors, preReported_alerted_iff]
  tauto

theorem decides_state {p : WatchParams} {r : Report} {w : WatchRec} (h : decides p r w = true) :
    w.state = .quiet ∨ w.state = .suspect ∨ w.state = .confirmed := by
  rw [decides, Bool.or_eq_true, decide_eq_true_eq] at h
  obtain h | h := h
  · exact (confirms_state h).imp_right .inl
  · exact .inr (.inr h)

/-- A swap decision is made for a carrier in CONFIRMED. -/
theorem preReported_of_decides {p : WatchParams} {r : Report} {w : WatchRec} (h : decides p r w = true) :
    (preReported p r w).state = .confirmed := by
  rw [decides, Bool.or_eq_true, decide_eq_true_eq] at h
  obtain h | h := h
  · simp [preReported, h]
  · have hc : confirms p r w = false := by simp [confirms, h]
    simp [preReported, hc, h, fieldsMoved]

/-- The marks of a decision join those of the change before it. -/
theorem changeMarks_decidedRec {p : WatchParams} {r : Report} {w v : WatchRec} {fate : WatchState}
    (hd : decides p r w = true) (hv : v.state = .confirmed)
    (hfate : fate = .alerted ∨ fate = .swapWait ∨ fate = .confirmed) (q : RecId) (id : Nat) :
    (changeMarks q id w v ∨ q = .carrier id ∧ fate ≠ .confirmed ∨ q = .stage (id / 256) ∧ fate = .alerted) ↔
      changeMarks q id w (decidedRec fate v) := by
  unfold changeMarks decidedRec
  obtain rfl | rfl | rfl := hfate <;> obtain h | h | h := decides_state hd <;> simp [h, hv] <;> tauto

/-- A decision alerts exactly by its fate. -/
theorem alerted_decidedRec {p : WatchParams} {r : Report} {w v : WatchRec} {fate : WatchState}
    (hd : decides p r w = true) (hv : v.state = .confirmed) :
    (w.state ≠ .alerted ∧ v.state = .alerted ∨ fate = .alerted) ↔
      w.state ≠ .alerted ∧ (decidedRec fate v).state = .alerted := by
  have hw : w.state ≠ .alerted := by
    obtain h | h | h := decides_state hd <;> simp [h]
  unfold decidedRec
  split
  · rename_i h
    simp [hv, h]
  · simp [hv, hw]

/-- A carrier of the list has a record, of which the predicate holds. -/
def someTold (s : State) (l : List AirEntry) (p : AirEntry → WatchRec → Prop) : Prop :=
  ∃ e ∈ l, ∃ w, s.watchRec e.id = some w ∧ p e w

theorem someTold_append_singleton (s : State) (l : List AirEntry) (e : AirEntry) (p : AirEntry → WatchRec → Prop) :
    someTold s (l ++ [e]) p ↔ someTold s l p ∨ ∃ w, s.watchRec e.id = some w ∧ p e w := by
  simp [someTold, or_and_right, exists_or]

theorem someTold_congr {s : State} {l : List AirEntry} {p q : AirEntry → WatchRec → Prop}
    (h : ∀ e ∈ l, ∀ w, s.watchRec e.id = some w → (p e w ↔ q e w)) : someTold s l p ↔ someTold s l q := by
  unfold someTold
  refine exists_congr fun e => and_congr_right fun he => exists_congr fun w => and_congr_right fun hw => h e he w hw

/-- The kept fields of a carrier after a report entry (R146). -/
def keptMoved (r : Report) (w : WatchRec) (k : Kept) : Kept :=
  { k with
    lastRf := if (fieldsMoved r w).lastRf = w.lastRf then k.lastRf else r.rf
    lastErrors := if (fieldsMoved r w).lastErrors = w.lastErrors then k.lastErrors else r.errors }

/-- The carriers listed have been told the report entry: their records stand as `f` says, and the carriers `added`
have joined the Swap Request List. -/
structure Told (s t : State) (r : Report) (f : AirEntry → WatchRec → WatchRec) (l : List AirEntry) (added : List Nat) :
    Prop where
  moves : ReportMoves s t (toldRec f l) (fun q => someTold s l fun e w => changeMarks q e.id w (f e w))
    (someTold s l fun e w => w.state ≠ .alerted ∧ (f e w).state = .alerted)
  keptOthers : ∀ id, (∀ e ∈ l, e.id ≠ id) → t.kept id = s.kept id
  kept : ∀ e ∈ l, ∀ w, recordExists (.carrier e.id) = true → s.watchRec e.id = some w →
    t.kept e.id = keptMoved r w (s.kept e.id)
  bins : ∀ b, t.bin b =
    if ∃ e ∈ l, e.code = b ∧ r.pilot = false ∧ (s.watchRec e.id).any (confirms s.watch.params r) = true then
      { s.bin b with counter := 7 } else s.bin b
  frame : t = { s with
    watch := t.watch, status := t.status, causes := t.causes, bins := t.bins
    engine := { s.engine with requests := s.engine.requests ++ added } }

namespace Told

variable {s t : State} {r : Report} {f g : AirEntry → WatchRec → WatchRec} {l : List AirEntry} {e : AirEntry}
  {added : List Nat} {w : WatchRec}

/-- With nobody told, nothing has changed. -/
theorem nil (s : State) (r : Report) (f : AirEntry → WatchRec → WatchRec) : Told s s r f [] [] where
  moves := (ReportMoves.refl s).congr (fun _ _ _ => rfl) (by simp [someTold]) (by simp [someTold])
  keptOthers _ _ := rfl
  kept := by simp
  bins b := by simp
  frame := by simp

theorem congr (h : Told s t r f l added) (hfg : ∀ e ∈ l, ∀ w, s.watchRec e.id = some w → f e w = g e w) :
    Told s t r g l added where
  moves := h.moves.congr (fun id w hw => by
      unfold toldRec
      cases hx : l.find? fun e => decide (e.id = id) with
      | none => rfl
      | some x =>
        have hid : x.id = id := by simpa using List.find?_some hx
        exact hfg x (List.mem_of_find?_eq_some hx) w (hid ▸ hw))
    (fun q => someTold_congr fun e he w hw => by rw [hfg e he w hw])
    (someTold_congr fun e he w hw => by rw [hfg e he w hw])
  keptOthers := h.keptOthers
  kept := h.kept
  bins := h.bins
  frame := h.frame

theorem params (h : Told s t r f l added) : t.watch.params = s.watch.params :=
  (congrArg Watch.params h.moves.rest :)

/-- A carrier not yet told has its record as before. -/
theorem watchRec_of_not_mem (h : Told s t r f l added) {id : Nat} (hid : id ∉ l.map AirEntry.id) :
    t.watchRec id = s.watchRec id := by
  rw [h.moves.records]
  cases hw : s.watchRec id with
  | none => rfl
  | some w => exact congrArg some (toldRec_of_not_mem hid w)

/-- A carrier without a record is told nothing. -/
theorem snoc_none (h : Told s t r f l added) (he : e.id ∉ l.map AirEntry.id) (hw : s.watchRec e.id = none) :
    Told s t r f (l ++ [e]) added where
  moves := h.moves.congr (fun id w hid => by
      rw [toldRec_append_singleton]
      split
      · rfl
      · rename_i hl
        rw [toldRec_of_not_mem hl, if_neg]
        rintro rfl
        rw [hw] at hid
        cases hid)
    (fun q => by simp [someTold_append_singleton, hw]) (by simp [someTold_append_singleton, hw])
  keptOthers id hid := h.keptOthers id fun x hx => hid x (List.mem_append_left _ hx)
  kept x hx v hv hrec := by
    obtain hx | hx := List.mem_append.1 hx
    · exact h.kept x hx v hv hrec
    · obtain rfl := List.mem_singleton.1 hx
      rw [hw] at hrec
      cases hrec
  bins b := by
    rw [h.bins]
    refine if_congr ?_ rfl rfl
    simp only [List.mem_append, List.mem_singleton, or_and_right, exists_or, exists_eq_left, hw, Option.any_none]
    simp
  frame := h.frame

/-- A carrier is told, but for its swap decision. -/
theorem snoc (h : Told s t r f l added) (he : e.id ∉ l.map AirEntry.id) (hw : s.watchRec e.id = some w)
    (hf : f e w = preReported s.watch.params r w) : Told s (t.preReport r e w) r f (l ++ [e]) added := by
  have htw : t.watchRec e.id = some w := (h.watchRec_of_not_mem he).trans hw
  have hne : ∀ x ∈ l, x.id ≠ e.id := fun x hx hid => he (hid ▸ List.mem_map_of_mem hx)
  obtain ⟨hmoves, hkept, hbins, hframe⟩ := State.preReport_spec r htw
  rw [h.params] at hmoves hbins
  refine ⟨(h.moves.trans hmoves).congr (fun id v hv => ?_) (fun q => ?_) ?_, fun id hid => ?_, fun x hx v hv hrec => ?_,
    fun b => ?_, ?_⟩
  · rw [toldRec_append_singleton]
    by_cases hid : id = e.id
    · subst hid
      obtain rfl : w = v := Option.some.inj (hw.symm.trans hv)
      rw [if_pos rfl, if_neg he, if_pos rfl, toldRec_of_not_mem he, hf]
    · rw [if_neg hid]
      split
      · rfl
      · rename_i hl
        exact toldRec_of_not_mem hl v
  · rw [someTold_append_singleton]
    refine or_congr_right ?_
    simp only [hw, Option.some.injEq, exists_eq_left', hf]
    exact (changeMarks_preReported _ r w q e.id).symm
  · rw [someTold_append_singleton]
    refine or_congr_right ?_
    simp only [hw, Option.some.injEq, exists_eq_left', hf, preReported_alerted_iff]
    simp
  · rw [hkept, if_neg fun hj => hid e (by simp) hj.1.symm]
    exact h.keptOthers id fun x hx => hid x (List.mem_append_left _ hx)
  · rw [hkept]
    obtain hx | hx := List.mem_append.1 hx
    · rw [if_neg fun hj => hne x hx hj.1]
      exact h.kept x hx v hv hrec
    · obtain rfl := List.mem_singleton.1 hx
      obtain rfl : w = v := Option.some.inj (hw.symm.trans hrec)
      rw [if_pos ⟨rfl, hv⟩, h.keptOthers x.id hne]
      rfl
  · rw [hbins, h.bins]
    simp only [List.mem_append, List.mem_singleton, or_and_right, exists_or, exists_eq_left, hw, Option.any_some]
    by_cases hb : e.code = b ∧ r.pilot = false ∧ confirms s.watch.params r w = true
    · rw [if_pos hb, if_pos (Or.inr hb)]
      split <;> rfl
    · rw [if_neg hb]
      exact if_congr (or_iff_left hb).symm rfl rfl
  · have hcauses : (t.preReport r e w).causes = t.causes := (congrArg State.causes hframe :)
    rw [hcauses]
    refine hframe.trans ?_
    exact congrArg (fun x : State => { x with
      watch := (t.preReport r e w).watch, status := (t.preReport r e w).status, bins := (t.preReport r e w).bins }) h.frame

/-- The swap decision of the carrier told last, with every answer of the engine taken. -/
theorem decision (h : Told s t r f (l ++ [e]) added) (he : e.id ∉ l.map AirEntry.id)
    (hnil : s.swapAnswers = []) (hw : s.watchRec e.id = some w) (hd : decides s.watch.params r w = true)
    (hf : f e w = preReported s.watch.params r w) (hg : ∀ x ∈ l, f x = g x)
    (hge : g e w = decidedRec (t.decisionFate e (f e w)) (f e w)) :
    Told s (t.swapDecision e) r g (l ++ [e])
      (added ++ if t.decisionFate e (f e w) = .swapWait then [e.id] else []) := by
  have hstate : (f e w).state = .confirmed := hf ▸ preReported_of_decides hd
  have htnil : t.swapAnswers = [] := (congrArg State.swapAnswers h.frame :).trans hnil
  have htw : t.watchRec e.id = some (f e w) := by
    rw [h.moves.records, hw, Option.map_some, toldRec_append_singleton, if_neg he, if_pos rfl]
  obtain ⟨hmoves, hkept, hframe⟩ := State.swapDecision_spec htnil htw hstate
  have hkeptEq : ∀ id, (t.swapDecision e).kept id = t.kept id := fun id => by rw [State.kept, State.kept, hkept]
  have hbins : ∀ b, (t.swapDecision e).bin b = t.bin b := fun b => (congrArg (fun x : State => x.bin b) hframe :)
  have hne : ∀ x ∈ l, x.id ≠ e.id := fun x hx hid => he (hid ▸ List.mem_map_of_mem hx)
  refine ⟨(h.moves.trans hmoves).congr (fun id v hv => ?_) (fun q => ?_) ?_, fun id hid => ?_, fun x hx v hv hrec => ?_,
    fun b => ?_, ?_⟩
  · rw [toldRec_append_singleton, toldRec_append_singleton]
    by_cases hid : id = e.id
    · subst hid
      obtain rfl : w = v := Option.some.inj (hw.symm.trans hv)
      rw [if_pos rfl, if_neg he, if_neg he, if_pos rfl, if_pos rfl, hge]
    · rw [if_neg hid, if_neg hid, toldRec_congr hg, if_neg hid]
  · rw [someTold_append_singleton, someTold_append_singleton]
    simp only [hw, Option.some.injEq, exists_eq_left', or_assoc, hge]
    refine or_congr (someTold_congr fun x hx v _ => by rw [hg x hx]) ?_
    exact changeMarks_decidedRec hd hstate (t.decisionFate_cases e _) q e.id
  · rw [someTold_append_singleton, someTold_append_singleton]
    simp only [hw, Option.some.injEq, exists_eq_left', or_assoc, hge]
    refine or_congr (someTold_congr fun x hx v _ => by rw [hg x hx]) ?_
    exact alerted_decidedRec hd hstate
  · rw [hkeptEq, h.keptOthers id hid]
  · rw [hkeptEq, h.kept x hx v hv hrec]
  · rw [hbins, h.bins]
  · let d := t.swapDecision e
    have hreqs : t.engine = { s.engine with requests := s.engine.requests ++ added } := (congrArg State.engine h.frame :)
    rw [hreqs] at hframe
    have hdbins : (t.swapDecision e).bins = t.bins := (congrArg State.bins hframe :)
    refine hframe.trans ?_
    rw [← List.append_assoc, hdbins]
    exact congrArg (fun x : State => { x with
      watch := d.watch, status := d.status, causes := d.causes
      engine := { s.engine with
        requests := s.engine.requests ++ added ++ if t.decisionFate e (f e w) = WatchState.swapWait then [e.id] else [] } })
      h.frame

/-- The answers of the engine taken before and after, with no decision between. -/
theorem answers (h : Told s t r f l added)
    (hf : ∀ e ∈ l, f e = preReported s.watch.params r) (hl : (l.map AirEntry.id).Nodup) :
    Told s.takeAnswers t.takeAnswers r f l added := by
  have hparams : s.takeAnswers.watch.params = s.watch.params := (congrArg Watch.params s.takeAnswers_watch_rest :)
  have hcommutes : ∀ id x w, toldRec f l id (answeredRec x w) = answeredRec x (toldRec f l id w) := fun id x w => by
    by_cases hid : id ∈ l.map AirEntry.id
    · obtain ⟨e, he, rfl⟩ := List.mem_map.1 hid
      rw [toldRec_of_mem hl he, hf e he, preReported_answeredRec]
    · rw [toldRec_of_not_mem hid, toldRec_of_not_mem hid]
  have hwait : ∀ id w, (toldRec f l id w).state = .swapWait ↔ w.state = .swapWait := fun id w => by
    by_cases hid : id ∈ l.map AirEntry.id
    · obtain ⟨e, he, rfl⟩ := List.mem_map.1 hid
      rw [toldRec_of_mem hl he, hf e he, preReported_swapWait_iff]
    · rw [toldRec_of_not_mem hid]
  have htold : ∀ P : AirEntry → WatchRec → Prop, (∀ e ∈ l, ∀ b w, P e (answeredRec b w) ↔ P e w) →
      (someTold s l P ↔ someTold s.takeAnswers l P) := fun P hP =>
    exists_congr fun e => and_congr_right fun he => (exists_takeAnswers (hP e he) s e.id).symm
  have hmoves := h.moves.takeAnswers hcommutes hwait (congrArg State.swapAnswers h.frame :)
  have hkept : ∀ u : State, ∀ id, u.takeAnswers.kept id = u.kept id := fun u id => by
    obtain ⟨_, _, _, hu⟩ := u.takeAnswers_moves
    have : u.takeAnswers.status.kept = u.status.kept := (congrArg StatusWriter.kept hu.marks.2 :)
    rw [State.kept, State.kept, this]
  have hbins : ∀ u : State, ∀ b, u.takeAnswers.bin b = u.bin b := fun u b =>
    (congrArg (fun x : State => x.bin b) u.takeAnswers_frame :)
  refine ⟨hmoves.congr (fun _ _ _ => rfl) (fun q => htold _ fun e he b w => ?_) (htold _ fun e he b w => ?_),
    fun id hid => ?_, fun e he w hex hw => ?_, fun b => ?_, ?_⟩
  · obtain ⟨⟨h₁, h₂⟩, h₃, h₄⟩ := moved_answeredRec r b w
    rw [hf e he, changeMarks_preReported, changeMarks_preReported, preReported_answeredRec, h₁, h₂, h₃, h₄, Ne, Ne,
      answeredRec_state_eq_iff (preReported_swapWait_iff _ r w)]
  · rw [hf e he, preReported_alerted_iff, preReported_alerted_iff]
    simp
  · rw [hkept, hkept, h.keptOthers id hid]
  · rw [hkept, hkept]
    obtain ⟨v, hv, -⟩ := (exists_takeAnswers (P := fun _ => True) (fun _ _ => Iff.rfl) s e.id).1 ⟨w, hw, trivial⟩
    obtain ⟨x, hx, hmoved⟩ := (exists_takeAnswers
        (P := fun w => t.kept e.id = keptMoved r w (s.kept e.id)) (fun b w => by
      obtain ⟨⟨h₁, h₂⟩, h₃, h₄⟩ := moved_answeredRec r b w
      simp only [keptMoved, h₁, h₂, h₃, h₄]) s e.id).2 ⟨v, hv, h.kept e he v hex hv⟩
    obtain rfl : x = w := Option.some.inj (hx.symm.trans hw)
    exact hmoved
  · rw [hbins, hbins, h.bins, hparams]
    simp only [any_takeAnswers (confirms_answeredRec _ r)]
  · have htb : t.takeAnswers.bins = t.bins := (congrArg State.bins t.takeAnswers_frame :)
    rw [s.takeAnswers_frame, htb]
    exact t.takeAnswers_frame.trans (congrArg (fun x : State => { x with
      swapAnswers := [], watch := t.takeAnswers.watch, status := t.takeAnswers.status
      causes := t.takeAnswers.causes }) h.frame)

end Told

/-! ### The whole report entry -/

theorem preReported_swaps (p : WatchParams) (r : Report) (w : WatchRec) : (preReported p r w).swaps = w.swaps := by
  unfold preReported
  dsimp only
  (repeat' split) <;> rfl

theorem reported_of_not_decides {s : State} {r : Report} {w : WatchRec} (h : decides s.watch.params r w = false)
    (added : List Nat) (e : AirEntry) : reported s r added e w = preReported s.watch.params r w := by
  rw [reported_eq, h]
  rfl

/-- Of the additions only a carrier's own matters for its record. -/
theorem reported_congr {s : State} {r : Report} {e : AirEntry} {a b : List Nat} (h : e.id ∈ a ↔ e.id ∈ b)
    (w : WatchRec) : reported s r a e w = reported s r b e w := by
  simp only [reported_eq, swapFate, h]

theorem State.reportTo_of_none {s : State} {r : Report} {e : AirEntry} (h : s.watchRec e.id = none) :
    s.reportTo r e = s := by
  unfold State.reportTo
  rw [h]

/-- The record of a carrier told last before its decision, and of those before it. -/
def halfTold (s : State) (r : Report) (l : List AirEntry) (e x : AirEntry) (w : WatchRec) : WatchRec :=
  if x.id = e.id then preReported s.watch.params r w else reported s r (addedOf s r l) x w

/-- The records of the carriers listed stand as a report entry leaves them. -/
abbrev FullyTold (s t : State) (r : Report) (l : List AirEntry) : Prop :=
  Told s t r (reported s r (addedOf s r l)) l (addedOf s r l)

section

variable {s t : State} {r : Report} {l : List AirEntry} {e : AirEntry} {w : WatchRec}

/-- A carrier without a decision adds nothing and leaves the others' records. -/
theorem FullyTold.snoc_of_quiet (h : FullyTold s t r l) (he : e.id ∉ l.map AirEntry.id)
    (hd : (s.watchRec e.id).any (decides s.watch.params r) = false) : FullyTold s (t.reportTo r e) r (l ++ [e]) := by
  have hadded : addedOf s r (l ++ [e]) = addedOf s r l := by
    rw [addedOf_append_singleton, if_neg fun hask => by simpa [hd] using asksSwap_decides hask.1, List.append_nil]
  unfold FullyTold
  rw [hadded]
  cases hw : s.watchRec e.id with
  | none =>
    rw [State.reportTo_of_none ((h.watchRec_of_not_mem he).trans hw)]
    exact h.snoc_none he hw
  | some w =>
    have hquiet : decides s.watch.params r w = false := by simpa [hw] using hd
    rw [State.reportTo_eq ((h.watchRec_of_not_mem he).trans hw), h.params, hquiet]
    exact h.snoc he hw (reported_of_not_decides hquiet _ e)

theorem FullyTold.snoc_half (h : FullyTold s t r l) (he : e.id ∉ l.map AirEntry.id) (hw : s.watchRec e.id = some w) :
    Told s (t.preReport r e w) r (halfTold s r l e) (l ++ [e]) (addedOf s r l) :=
  (h.congr (g := halfTold s r l e) fun x hx _ _ =>
    (if_neg fun hid : x.id = e.id => he (hid ▸ List.mem_map_of_mem hx)).symm).snoc he hw (if_pos rfl)

/-- The decision of the carrier told last. -/
theorem Told.snoc_decision (h : Told s t r (halfTold s r l e) (l ++ [e]) (addedOf s r l))
    (he : e.id ∉ l.map AirEntry.id) (hnil : s.swapAnswers = []) (hw : s.watchRec e.id = some w)
    (hd : decides s.watch.params r w = true) : FullyTold s (t.swapDecision e) r (l ++ [e]) := by
  have hnot : e.id ∉ addedOf s r l := fun hmem => he (mem_map_id_of_mem_addedOf hmem)
  have hrun : t.runBit = s.runBit := (congrArg State.runBit h.frame :)
  have hreqs : t.engine.requests = s.engine.requests ++ addedOf s r l :=
    (congrArg (fun x : State => x.engine.requests) h.frame :)
  have hasks : asksSwap s r e = (e.autoSwap && decide (w.swaps < s.watch.params.swapLimit) && s.runBit &&
      decide (e.id ∉ s.engine.requests)) := by
    unfold asksSwap
    rw [hw]
    simp [hd]
  have hmem : e.id ∈ addedOf s r (l ++ [e]) ↔
      asksSwap s r e = true ∧ s.engine.requests.length + (addedOf s r l).length < 8 := by
    rw [addedOf_append_singleton]
    split <;> simp_all
  have hfate : t.decisionFate e (halfTold s r l e e w) = swapFate s (addedOf s r (l ++ [e])) e w := by
    unfold State.decisionFate swapFate
    rw [h.params, hrun, hreqs, halfTold, if_pos rfl, preReported_swaps, List.length_append]
    split
    · rfl
    · rename_i hask
      refine if_congr ?_ rfl rfl
      simp only [not_or] at hask
      rw [hmem, hasks]
      simp [List.mem_append, hnot, hask, Nat.lt_of_not_le hask.2.1]
      tauto
  have hwait : swapFate s (addedOf s r (l ++ [e])) e w = .swapWait ↔ e.id ∈ addedOf s r (l ++ [e]) := by
    unfold swapFate
    by_cases hin : e.id ∈ addedOf s r (l ++ [e])
    · have hask := (hmem.1 hin).1
      rw [hasks] at hask
      have hno : ¬ (e.autoSwap = false ∨ s.watch.params.swapLimit ≤ w.swaps ∨ s.runBit = false) := by
        simp at hask
        simp [hask]
      simp [hno, hin]
    · simp only [hin, if_false, iff_false]
      split <;> simp
  have hadded : addedOf s r (l ++ [e]) =
      addedOf s r l ++ if swapFate s (addedOf s r (l ++ [e])) e w = .swapWait then [e.id] else [] :=
    (addedOf_append_singleton s r l e).trans (congrArg _ (if_congr (hmem.symm.trans hwait.symm) rfl rfl))
  have hne : ∀ x ∈ l, x.id ≠ e.id := fun x hx hid => he (hid ▸ List.mem_map_of_mem hx)
  have hall := h.decision he hnil hw hd (if_pos rfl) (g := reported s r (addedOf s r (l ++ [e]))) (fun x hx => ?_) ?_
  · rw [hfate, ← hadded] at hall
    exact hall
  · funext v
    rw [halfTold, if_neg (hne x hx)]
    refine reported_congr ?_ v
    rw [hadded, List.mem_append, or_iff_left fun h => ?_]
    split at h
    · exact hne x hx (List.mem_singleton.1 h)
    · cases h
  · rw [hfate, halfTold, if_pos rfl, reported_eq, if_pos hd]

theorem State.swapDecision_takeAnswers (s : State) (e : AirEntry) : s.takeAnswers.swapDecision e = s.swapDecision e := by
  unfold State.swapDecision
  rw [State.takeAnswers_of_nil (congrArg State.swapAnswers s.takeAnswers_frame :)]

/-- The first carrier with a decision: the answers are taken before it. -/
theorem FullyTold.snoc_first (h : FullyTold s t r l) (he : e.id ∉ l.map AirEntry.id)
    (hnodup : ((l ++ [e]).map AirEntry.id).Nodup)
    (hbefore : ∀ x ∈ l, (s.watchRec x.id).any (decides s.watch.params r) = false)
    (hd : (s.watchRec e.id).any (decides s.watch.params r) = true) :
    FullyTold s.takeAnswers (t.reportTo r e) r (l ++ [e]) := by
  have hparams : s.takeAnswers.watch.params = s.watch.params := (congrArg Watch.params s.takeAnswers_watch_rest :)
  have hdecides : ∀ x : AirEntry, (s.takeAnswers.watchRec x.id).any (decides s.takeAnswers.watch.params r) =
      (s.watchRec x.id).any (decides s.watch.params r) := fun x => by
    rw [hparams, any_takeAnswers (decides_answeredRec _ r)]
  have hpre : ∀ u : State, u.watch.params = s.watch.params →
      (∀ x ∈ l, (u.watchRec x.id).any (decides u.watch.params r) = false) →
      ∀ x ∈ l ++ [e], ∀ w, u.watchRec x.id = some w → halfTold u r l e x w = preReported s.watch.params r w :=
    fun u hu hquiet x hx w hw => by
      unfold halfTold
      rw [hu]
      split
      · rfl
      · rename_i hne
        obtain hx | hx := List.mem_append.1 hx
        · have hnot := hquiet x hx
          rw [hw, Option.any_some] at hnot
          rw [reported_of_not_decides hnot, hu]
        · exact absurd (congrArg AirEntry.id (List.mem_singleton.1 hx)) hne
  obtain ⟨w, hw, hdw⟩ := (Option.any_eq_true _ _).1 hd
  obtain ⟨v, hv, hdv⟩ := (Option.any_eq_true _ _).1 ((hdecides e).trans hd)
  have hhalf := (h.snoc_half he hw).congr (hpre s rfl hbefore)
  have hanswered := (hhalf.answers (fun _ _ => rfl) hnodup).congr (g := halfTold s.takeAnswers r l e)
    fun x hx w hw => (hpre s.takeAnswers hparams (fun x hx => (hdecides x).trans (hbefore x hx)) x hx w hw).symm
  rw [addedOf_eq_nil hbefore,
    ← addedOf_eq_nil (s := s.takeAnswers) (r := r) fun x hx => (hdecides x).trans (hbefore x hx)] at hanswered
  have hdec := hanswered.snoc_decision he (congrArg State.swapAnswers s.takeAnswers_frame :) hv hdv
  rw [State.reportTo_eq ((h.watchRec_of_not_mem he).trans hw), h.params, if_pos hdw, ← State.swapDecision_takeAnswers]
  exact hdec

/-- The state against which a report entry counts: the answers are taken before it when it brings a decision. -/
def answeredBefore (s : State) (r : Report) (l : List AirEntry) : State :=
  if l.any fun e => (s.watchRec e.id).any (decides s.watch.params r) then s.takeAnswers else s

/-- A report entry for the matched carriers, one after another in Air Set order. -/
theorem State.foldl_reportTo_told (s : State) (r : Report) (l : List AirEntry) (hl : (l.map AirEntry.id).Nodup) :
    FullyTold (answeredBefore s r l) (l.foldl (fun s e => s.reportTo r e) s) r l := by
  induction l using List.reverseRecOn with
  | nil =>
    have hnone : addedOf s r [] = [] := addedOf_eq_nil (by simp)
    show Told s s r _ [] (addedOf s r [])
    rw [hnone]
    exact Told.nil s r _
  | append_singleton l e ih =>
    have hnodup := hl
    rw [List.map_append, List.nodup_append] at hl
    obtain ⟨hl, -, hdisjoint⟩ := hl
    have he : e.id ∉ l.map AirEntry.id := fun h => hdisjoint _ h _ (by simp) rfl
    have ih := ih hl
    have hparams : s.takeAnswers.watch.params = s.watch.params := (congrArg Watch.params s.takeAnswers_watch_rest :)
    have htaken : s.takeAnswers.swapAnswers = [] := (congrArg State.swapAnswers s.takeAnswers_frame :)
    have hdecides : ∀ x : AirEntry, (s.takeAnswers.watchRec x.id).any (decides s.takeAnswers.watch.params r) =
        (s.watchRec x.id).any (decides s.watch.params r) := fun x => by
      rw [hparams, any_takeAnswers (decides_answeredRec _ r)]
    rw [List.foldl_append, List.foldl_cons, List.foldl_nil]
    let t := l.foldl (fun s e => s.reportTo r e) s
    change FullyTold _ t r l at ih
    change FullyTold _ (t.reportTo r e) r (l ++ [e])
    unfold answeredBefore at ih ⊢
    rw [List.any_append, List.any_cons, List.any_nil, Bool.or_false]
    cases hbefore : l.any fun e => (s.watchRec e.id).any (decides s.watch.params r) with
    | true =>
      rw [if_pos hbefore] at ih
      rw [Bool.true_or, if_pos rfl]
      cases hd : (s.watchRec e.id).any (decides s.watch.params r) with
      | false => exact ih.snoc_of_quiet he ((hdecides e).trans hd)
      | true =>
        obtain ⟨w, hw, hd⟩ := (Option.any_eq_true _ _).1 ((hdecides e).trans hd)
        have hdec := (ih.snoc_half he hw).snoc_decision he htaken hw hd
        rw [State.reportTo_eq ((ih.watchRec_of_not_mem he).trans hw), ih.params, if_pos hd]
        exact hdec
    | false =>
      rw [if_neg (by simp [hbefore])] at ih
      rw [Bool.false_or]
      cases hd : (s.watchRec e.id).any (decides s.watch.params r) with
      | false => exact ih.snoc_of_quiet he hd
      | true => exact ih.snoc_first he hnodup (by simpa using hbefore) hd

end

end Sys2Proof.Machine
end

section
/-! REPORT_ENTRY: what the matched carriers, the Swap Request List and an idle engine make of it (R73, R75, R146 to
R150, R153). -/

namespace Sys2Proof.Machine

/-! ### An idle engine serves a request added (R75, R76) -/

/-- An idle engine with requests serves the first of them: it searches, or its answer is NO_SPARE. -/
theorem State.engineGo_of_requests {t : State} {x : Nat} {more : List Nat} (hservice : t.engine.service = none)
    (hreading : t.engine.reading = none) (horder : t.engine.order = none) (hreq : t.engine.requests = x :: more) :
    t.engineMicro = some t.serveHead ∧
    (∀ e sp i, t.onAirEntry x = some e → e.locked = false → t.nextTry e 0 = some (sp, i) →
      t.engineGo = { t with engine := { t.engine with
        service := some (.search x 0), reading := some ⟨binsAround t.params.gocc sp.code, false⟩ } }) ∧
    (more = [] → (∀ e, t.onAirEntry x = some e → e.locked = true ∨ t.nextTry e 0 = none) →
      t.engineGo = { t with
        engine := { t.engine with requests := [] }, swapAnswers := t.swapAnswers ++ [⟨x, false⟩] }) := by
  have hfirst : t.engineMicro = some t.serveHead := by
    unfold State.engineMicro
    rw [State.readsBins_of_none hreading, hservice, horder, hreq]
    rfl
  let u : State := { t with engine := { t.engine with service := some (.search x 0) } }
  have hsearch : u.engineMicro = some (u.serviceStep x 0) := by
    unfold State.engineMicro
    rw [State.readsBins_of_none (s := u) hreading]
    rfl
  refine ⟨hfirst, fun e sp i he hlocked htry => ?_, fun hmore hnone => ?_⟩
  · obtain ⟨-, -, hfits, -⟩ := State.nextTry_some htry
    obtain ⟨-, -, htest⟩ := (sp.fits_iff e).1 hfits
    have hcode : sp.code ≤ 8959 := ((test1_iff ..).1 htest).1
    have hstep : u.serviceStep x 0 = { u with engine := { u.engine with
        reading := some ⟨binsAround t.params.gocc sp.code, false⟩ } } := by
      rw [State.serviceStep_of_some (s := u) he htry, State.withBins_of_none (s := u) hreading, guardBins_eq hcode]
    refine State.engineGo_of_steps (.step hfirst (.step ?_ (.refl _))) (by decide)
      (State.engineMicro_of_readsBins rfl (binsAround_ne_nil hcode))
    rw [State.serveHead_of_search hreq he hlocked]
    exact hsearch.trans (congrArg some hstep)
  · subst hmore
    let v : State := { t with
      engine := { t.engine with requests := [] }, swapAnswers := t.swapAnswers ++ [⟨x, false⟩] }
    have hidle : v.engineMicro = none := State.engineMicro_of_idle (s := v) hservice hreading horder rfl
    have hgone : (t.engine.requests.filter fun y => y != x) = [] := by rw [hreq]; simp
    by_cases hrefused : (t.onAirEntry x).all (fun e => e.locked) = true
    · refine State.engineGo_of_steps (.step hfirst ?_) (n := 1) (by decide) hidle
      have hanswer : t.serveHead = v := by
        rw [State.serveHead_of_refused hreq hrefused]
        exact congrArg (fun l => ({ t with
          engine := { t.engine with requests := l }, swapAnswers := t.swapAnswers ++ [⟨x, false⟩] } : State)) hgone
      exact hanswer ▸ .refl _
    · obtain ⟨e, he, hlocked⟩ : ∃ e, t.onAirEntry x = some e ∧ e.locked = false := by
        cases h : t.onAirEntry x with
        | none => simp [h] at hrefused
        | some e => exact ⟨e, rfl, by simpa [h] using hrefused⟩
      have htry : t.nextTry e 0 = none := (hnone e he).resolve_left (by simp [hlocked])
      refine State.engineGo_of_steps (.step hfirst (.step ?_ (.refl _))) (by decide) hidle
      rw [State.serveHead_of_search hreq he hlocked]
      refine hsearch.trans (congrArg some ?_)
      rw [State.serviceStep_of_none (s := u) fun e' he' => ?_]
      · have hlisted : x ∈ u.engine.requests := by
          show x ∈ t.engine.requests
          rw [hreq]
          exact List.mem_singleton_self x
        have hengine : { t.engine with requests := t.engine.requests.filter fun y => y != x, service := none } =
            { t.engine with requests := [] } := by rw [hgone, ← hservice]
        exact (if_pos hlisted).trans (congrArg (fun g : Engine => ({ t with
          engine := g, swapAnswers := t.swapAnswers ++ [⟨x, false⟩] } : State)) hengine)
      · obtain rfl : e = e' := Option.some.inj (he.symm.trans he')
        exact htry

/-! ### REPORT_ENTRY -/

/-- The answers are taken apart from the lines. -/
theorem answeredBefore_lines (s : State) (k : Fin 4) (f : Line → Line) (r : Report) (l : List AirEntry) :
    answeredBefore (s.onLine k f) r l = { answeredBefore s r l with lines := (s.onLine k f).lines } := by
  unfold answeredBefore
  have hany : (l.any fun e => ((s.onLine k f).watchRec e.id).any (decides (s.onLine k f).watch.params r)) =
      l.any fun e => (s.watchRec e.id).any (decides s.watch.params r) := rfl
  rw [hany]
  split
  · obtain ⟨hwatch, hstatus, hcauses⟩ := State.takeAnswers_congr (s := s) (s' := s.onLine k f) rfl rfl rfl rfl
    rw [(s.onLine k f).takeAnswers_frame, hwatch, hstatus, hcauses]
    exact (congrArg (fun x : State => { x with lines := (s.onLine k f).lines }) s.takeAnswers_frame).symm
  · rfl

theorem answeredBefore_frame (s : State) (r : Report) (l : List AirEntry) :
    { answeredBefore s r l with
      watch := s.watch, status := s.status, causes := s.causes, swapAnswers := s.swapAnswers } = s ∧
    { (answeredBefore s r l).watch with records := s.watch.records } = s.watch := by
  unfold answeredBefore
  split
  · exact ⟨(congrArg (fun x : State => { x with
      watch := s.watch, status := s.status, causes := s.causes, swapAnswers := s.swapAnswers }) s.takeAnswers_frame),
      s.takeAnswers_watch_rest⟩
  · exact ⟨rfl, rfl⟩

theorem any_answeredBefore {f : WatchRec → Bool} (hf : ∀ b w, f (answeredRec b w) = f w) (s : State) (r : Report)
    (l : List AirEntry) (id : Nat) : ((answeredBefore s r l).watchRec id).any f = (s.watchRec id).any f := by
  unfold answeredBefore
  split
  · exact any_takeAnswers hf s id
  · rfl

/-- A report entry takes to ALERTED exactly those whose decision ends so. -/
theorem reported_alerted_iff (s : State) (r : Report) (added : List Nat) (e : AirEntry) (w : WatchRec) :
    w.state ≠ .alerted ∧ (reported s r added e w).state = .alerted ↔
      decides s.watch.params r w = true ∧ swapFate s added e w = .alerted := by
  rw [reported_eq]
  cases hd : decides s.watch.params r w with
  | true =>
    have hv := preReported_of_decides hd
    simpa [hv] using (alerted_decidedRec (fate := swapFate s added e w) hd hv).symm
  | false => simp [preReported_alerted_iff]

/-- The carriers that a report entry matches. -/
theorem matched_eq (s : State) (k : Fin 4) (r : Report) :
    (s.air.filter fun e => e.isWatched && e.atSlot k r.addr r.slot) = s.air.filter fun x =>
      decide (x.air = .onAir ∧ x.kind = .mic ∧ x.watched = true ∧ x.rack = some ⟨k, r.addr, r.slot⟩) := by
  refine List.filter_congr fun e _ => ?_
  unfold AirEntry.isWatched AirEntry.atSlot
  by_cases hr : e.rack = some ⟨k, r.addr, r.slot⟩ <;> simp [hr, Bool.and_assoc]

theorem exec_reportEntry {s : State} {k : Fin 4} {r : Report} {rest : List Report} (h : (s.line k).reports = r :: rest) :
    exec (.reportEntry k) s =
      .next (((s.onLine k fun l => { l with reports := rest }).report k r).engineGo).serveBus := by
  show execReportEntry k s = _
  unfold execReportEntry
  rw [h]

/-- Settles O47: the run over the matched carriers (`State.foldl_reportTo_told`), and the service of an addition. -/
theorem reportCountsTowardsConfirmation : Obligations.ReportCountsTowardsConfirmation := by
  intro k r rest s hreports hservice hreading hengine hok matched deciding u added hnodup
  let s₀ := s.onLine k fun l => { l with reports := rest }
  have htold := s₀.foldl_reportTo_told r matched hnodup
  let t := matched.foldl (fun s e => s.reportTo r e) s₀
  have hreport : s₀.report k r = t := by
    unfold State.report
    rw [matched_eq]
    rfl
  have hu : answeredBefore s r matched = u := rfl
  rw [answeredBefore_lines, hu] at htold
  change Told { u with lines := s₀.lines } t r (reported u r (addedOf u r matched)) matched (addedOf u r matched) at htold
  obtain ⟨hrest, hwatch⟩ := answeredBefore_frame s r matched
  rw [hu] at hrest hwatch
  have huengine : u.engine = s.engine := (congrArg State.engine hrest :)
  have hparams : u.watch.params = s.watch.params := (congrArg Watch.params hwatch :)
  have hadded : addedOf u r matched = added := by
    unfold addedOf
    rw [huengine]
  rw [hadded] at htold
  obtain ⟨⟨hrecs, hwrest, hmarks, hstatus, hcauses⟩, hkeptOthers, hkept, hbins, hframe⟩ := htold
  have hteng : t.engine = { s.engine with requests := s.engine.requests ++ added } := by
    rw [← huengine]
    exact (congrArg State.engine hframe :)
  have hall : { t with
      watch := s.watch, status := s.status, lines := s.lines, engine := s.engine, bins := s.bins
      causes := s.causes, swapAnswers := s.swapAnswers } = s :=
    calc { t with
          watch := s.watch, status := s.status, lines := s.lines, engine := s.engine, bins := s.bins
          causes := s.causes, swapAnswers := s.swapAnswers }
        = { u with
          watch := s.watch, status := s.status, lines := s.lines, engine := s.engine, bins := s.bins
          causes := s.causes, swapAnswers := s.swapAnswers } := congrArg (fun x : State => { x with
            watch := s.watch, status := s.status, lines := s.lines, engine := s.engine, bins := s.bins
            causes := s.causes, swapAnswers := s.swapAnswers }) hframe
      _ = { s with lines := s.lines, engine := s.engine, bins := s.bins } :=
        congrArg (fun x : State => { x with lines := s.lines, engine := s.engine, bins := s.bins }) hrest
  refine ⟨t, ?_, fun hstill => ?_, fun x more horder hx => ?_, fun e he => ?_, fun id hid => ?_, ?_, hteng, fun b => ?_,
    fun c => ?_, ⟨fun q => ?_, hstatus, hkeptOthers, fun e he w hex hw => hkept e he w hex hw⟩, ?_, ?_, ?_, hall⟩
  · rw [exec_reportEntry hreports, hreport]
  · have hts : t.engine.service = none := by rw [hteng]; exact hservice
    have htr : t.engine.reading = none := by rw [hteng]; exact hreading
    refine State.engineGo_of_steps (.refl t) (by decide) ?_
    obtain ⟨horder, hreqs, hpos⟩ | ⟨horder, hpos⟩ := hengine
    · have hnone : added = [] := hstill.resolve_left (by simp [horder])
      refine State.engineMicro_of_idle hts htr ?_ ?_ <;> rw [hteng]
      · exact horder
      · simp [hreqs, hnone]
    · obtain ⟨o, ho⟩ := Option.isSome_iff_exists.1 horder
      refine State.engineMicro_of_boundary (o := o) hts ?_ ?_ <;> rw [hteng]
      · exact ho
      · exact hpos
  · have hreqs : s.engine.requests = [] := by
      obtain ⟨-, hreqs, -⟩ | ⟨hsome, -⟩ := hengine
      · exact hreqs
      · simp [horder] at hsome
    have hentry : ∀ y, t.onAirEntry y = s.onAirEntry y := fun y => (congrArg (fun z : State => z.onAirEntry y) hall :)
    have htry : ∀ e n, t.nextTry e n = s.nextTry e n := fun e n => (congrArg (fun z : State => z.nextTry e n) hall :)
    have hgocc : t.params = s.params := (congrArg State.params hall :)
    have hserve := State.engineGo_of_requests (t := t) (x := x) (more := more) (by rw [hteng]; exact hservice)
      (by rw [hteng]; exact hreading) (by rw [hteng]; exact horder) (by rw [hteng, hreqs, ← hx]; rfl)
    simpa only [hentry, htry, hgocc] using hserve
  · rw [hrecs, toldRec_of_mem hnodup he]
    rfl
  · rw [hrecs]
    cases hw : State.watchRec { u with lines := s₀.lines } id with
    | none => exact (hw : u.watchRec id = none).symm
    | some w => exact (congrArg some (toldRec_of_not_mem hid w)).trans hw.symm
  · exact (congrArg State.swapAnswers hframe :)
  · have hbin : State.bin { u with lines := s₀.lines } b = s.bin b := (congrArg (fun z : State => z.bin b) hrest :)
    have hconf : ∀ e : AirEntry, (State.watchRec { u with lines := s₀.lines } e.id).any (confirms u.watch.params r) =
        (s.watchRec e.id).any (confirms s.watch.params r) := fun e => by
      rw [hparams]
      exact any_answeredBefore (confirms_answeredRec _ r) s r matched e.id
    rw [hbins, hbin]
    simp only [hconf]
  · refine Bool.eq_iff_iff.2 ((hcauses c).trans ?_)
    simp only [Bool.or_eq_true, Bool.and_eq_true, decide_eq_true_eq, List.any_eq_true, Option.any_eq_true]
    refine or_congr Iff.rfl (and_congr_right fun _ => exists_congr fun e => and_congr_right fun _ => exists_congr fun w =>
      and_congr_right fun _ => ?_)
    rw [← hparams]
    exact reported_alerted_iff u r added e w
  · refine (hmarks q).trans (or_congr Iff.rfl (and_congr_right fun _ => exists_congr fun e => and_congr_right fun _ => ?_))
    unfold changeMarks
    constructor
    · rintro ⟨w, hw, ⟨rfl, hchange⟩ | ⟨rfl, hchange⟩⟩
      · exact .inl ⟨rfl, w, hw, hchange⟩
      · exact .inr ⟨rfl, w, hw, hchange⟩
    · rintro (⟨rfl, w, hw, hchange⟩ | ⟨rfl, w, hw, hchange⟩)
      · exact ⟨w, hw, .inl ⟨rfl, hchange⟩⟩
      · exact ⟨w, hw, .inr ⟨rfl, hchange⟩⟩
  · exact (congrArg Watch.params hwrest :).trans hparams
  · exact (congrArg Watch.heldTunes hwrest :).trans (congrArg Watch.heldTunes hwatch :)
  · exact (congrArg State.lines hframe :)

end Sys2Proof.Machine
end

section
/-! The fault record while MEMORY_FAULT stands (R185): whatever a block does, the record keeps its address, its kind
and its requester, and the count only rises, up to 255. -/

namespace Sys2Proof.Machine

/-- MEMORY_FAULT stands, and the fault record is that of `s₀` with the faults since then counted. -/
structure Grown (s₀ s : State) : Prop where
  stands : s.hasCause .memoryFault = true
  record : s.fault = { s₀.fault with count := s.fault.count }
  count : s₀.fault.count ≤ s.fault.count ∧ s.fault.count ≤ 255

theorem Grown.refl {s : State} (h : s.hasCause .memoryFault = true) (hcount : s.fault.count ≤ 255) : Grown s s :=
  ⟨h, rfl, le_refl _, hcount⟩

variable {s₀ s : State} (h : Grown s₀ s)
include h

namespace Grown

/-- What leaves the causes and the record leaves the property. -/
theorem same {t : State} (hc : t.causes = s.causes) (hf : t.fault = s.fault) : Grown s₀ t := by
  obtain ⟨hstands, hrecord, hcount⟩ := h
  refine ⟨?_, ?_, ?_⟩
  · rw [State.hasCause, hc]
    exact hstands
  · rw [hf]
    exact hrecord
  · rw [hf]
    exact hcount

theorem setCause (c : Cause) : Grown s₀ (s.setCause c) :=
  ⟨by rw [State.hasCause_setCause, h.stands, Bool.true_or], h.record, h.count⟩

theorem recordFault (addr : Nat) (kind : FaultKind) (req : Requester) : Grown s₀ (s.recordFault addr kind req) := by
  have hf : (s.recordFault addr kind req).fault = { s.fault with count := min 255 (s.fault.count + 1) } := by
    rw [State.recordFault_fault, if_pos h.stands]
  obtain ⟨hstands, hrecord, hcount⟩ := h
  refine ⟨by rw [State.recordFault_hasCause, hstands, Bool.true_or], ?_, ?_⟩
  · rw [hf, hrecord]
  · rw [hf]
    show s₀.fault.count ≤ min 255 (s.fault.count + 1) ∧ min 255 (s.fault.count + 1) ≤ 255
    omega

/-! ### The port, the marks and the tables -/

theorem setMail (o : Owner) (a : Option Answer) : Grown s₀ (s.setMail o a) := h.same rfl rfl

theorem present (o : Owner) (write : Bool) (addr len : Nat) (data : List Byte) :
    Grown s₀ (s.present o write addr len data) := by
  unfold State.present
  split
  · exact (h.recordFault _ _ _).setMail _ _
  · exact h.same rfl rfl

theorem presentRead (o : Owner) (addr len : Nat) : Grown s₀ (s.presentRead o addr len) := h.present _ _ _ _ _

theorem presentWrite (o : Owner) (addr : Nat) (data : List Byte) : Grown s₀ (s.presentWrite o addr data) :=
  h.present _ _ _ _ _

theorem mark (r : RecId) : Grown s₀ (s.mark r) := by
  unfold State.mark
  split
  · exact h.same rfl rfl
  · exact h

theorem markAll (rs : List RecId) : Grown s₀ (s.markAll rs) := foldl_inv _ (fun _ r hb => hb.mark r) _ _ h

theorem withBins (x : Nat) {f : State → Bool → State} (hf : ∀ {t : State} b, Grown s₀ t → Grown s₀ (f t b)) :
    Grown s₀ (s.withBins x f) := by
  unfold State.withBins
  split
  · exact h.same rfl rfl
  · exact hf _ (h.same rfl rfl)

theorem offer {k : Fin 4} {e : Tune} {t : State} (ho : s.offer k e = some t) : Grown s₀ t := by
  unfold State.offer at ho
  split at ho
  · cases ho
    exact h.same rfl rfl
  · cases ho

theorem setLookup (l : Option LookupStage) : Grown s₀ (s.setLookup l) := h.same rfl rfl

theorem setWb (w : Option WriteBack) : Grown s₀ (s.setWb w) := h.same rfl rfl

theorem fillWay (id : Nat) (i : CarrierInfo) : Grown s₀ (s.fillWay id i) := by
  unfold State.fillWay
  dsimp only
  (repeat' split) <;> exact h.same rfl rfl

theorem dropWay (id : Nat) : Grown s₀ (s.dropWay id) := by
  unfold State.dropWay
  (repeat' split) <;> exact h.same rfl rfl

theorem updateWay (id code source : Nat) : Grown s₀ (s.updateWay id code source) := by
  unfold State.updateWay
  (repeat' split) <;> exact h.same rfl rfl

theorem putEntry (e : AirEntry) : Grown s₀ (s.putEntry e) := by
  unfold State.putEntry
  (repeat' split) <;> exact h.same rfl rfl

theorem dropEntry (id : Nat) : Grown s₀ (s.dropEntry id) := h.same rfl rfl

theorem releaseSpare (i : Nat) : Grown s₀ (s.releaseSpare i).1 := by
  have hm : ∀ l, Grown s₀ { s with spares := l } := fun _ => h.same rfl rfl
  unfold State.releaseSpare
  (repeat' split) <;> with_reducible apply_rules [Grown.mark]

theorem loadSpares (list : List (Nat × BitVec 12)) : Grown s₀ (s.loadSpares list) := by
  have hl : ∀ l, Grown s₀ { s with spares := l } := fun _ => h.same rfl rfl
  exact ((hl _).markAll _).markAll _

/-! ### The Watch Unit -/

theorem onRec (id : Nat) (f : WatchRec → WatchRec) : Grown s₀ (s.onRec id f) := h.same rfl rfl

theorem unlist (id : Nat) : Grown s₀ (s.unlist id) := h.same rfl rfl

theorem holdTune (k : Fin 4) (t : Tune) : Grown s₀ (s.holdTune k t) := h.same rfl rfl

theorem watchMarks (id : Nat) (old new : WatchState) : Grown s₀ (s.watchMarks id old new) := by
  unfold State.watchMarks
  dsimp only
  (repeat' split) <;> with_reducible apply_rules [Grown.mark, Grown.setCause]

theorem watchTo (id : Nat) (new : WatchState) (settle : Nat) : Grown s₀ (s.watchTo id new settle) := by
  unfold State.watchTo
  dsimp only
  (repeat' split) <;> with_reducible apply_rules [Grown.watchMarks, Grown.onRec]

theorem settle (id : Nat) : Grown s₀ (s.settle id) := by
  unfold State.settle
  split <;> exact h.watchTo _ _ _

theorem takeAnswer (a : SwapAnswer) : Grown s₀ (s.takeAnswer a) := by
  unfold State.takeAnswer
  dsimp only
  (repeat' split) <;> with_reducible apply_rules [Grown.mark, Grown.watchTo, Grown.onRec]

theorem takeAnswers : Grown s₀ s.takeAnswers := foldl_inv _ (fun _ a hb => hb.takeAnswer a) _ _ (h.same rfl rfl)

theorem watchBegin (e : AirEntry) : Grown s₀ (s.watchBegin e) := by
  have ht : ∀ w, Grown s₀ { s.takeAnswers with watch := w } := fun _ => h.takeAnswers.same rfl rfl
  unfold State.watchBegin
  split
  · exact (ht _).mark _
  · exact h

theorem watchEnd (id : Nat) : Grown s₀ (s.watchEnd id) := by
  have ht : ∀ w, Grown s₀ { s.takeAnswers with watch := w } := fun _ => h.takeAnswers.same rfl rfl
  unfold State.watchEnd
  dsimp only
  (repeat' split) <;> with_reducible apply_rules [Grown.mark, Grown.takeAnswers]

theorem retuneNotice (id : Nat) : Grown s₀ (s.retuneNotice id) := by
  have ht : ∀ w, Grown s₀ { s.takeAnswers with watch := w } := fun _ => h.takeAnswers.same rfl rfl
  unfold State.retuneNotice
  dsimp only
  (repeat' split) <;> with_reducible apply_rules [Grown.settle, Grown.takeAnswers, Grown.unlist]

theorem watchRelease (slot : Nat) (b : OrderBody) : Grown s₀ (s.watchRelease slot b).1 := by
  unfold State.watchRelease
  dsimp only
  (repeat' split) <;> with_reducible apply_rules [Grown.mark, Grown.watchTo, Grown.onRec]

/-! ### The Air Set -/

theorem joinOnAir (id code : Nat) (i : CarrierInfo) : Grown s₀ (s.joinOnAir id code i) :=
  (((h.putEntry _).watchBegin _).mark _).mark _

theorem joinPending (id code : Nat) (i : CarrierInfo) (slot : Nat) : Grown s₀ (s.joinPending id code i slot) :=
  (h.putEntry _).mark _

theorem leaveAir (id : Nat) : Grown s₀ (s.leaveAir id) :=
  ((((h.unlist id).watchEnd id).dropEntry id).mark _).mark _

theorem committed (e : AirEntry) : Grown s₀ (s.committed e) := ((h.watchBegin _).mark _).mark _

theorem commitOwned (slot : Nat) : Grown s₀ (s.commitOwned slot) :=
  foldl_inv _ (fun _ e hb => hb.committed e) _ _ (h.same rfl rfl)

theorem setCode (id code : Nat) (f : AirEntry → AirEntry) : Grown s₀ (s.setCode id code f) := by
  unfold State.setCode
  split
  · exact h
  · exact ((h.dropEntry _).putEntry _).mark _

/-! ### Swaps -/

theorem setService (v : Option Service) : Grown s₀ (s.setService v) := h.same rfl rfl

theorem answerSwap (id : Nat) (swapped : Bool) : Grown s₀ (s.answerSwap id swapped) := h.same rfl rfl

theorem liveTune (id code : Nat) (rack : Option Rack) : Grown s₀ (s.liveTune id code rack) := by
  unfold State.liveTune
  split
  · exact h
  · dsimp only
    cases ho : State.offer s _ _ with
    | none => exact h.holdTune _ _
    | some t => exact h.offer ho

theorem applySwap (e : AirEntry) (i : Nat) (sp : Spare) : Grown s₀ (s.applySwap e i sp) := by
  have htaken : ∀ l, Grown s₀ { s.setCode e.id sp.code id with spares := l } := fun _ => (h.setCode _ _ _).same rfl rfl
  unfold State.applySwap
  exact (((htaken (spareTaken e.id i (s.setCode e.id sp.code id).spares)).liveTune e.id sp.code e.rack).answerSwap
    e.id true).same rfl rfl

theorem swapChosen (e : AirEntry) (i : Nat) (sp : Spare) : Grown s₀ (s.swapChosen e i sp) := by
  unfold State.swapChosen
  split
  · exact h.applySwap _ _ _
  · exact h.setService _

theorem noSpare (id : Nat) : Grown s₀ (s.noSpare id) := by
  unfold State.noSpare
  split
  · exact (h.setService _).answerSwap _ _
  · exact h.setService _

theorem serveHead : Grown s₀ s.serveHead := by
  unfold State.serveHead
  (repeat' split) <;> with_reducible apply_rules [Grown.answerSwap, Grown.setService]

theorem serviceStep (x next : Nat) : Grown s₀ (s.serviceStep x next) := by
  unfold State.serviceStep
  (repeat' split)
  · exact h.noSpare _
  · exact h.noSpare _
  · refine h.withBins _ fun b ht => ?_
    split
    · exact ht.swapChosen _ _ _
    · exact ht.setService _

/-! ### Orders of the engine -/

theorem setPos (p : EnginePos) : Grown s₀ (s.setPos p) := h.same rfl rfl

theorem setOrder (o : EngineOrder) : Grown s₀ (s.setOrder o) := h.same rfl rfl

theorem handOver (c : Completion) : Grown s₀ (s.handOver c) := h.same rfl rfl

theorem stepEnds (o : EngineOrder) (k : StepKind) : Grown s₀ (s.stepEnds o k) := h.same rfl rfl

theorem finish (o : EngineOrder) (failed : Bool) (r : ResultCode) (c1 c2 : Nat) :
    Grown s₀ (s.finish o failed r c1 c2) := by
  unfold State.finish
  split
  · exact h.handOver _
  · exact ((h.setOrder _).presentWrite _ _ _).setPos _

theorem outcomesWritten (o : EngineOrder) (a : Answer) (failed : Bool) (r : ResultCode) (c1 c2 : Nat) :
    Grown s₀ (s.outcomesWritten o a failed r c1 c2) := by
  unfold State.outcomesWritten
  split <;> exact h.handOver _

theorem withdraw (o : EngineOrder) : Grown s₀ (s.withdraw o).1 := by
  have hl : ∀ l, Grown s₀ { s with air := l } := fun _ => h.same rfl rfl
  exact (hl _).markAll _

theorem endFor (o : EngineOrder) (r : ResultCode) : Grown s₀ (s.endFor o r) := by
  unfold State.endFor
  dsimp only
  split <;> with_reducible apply_rules [Grown.finish, Grown.withdraw]

theorem endCommit (o : EngineOrder) : Grown s₀ (s.endCommit o) := by
  unfold State.endCommit
  dsimp only
  split <;> exact h.finish _ _ _ _ _

theorem beginLookup (o : EngineOrder) (id : Nat) : Grown s₀ (s.beginLookup o id) := h.same rfl rfl

theorem joinItem (o : EngineOrder) (id : Nat) : Grown s₀ (s.joinItem o id) := by
  unfold State.joinItem
  (repeat' split) <;> with_reducible apply_rules [Grown.stepEnds, Grown.beginLookup]

theorem joinKept (o : EngineOrder) (id : Nat) (i : CarrierInfo) : Grown s₀ (s.joinKept o id i) := by
  unfold State.joinKept
  dsimp only
  split <;> with_reducible apply_rules [Grown.joinOnAir, Grown.setPos, Grown.setOrder, Grown.stepEnds]

theorem joinLooked (o : EngineOrder) (id : Nat) (a : LookupAnswer) : Grown s₀ (s.joinLooked o id a) := by
  unfold State.joinLooked State.lookupFault
  (repeat' split) <;> with_reducible apply_rules [Grown.joinKept, Grown.setPos, Grown.setOrder, Grown.stepEnds]

theorem joinVerify (o : EngineOrder) (j : Joiner) : Grown s₀ (s.joinVerify o j) := by
  refine h.withBins _ fun b ht => ?_
  split <;> with_reducible apply_rules [Grown.joinKept, Grown.stepEnds]

theorem leaveItem (o : EngineOrder) (id : Nat) : Grown s₀ (s.leaveItem o id) := by
  unfold State.leaveItem
  split <;> with_reducible apply_rules [Grown.leaveAir, Grown.stepEnds]

theorem examineStep (o : EngineOrder) (j : Joiner) : Grown s₀ (s.examineStep o j) := by
  unfold State.examineStep
  dsimp only
  split
  · exact h.stepEnds _ _
  · exact h.withBins _ fun b ht => ht.stepEnds _ _

theorem joinerRefused (o : EngineOrder) (id : Nat) (out : ItemOutcome) (closing : Bool) :
    Grown s₀ (s.joinerRefused o id out closing) := by
  unfold State.joinerRefused
  dsimp only
  split <;> with_reducible apply_rules [Grown.finish, Grown.withdraw, Grown.setPos, Grown.setOrder]

theorem placeItem (o : EngineOrder) (id : Nat) : Grown s₀ (s.placeItem o id) := by
  unfold State.placeItem
  (repeat' split) <;> with_reducible apply_rules [Grown.joinerRefused, Grown.beginLookup]

theorem placeFound (o : EngineOrder) (id : Nat) (i : CarrierInfo) : Grown s₀ (s.placeFound o id i) := by
  unfold State.placeFound
  dsimp only
  (repeat' split) <;> with_reducible apply_rules [Grown.joinerRefused, Grown.setPos, Grown.setOrder]

theorem placeLooked (o : EngineOrder) (id : Nat) (a : LookupAnswer) : Grown s₀ (s.placeLooked o id a) := by
  unfold State.placeLooked State.lookupFault
  split <;> with_reducible apply_rules [Grown.joinerRefused, Grown.placeFound, Grown.stepEnds]

theorem placeStep (o : EngineOrder) : Grown s₀ (s.placeStep o) := by
  unfold State.placeStep
  (repeat' split) <;> with_reducible apply_rules [Grown.examineStep, Grown.placeItem, Grown.setPos, Grown.setOrder,
    Grown.stepEnds]

theorem retuneFails (o : EngineOrder) (out : ItemOutcome) (r : ResultCode) (examined : Nat) :
    Grown s₀ (s.retuneFails o out r examined) := h.finish _ _ _ _ _

theorem beginRetune (o : EngineOrder) : Grown s₀ (s.beginRetune o) := by
  unfold State.beginRetune
  dsimp only
  (repeat' split) <;> with_reducible apply_rules [Grown.retuneFails, Grown.beginLookup]

theorem retuneLooked (o : EngineOrder) (id : Nat) (a : LookupAnswer) : Grown s₀ (s.retuneLooked o id a) := by
  unfold State.retuneLooked
  dsimp only
  (repeat' split) <;> with_reducible apply_rules [Grown.retuneFails, Grown.finish, Grown.setPos, Grown.setOrder]

theorem lookedUp (o : EngineOrder) (id : Nat) (a : LookupAnswer) : Grown s₀ (s.lookedUp o id a) := by
  unfold State.lookedUp
  split <;> with_reducible apply_rules [Grown.joinLooked, Grown.placeLooked, Grown.retuneLooked]

theorem writeConflict (o : EngineOrder) (rec : List Byte) : Grown s₀ (s.writeConflict o rec) := h.presentWrite _ _ _

theorem checkStep (o : EngineOrder) (k : StepKind) (l : List Conflict) : Grown s₀ (s.checkStep o k l) := by
  unfold State.checkStep
  dsimp only
  split
  · exact h.stepEnds _ _
  · exact ((h.setOrder _).writeConflict _ _).setPos _

theorem conflictWritten (o : EngineOrder) (left : List (List Byte)) (a : Answer) :
    Grown s₀ (s.conflictWritten o left a) := by
  unfold State.conflictWritten
  dsimp only
  (repeat' split)
  · exact h.stepEnds _ _
  · exact h.stepEnds _ _
  · exact ((h.setOrder _).writeConflict _ _).setPos _

theorem spareStep (o : EngineOrder) : Grown s₀ (s.spareStep o) := by
  unfold State.spareStep
  split
  · exact h.withBins _ fun b ht => ht.checkStep _ _ _
  · exact h.finish _ _ _ _ _

theorem victimStep (o : EngineOrder) : Grown s₀ (s.victimStep o) := by
  unfold State.victimStep
  (repeat' split)
  · exact h.withBins _ fun b ht => ht.checkStep _ _ _
  · exact h.spareStep _
  · exact h.finish _ _ _ _ _

theorem beginCommit (o : EngineOrder) : Grown s₀ (s.beginCommit o) := ((h.commitOwned _).setOrder _).setPos _

theorem commitRetune (o : EngineOrder) (j : Joiner) : Grown s₀ (s.commitRetune o j) :=
  (((h.setCode _ _ _).retuneNotice _).setOrder _).setPos _

theorem commitNext (o : EngineOrder) (left : List Nat) : Grown s₀ (s.commitNext o left) := by
  unfold State.commitNext
  split
  · exact h.setPos _
  · exact (h.setWb _).setPos _

theorem commitWritten (o : EngineOrder) (left : List Nat) (a : WriteBackAnswer) : Grown s₀ (s.commitWritten o left a) :=
  h.same rfl rfl

theorem tunesSent (o : EngineOrder) : Grown s₀ (s.tunesSent o) := by
  unfold State.tunesSent
  split <;> with_reducible apply_rules [Grown.endCommit, Grown.stepEnds]

theorem tuneNext (o : EngineOrder) (left : List Nat) : Grown s₀ (s.tuneNext o left) := by
  unfold State.tuneNext
  (repeat' split)
  · exact h.tunesSent _
  · exact h.setPos _
  · exact (h.offer ‹_›).setPos _
  · exact h.setPos _

theorem goOn (o : EngineOrder) (m : NextMove) : Grown s₀ (s.goOn o m) := by
  unfold State.goOn State.endItems State.endCheck
  dsimp only
  (repeat' split) <;> with_reducible apply_rules [Grown.finish, Grown.commitRetune, Grown.joinPending,
    Grown.retuneFails, Grown.joinerRefused, Grown.setPos, Grown.setOrder]

theorem boundaryStop (o : EngineOrder) : Grown s₀ (s.boundaryStop o) := by
  unfold State.boundaryStop
  dsimp only
  (repeat' split) <;> with_reducible apply_rules [Grown.presentRead, Grown.setPos, Grown.setOrder]

theorem stopRead (o : EngineOrder) (a : Answer) : Grown s₀ (s.stopRead o a) := h.same rfl rfl

theorem decideBoundary (o : EngineOrder) : Grown s₀ (s.decideBoundary o) := by
  unfold State.decideBoundary
  (repeat' split) <;> with_reducible apply_rules [Grown.endFor, Grown.goOn]

theorem setParams (o : EngineOrder) : Grown s₀ (s.setParams o) := by
  have hp : ∀ p, Grown s₀ { s with params := p } := fun _ => h.same rfl rfl
  exact (hp _).finish _ _ _ _ _

theorem loadCoupling (o : EngineOrder) (bs : List Byte) : Grown s₀ (s.loadCoupling o bs) := by
  have hc : ∀ c, Grown s₀ { s with coupling := c } := fun _ => h.same rfl rfl
  exact (hc _).finish _ _ _ _ _

theorem sparesLoad (o : EngineOrder) (bs : List Byte) : Grown s₀ (s.sparesLoad o bs) := by
  unfold State.sparesLoad
  dsimp only
  (repeat' split) <;> with_reducible apply_rules [Grown.finish, Grown.loadSpares]

theorem sparesRelease (o : EngineOrder) : Grown s₀ (s.sparesRelease o) := by
  unfold State.sparesRelease
  dsimp only
  split <;> with_reducible apply_rules [Grown.finish, Grown.releaseSpare]

theorem flushCache (o : EngineOrder) : Grown s₀ (s.flushCache o) := by
  have hf : Grown s₀ (s.flush o.body.p0).1 := h.same rfl rfl
  unfold State.flushCache
  dsimp only
  split <;> with_reducible apply_rules [Grown.finish]

theorem readListA (o : EngineOrder) : Grown s₀ (s.readListA o) := ((h.setOrder _).presentRead _ _ _).setPos _

theorem readListB (o : EngineOrder) : Grown s₀ (s.readListB o) := by
  unfold State.readListB
  split <;> with_reducible apply_rules [Grown.presentRead, Grown.setPos, Grown.setOrder]

theorem beginOrder (o : EngineOrder) : Grown s₀ (s.beginOrder o) := by
  unfold State.beginOrder State.endItems
  (repeat' split) <;> with_reducible apply_rules [Grown.setParams, Grown.sparesRelease, Grown.flushCache, Grown.finish,
    Grown.readListA, Grown.readListB, Grown.sparesLoad, Grown.beginRetune, Grown.setPos, Grown.setOrder]

theorem listFault (o : EngineOrder) (aRead : Bool) : Grown s₀ (s.listFault o aRead) := h.finish _ _ _ _ _

theorem listARead (o : EngineOrder) (a : Answer) : Grown s₀ (s.listARead o a) := by
  unfold State.listARead
  (repeat' split) <;> with_reducible apply_rules [Grown.listFault, Grown.loadCoupling, Grown.sparesLoad,
    Grown.readListB, Grown.setPos, Grown.setOrder]

theorem listBRead (o : EngineOrder) (a : Answer) : Grown s₀ (s.listBRead o a) := by
  unfold State.listBRead
  split <;> with_reducible apply_rules [Grown.listFault, Grown.setPos, Grown.setOrder]

theorem joinStep (o : EngineOrder) : Grown s₀ (s.joinStep o) := by
  unfold State.joinStep
  split <;> with_reducible apply_rules [Grown.joinVerify, Grown.joinItem, Grown.stepEnds]

theorem leaveStep (o : EngineOrder) : Grown s₀ (s.leaveStep o) := by
  unfold State.leaveStep
  split <;> with_reducible apply_rules [Grown.leaveItem, Grown.stepEnds]

theorem beginStep (o : EngineOrder) : Grown s₀ (s.beginStep o) := by
  unfold State.beginStep
  (repeat' split) <;> with_reducible apply_rules [Grown.joinStep, Grown.leaveStep, Grown.placeStep, Grown.beginCommit,
    Grown.examineStep, Grown.victimStep, Grown.spareStep, Grown.finish, Grown.stepEnds]

/-! ### The engine as it goes on -/

theorem lookupStep {id : Nat} {t : State} (ht : (s.lookupStep id).state? = some t) : Grown s₀ t := by
  have hm : Grown s₀ (s.setMail .cache none) := h.setMail _ _
  unfold State.lookupStep State.lookupEnds State.lookupFound State.lookupEnds at ht
  dsimp only at ht
  (repeat' split at ht) <;> simp only [Progress.state?_wait, Progress.state?_more, Progress.state?_done,
    Option.some.injEq, reduceCtorEq] at ht <;> subst ht
  all_goals with_reducible apply_rules [Grown.presentRead, Grown.fillWay, Grown.setLookup]

theorem wbStep {t : State} (ht : s.wbStep.state? = some t) : Grown s₀ t := by
  have hm : Grown s₀ (s.setMail .cache none) := h.setMail _ _
  unfold State.wbStep State.wbFails at ht
  dsimp only at ht
  (repeat' split at ht) <;> simp only [Progress.state?_wait, Progress.state?_more, Progress.state?_done,
    Option.some.injEq, reduceCtorEq] at ht <;> subst ht
  all_goals with_reducible apply_rules [Grown.presentRead, Grown.presentWrite, Grown.dropWay, Grown.updateWay,
    Grown.setWb]

theorem engineMove {t : State} (hm : EngineMove s t) : Grown s₀ t := by
  have hmail : Grown s₀ (s.setMail .engine none) := h.setMail _ _
  cases hm with
  | served => exact h.serveHead
  | written _ hw => exact h.wbStep hw
  | swapped _ _ _ hw => exact (((h.wbStep hw).setService _).mark _).markAll _
  | searched x next => exact h.serviceStep x next
  | begun o _ => exact h.beginOrder o
  | listA o a _ => exact hmail.listARead o a
  | listB o a _ => exact hmail.listBRead o a
  | stepped o _ => exact h.beginStep o
  | looked _ _ hl => exact h.lookupStep hl
  | lookedUp o id a u _ hl => exact (h.lookupStep (t := u) (id := id) (by rw [hl]; rfl)).lookedUp o id a
  | conflict o left a _ => exact hmail.conflictWritten o left a
  | boundary o _ => exact h.boundaryStop o
  | stopped o a _ => exact hmail.stopRead o a
  | decided o _ => exact h.decideBoundary o
  | commit o left _ => exact h.commitNext o left
  | committed o left a u _ hw => exact (h.wbStep (t := u) (by rw [hw]; rfl)).commitWritten o left a
  | tuned o left _ => exact h.tuneNext o left
  | retried left => exact h.setPos _
  | outcomes o a failed r c1 c2 _ => exact hmail.outcomesWritten o a failed r c1 c2

theorem engineGo : Grown s₀ s.engineGo :=
  runMicro_inv _ (fun _ _ hs ha => ha.engineMove (State.engineMicro_moves _ hs)) _ s h

/-! ### The Board Handler, the settings and the Status Writer -/

theorem setBoardPos (p : BoardPos) : Grown s₀ (s.setBoardPos p) := h.same rfl rfl

theorem surveyEnds : Grown s₀ s.surveyEnds := h.same rfl rfl

theorem advanceCursor (slot : Nat) : Grown s₀ (s.advanceCursor slot) := h.same rfl rfl

theorem trigger : Grown s₀ s.trigger := by
  unfold State.trigger
  (repeat' split) <;> exact h.same rfl rfl

theorem writeResult (c : Completion) (p : BoardPos) : Grown s₀ (s.writeResult c p) := (h.presentWrite _ _ _).setBoardPos _

theorem writeState (slot code : Nat) (p : BoardPos) : Grown s₀ (s.writeState slot code p) :=
  (h.presentWrite _ _ _).setBoardPos _

theorem listEnded (c : Completion) : Grown s₀ (s.listEnded c) := by
  have hb : ∀ b, Grown s₀ { s with board := b } := fun _ => h.same rfl rfl
  unfold State.listEnded
  dsimp only
  split <;> with_reducible apply_rules [Grown.trigger, Grown.setCause, Grown.writeResult]

theorem slotRead (a n : Nat) (p : BoardPos) : Grown s₀ (s.slotRead a n p) := by
  unfold State.slotRead
  split
  · exact (h.presentRead _ _ _).setBoardPos _
  · exact (h.recordFault _ _ _).surveyEnds

theorem statesStep (next : Nat) (found : List Nat) : Grown s₀ (s.statesStep next found) := by
  unfold State.statesStep
  (repeat' split) <;> with_reducible apply_rules [Grown.slotRead, Grown.surveyEnds, Grown.setBoardPos]

theorem bodiesStep (left : List Nat) (sound : List Candidate) : Grown s₀ (s.bodiesStep left sound) := by
  unfold State.bodiesStep
  (repeat' split) <;> with_reducible apply_rules [Grown.slotRead, Grown.surveyEnds, Grown.setBoardPos]

theorem screen (b : OrderBody) : Grown s₀ (s.screen b).1 := by
  unfold State.screen
  (repeat' split) <;> with_reducible apply_rules [Grown.recordFault]

theorem bodyRead (slot : Nat) (left : List Nat) (sound : List Candidate) (bs : List Byte) :
    Grown s₀ (s.bodyRead slot left sound bs) := by
  have hs := h.screen (orderBody bs)
  unfold State.bodyRead
  dsimp only
  split <;> rename_i hr <;> rw [hr] at hs <;> with_reducible apply_rules [Grown.writeResult, Grown.setBoardPos]

theorem rackRoster (slot : Nat) (b : OrderBody) (list : List Byte) : Grown s₀ (s.rackRoster slot b list).1 := by
  have hl : ∀ k f, Grown s₀ (s.onLine k f) := fun _ _ => h.same rfl rfl
  exact ((hl _ _).mark _).markAll _

theorem rackTune {slot : Nat} {b : OrderBody} {r : State × Completion} (hr : s.rackTune slot b = some r) :
    Grown s₀ r.1 := by
  unfold State.rackTune at hr
  dsimp only at hr
  split at hr
  · cases hr
    exact h
  · obtain ⟨t, ht, rfl⟩ := Option.map_eq_some_iff.1 hr
    exact h.offer ht

theorem carry (c : Candidate) : Grown s₀ (s.carry c).1 := by
  unfold State.carry
  split
  · exact h.same rfl rfl
  · exact h.watchRelease _ _
  · exact h.same rfl rfl

theorem chooseStep (sound : List Candidate) : Grown s₀ (s.chooseStep sound) := by
  unfold State.chooseStep
  (repeat' split)
  · exact h.surveyEnds
  · exact h.surveyEnds
  · exact h.setBoardPos _
  · exact (h.rackTune ‹_›).writeState _ _ _
  · exact h.writeState _ _ _

theorem tuneTaken (c : Completion) (sound : List Candidate) (a : Answer) : Grown s₀ (s.tuneTaken c sound a) := by
  unfold State.tuneTaken
  split <;> with_reducible apply_rules [Grown.writeResult, Grown.surveyEnds, Grown.advanceCursor]

theorem settingsGo : Grown s₀ s.settingsGo := by
  unfold State.settingsGo
  (repeat' split) <;> exact h.same rfl rfl

theorem sweepTake (slot : Nat) (b : OrderBody) : Grown s₀ (s.sweepTake slot b) := by
  unfold State.sweepTake
  dsimp only
  split <;> exact h.same rfl rfl

theorem handHeld (d : HeldDest) (c : Candidate) : Grown s₀ (s.handHeld d c) := by
  unfold State.handHeld
  split
  · exact ((h.setOrder _).setPos _).engineGo
  · exact h.sweepTake _ _
  · have hj : Grown s₀ (s.setJob (.reading c.slot)) := h.same rfl rfl
    exact (hj.presentRead _ _ _).settingsGo

theorem takeOrder (c : Candidate) (sound : List Candidate) : Grown s₀ (s.takeOrder c sound) := by
  have ha := h.advanceCursor c.slot
  unfold State.takeOrder
  dsimp only
  (repeat' split)
  · have hb : ∀ b, Grown s₀ { s.advanceCursor c.slot with board := b } := fun _ => ha.same rfl rfl
    exact (hb _).handHeld _ _
  · exact (ha.rackRoster _ _ _).writeResult _ _
  · exact (ha.presentRead _ _ _).setBoardPos _
  · exact ha.same rfl rfl
  · exact (ha.carry _).writeResult _ _

theorem boardMove {t : State} (hm : BoardMove s t) : Grown s₀ t := by
  have hb : Grown s₀ (s.setMail .board none) := h.setMail _ _
  cases hm with
  | states next found => exact h.statesStep next found
  | bodies left sound => exact h.bodiesStep left sound
  | chosen sound => exact h.chooseStep sound
  | abandoned => exact hb.surveyEnds
  | moved p => exact hb.setBoardPos p
  | body slot left sound bs => exact hb.bodyRead slot left sound bs
  | stateWord slot code p => exact hb.writeState slot code p
  | answered p => exact (hb.setCause _).setBoardPos p
  | taken c sound => exact hb.takeOrder c sound
  | noRoster c sound => exact hb.writeResult _ _
  | roster c sound bs => exact (hb.rackRoster _ _ _).writeResult _ _
  | result c p => exact hb.writeResult c p
  | tuned c sound a => exact hb.tuneTaken c sound a
  | band c sound =>
    have hband : Grown s₀ { s with band := none } := h.same rfl rfl
    exact hband.writeResult _ _
  | listed c => exact hb.listEnded c

theorem boardGo : Grown s₀ s.boardGo :=
  runMicro_inv _ (fun _ _ hs ha => ha.boardMove (State.boardMicro_moves _ hs)) _ s h

theorem announced (r : RecId) (counts : Bool) : Grown s₀ (s.announced r counts) := by
  have hset := h.setCause .statusChanged
  unfold State.announced State.rewriteDone
  dsimp only
  split <;> exact hset.same rfl rfl

theorem recordWritten (r : RecId) (counts : Bool) (base : Nat) : Grown s₀ (s.recordWritten r counts base) := by
  have hb : ∀ r, Grown s₀ (s.bumpSeq r) := fun _ => h.same rfl rfl
  unfold State.recordWritten
  split
  · exact ((hb _).presentWrite _ _ _).same rfl rfl
  · exact h.announced _ _

theorem statusMicro {t : State} (ht : s.statusMicro = some t) : Grown s₀ t := by
  have hm := h.setMail .status none
  unfold State.statusMicro at ht
  split at ht <;> simp only [Option.some.injEq, reduceCtorEq] at ht <;> subst ht
  · exact hm.recordWritten _ _ _
  · unfold State.rewriteDone
    split <;> exact hm.same rfl rfl
  · exact hm.announced _ _

theorem statusGo : Grown s₀ s.statusGo := runMicro_inv _ (fun _ _ hs ha => ha.statusMicro hs) _ s h

/-- Whatever block hears of a fault, the record only counts. -/
theorem wake (o : Owner) : Grown s₀ (s.wake o) := by
  cases o with
  | anchor => exact h
  | board => exact h.boardGo
  | settings => exact h.settingsGo
  | engine => exact h.engineGo
  | cache => exact h.engineGo
  | sweep => exact h
  | status => exact h.statusGo

end Grown

end Sys2Proof.Machine
end

section
/-! A burst that ends in a fault (R183 to R185): the beats completed, the bus released, and the fault record. -/

namespace Sys2Proof.Machine

/-- No beat, no byte. -/
theorem Transfer.store_zero (x : Transfer) (m : Sparse Byte) : x.store m 0 = m := by
  unfold Transfer.store
  split <;> rfl

/-- The bus after a burst that ends in a fault. -/
theorem State.faultBurst_bus {s : State} {src : Source} (x : Transfer) (k addr : Nat) (kind : FaultKind)
    (h : s.port.phase.source = some src) :
    let t := s.faultBurst x k addr kind
    t.mem = x.store s.mem (beatsMoved s.beatBytes x.addr (burstLength s.beatBytes x.addr x.left) k) ∧
      t.port.phase = .free ∧ t.port.lastServed = src := by
  intro t
  let u : State := { s with
    mem := x.store s.mem (beatsMoved s.beatBytes x.addr (burstLength s.beatBytes x.addr x.left) k)
    port := s.port.release.drop x.owner }
  have hmem : t.mem = u.mem := (congrArg State.mem (u.recordFault_eq addr kind x.owner.requester) :)
  have hport : t.port = u.port := (congrArg State.port (u.recordFault_eq addr kind x.owner.requester) :)
  refine ⟨hmem, ?_, ?_⟩ <;> rw [hport]
  · rfl
  · show (s.port.phase.source).getD s.port.lastServed = src
    rw [h]
    rfl

/-- The fault record of a burst that ends in a fault, before anyone hears of it. -/
theorem State.faultBurst_record (s : State) (x : Transfer) (k addr : Nat) (kind : FaultKind) :
    let t := s.faultBurst x k addr kind
    t.hasCause .memoryFault = true ∧ t.fault = if s.hasCause .memoryFault then
      { s.fault with count := min 255 (s.fault.count + 1) }
      else ⟨BitVec.ofNat 32 addr, some kind, some (requesterOf x.owner), 1⟩ := by
  intro t
  let u : State := { s with
    mem := x.store s.mem (beatsMoved s.beatBytes x.addr (burstLength s.beatBytes x.addr x.left) k)
    port := s.port.release.drop x.owner }
  refine ⟨(u.recordFault_hasCause addr kind x.owner.requester .memoryFault).trans (by simp), ?_⟩
  rw [requesterOf_eq]
  exact u.recordFault_fault addr kind x.owner.requester

/-- The owner hears of the fault, and the record takes it. -/
theorem State.faultBurst_faultRecorded (s : State) (x : Transfer) (k addr : Nat) (kind : FaultKind) :
    faultRecorded s ((s.faultBurst x k addr kind).wake x.owner).serveBus (BitVec.ofNat 32 addr) kind x.owner := by
  obtain ⟨hstands, hfault⟩ := s.faultBurst_record x k addr kind
  let f := s.faultBurst x k addr kind
  have hcount : f.fault.count = if s.hasCause .memoryFault then min 255 (s.fault.count + 1) else 1 := by
    rw [hfault]
    split <;> rfl
  have hbound : f.fault.count ≤ 255 := by
    rw [hcount]
    split
    · exact Nat.min_le_left _ _
    · decide
  have hgrown := (Grown.refl hstands hbound).wake x.owner
  let t := (f.wake x.owner).serveBus
  have hcauses : t.causes = (f.wake x.owner).causes := (congrArg State.causes (f.wake x.owner).serveBus_frame :)
  have hrecord : t.fault = (f.wake x.owner).fault := (congrArg State.fault (f.wake x.owner).serveBus_frame :)
  obtain ⟨hstill, hsame, hrise, htop⟩ := hgrown.same hcauses hrecord
  change t.fault = { f.fault with count := t.fault.count } at hsame
  refine ⟨hstill, fun hclear => ?_, fun hset => ?_, fun howner => ?_⟩
  · rw [if_neg (by simp [hclear])] at hcount
    rw [hsame, hfault, if_neg (by simp [hclear])]
    exact ⟨rfl, rfl, rfl, hcount ▸ hrise⟩
  · rw [if_pos hset] at hcount hfault
    refine ⟨?_, hcount ▸ hrise, htop⟩
    exact hsame.trans (congrArg (fun r : FaultRecord => { r with count := t.fault.count }) hfault)
  · have hwake : f.wake x.owner = f := by rcases howner with h | h <;> rw [h] <;> rfl
    rw [show ((s.faultBurst x k addr kind).wake x.owner).serveBus.fault = f.fault from hrecord.trans (by rw [hwake]), hcount]

/-- A burst that ends in a fault, with the bus that it held. -/
theorem State.burstFaulted {s : State} {src : Source} (x : Transfer) (k addr : Nat) (kind : FaultKind)
    (h : s.port.phase.source = some src) :
    let t := ((s.faultBurst x k addr kind).wake x.owner).serveBus
    t.port.lastServed = src ∧ nextServed t.port ∧
      t.mem = x.store s.mem (beatsMoved s.beatBytes x.addr (burstLength s.beatBytes x.addr x.left) k) ∧
      faultRecorded s t (BitVec.ofNat 32 addr) kind x.owner := by
  obtain ⟨hstore, hfree, hsource⟩ := s.faultBurst_bus x k addr kind h
  obtain ⟨hmem, hphase, hlast⟩ := (s.faultBurst x k addr kind).wake_bus x.owner
  refine ⟨?_, State.serveBus_nextServed (hphase.trans hfree), ?_, s.faultBurst_faultRecorded x k addr kind⟩
  · rw [State.serveBus_port_lastServed, hlast, hsource]
  · rw [State.serveBus_mem, hmem, hstore]

/-- The bytes of the beats completed are written, and no others. -/
theorem State.byte_of_store {s t : State} {x : Transfer} {n : Nat} (hmem : t.mem = x.store s.mem n) (hn : n ≤ x.left)
    (hdata : x.data.length = x.left ∨ x.write = false) (htop : x.addr + x.left ≤ 2 ^ 32) {a : Nat} (ha : a < 2 ^ 32) :
    t.byte a = if x.write = true ∧ x.addr ≤ a ∧ a < x.addr + n then x.data.getD (a - x.addr) 0 else s.byte a := by
  rw [State.byte_of_lt _ ha, State.byte_of_lt _ ha, hmem]
  cases hw : x.write with
  | false =>
    rw [Transfer.store_read _ _ hw, if_neg (by simp)]
  | true =>
    have hlen : x.data.length = x.left := hdata.resolve_right (by simp [hw])
    rw [Transfer.sparseGet_store s.mem hw hlen hn htop]
    exact if_congr (by simp) rfl rfl

/-- Settles O13: the fault's own effect on the bus and the record, and what its owner adds to the count
(`Grown.wake`). -/
theorem burstFaultsFillRecord : Obligations.BurstFaultsFillRecord := by
  refine ⟨fun k src x s h hx => ?_, fun k src x s h hx hdata htop hk => ?_⟩
  · obtain ⟨hserved, hnext, hmem, hfault⟩ := s.burstFaulted x 0 x.addr .timeout (src := src) (by rw [h]; rfl)
    refine ⟨_, exec_transferTimeout_of_requesting k h hx, hserved, hnext, hmem.trans ?_, hfault⟩
    exact x.store_zero s.mem
  · intro written
    have hbeat : min k (s.lastBeat x) = k := by
      unfold State.lastBeat
      omega
    have hmoved : ∀ (addr : Nat) (kind : FaultKind), let t := ((s.faultBurst x k addr kind).wake x.owner).serveBus
        t.port.lastServed = src ∧ nextServed t.port ∧ written t ∧
          faultRecorded s t (BitVec.ofNat 32 addr) kind x.owner := fun addr kind => by
      obtain ⟨hserved, hnext, hmem, hfault⟩ := s.burstFaulted x k addr kind (src := src) (by rw [h]; rfl)
      refine ⟨hserved, hnext, fun a ha => ?_, hfault⟩
      exact State.byte_of_store hmem ((beatsMoved_le _ _ _ _).trans (burstLength_le _ _ _)) hdata htop ha
    refine ⟨⟨_, exec_transferTimeout_of_granted k h hx, ?_⟩, _, exec_busError k h hx, ?_⟩ <;> rw [hbeat]
    · exact hmoved _ _
    · exact hmoved _ _

end Sys2Proof.Machine
end
